-- ==== Sys2Proof/Word.lean ====
section
/-! DEFINITION. The machine's words (R6, R7, R9): bits are numbered from 0 at the least significant bit, and a
multi-byte value has its least significant byte first. -/

namespace Sys2Proof

/-- One register of one lane, one code word (R166, R277). -/
abbrev Word := BitVec 32

/-- One byte of memory. -/
abbrev Byte := BitVec 8

/-- A 64-bit value: generic addresses, management registers, job identifiers. -/
abbrev DWord := BitVec 64

/-- One bit per lane of a group; bits at or above the group width are 0 (R10). -/
abbrev Lanes := BitVec 64

/-- The slice x[hi:lo] as a number (R6, R13). -/
def slice {n : Nat} (x : BitVec n) (hi lo : Nat) : Nat :=
  x.toNat / 2 ^ lo % 2 ^ (hi + 1 - lo)

/-- The single bit x[i] (R6). -/
def bit {n : Nat} (x : BitVec n) (i : Nat) : Bool := x.getLsbD i

/-- The slice of a natural number, read as a bit string. -/
def nslice (x hi lo : Nat) : Nat := x / 2 ^ lo % 2 ^ (hi + 1 - lo)

/-- SignExt of an n-bit value held in a natural number, as an integer (R13). -/
def signedOf (n : Nat) (x : Nat) : Int :=
  if x % 2 ^ n < 2 ^ n / 2 then (x % 2 ^ n : Nat) else (x % 2 ^ n : Nat) - (2 ^ n : Nat)

/-- The bytes of a number, least significant first (R7). -/
def bytesOf : Nat → Nat → List Byte
  | 0, _ => []
  | k + 1, x => BitVec.ofNat 8 x :: bytesOf k (x / 256)

/-- The number that bytes spell, least significant first (R7). -/
def natOfBytes : List Byte → Nat
  | [] => 0
  | b :: bs => b.toNat + 256 * natOfBytes bs

/-- Sat(x, lo, hi) of R13. -/
def clampInt (x lo hi : Int) : Int := if x < lo then lo else if hi < x then hi else x

/-- Sat(x, lo, hi) of R13 on counts. -/
def clampNat (x lo hi : Nat) : Nat := if x < lo then lo else if hi < x then hi else x

/-- An integer reduced modulo 2^n (R225). -/
def wrapInt (n : Nat) (x : Int) : Nat := (x % (2 ^ n : Nat)).toNat

/-- The lanes of a mask below `w`, ascending. -/
def lanesOf (m : Lanes) (w : Nat) : List Nat := (List.range w).filter fun l => m.getLsbD l

/-- The mask that holds one lane. -/
def laneBit (l : Nat) : Lanes := BitVec.ofNat 64 (2 ^ l)

/-- The mask that holds the lanes of a list. -/
def maskOf (ls : List Nat) : Lanes := ls.foldl (fun m l => m ||| laneBit l) 0

/-- The mask of all lanes below `w`. -/
def fullMask (w : Nat) : Lanes := BitVec.ofNat 64 (2 ^ w - 1)

/-- The four lanes of quad q (R10). -/
def quadMask (q : Nat) : Lanes := BitVec.ofNat 64 (15 * 2 ^ (4 * q))

/-- The population count of a number's low `n` bits. -/
def popCount : Nat → Nat → Nat
  | 0, _ => 0
  | n + 1, x => x % 2 + popCount n (x / 2)

/-- floor(Log2(x)) for x > 0 (R242). -/
def log2Nat (x : Nat) : Nat := Nat.log2 x

end Sys2Proof
end

