-- ==== Sys2Proof/Config.lean ====
section
/-! DEFINITION. What an implementation fixes, and the free values: constants with no body, so nothing can be proved
about which value they take. Each is named in the assumption log (notes/assumptions/5.md, 7.md, 8.md, 9.md). -/

namespace Sys2Proof.Config

/-- A fresh value wherever the spec leaves one open: the random nonce of R105, the contents read after a key rotation
(R109), the old-or-new choice of a racing access (R208, R294). Applied to State.freeCount, which the use advances. -/
opaque freeBits : Nat → BitVec 64

/-- The implementation's result of FRSQ before the bound of R332 is applied; one value per input (R332). -/
opaque frsq : BitVec 32 → BitVec 32
/-- As `frsq`, for FEXP2. -/
opaque fexp2 : BitVec 32 → BitVec 32
/-- As `frsq`, for FLOG2. -/
opaque flog2 : BitVec 32 → BitVec 32
/-- As `frsq`, for FSIN. -/
opaque fsin : BitVec 32 → BitVec 32
/-- As `frsq`, for FCOS. -/
opaque fcos : BitVec 32 → BitVec 32
/-- As `frsq`, for FTANH. -/
opaque ftanh : BitVec 32 → BitVec 32

/-- SHA3-256 of a byte string (R100, R101, R107): the standard's function, whose text the spec does not give. -/
opaque sha3 : List Byte → BitVec 256
/-- ML-DSA-44: the signature of a digest under a key number (R100, R105, R107). -/
opaque sign : Nat → BitVec 256 → List Byte
/-- ML-DSA-44: a signature of a digest verifies under a key number (R100, R105). -/
opaque verifies : Nat → BitVec 256 → List Byte → Bool
/-- The fused device serial number (R100, R107). -/
opaque serial : BitVec 64
/-- The fused minimum security version of an image type (R100). -/
opaque minVersion : Nat → Nat
/-- The security version that an image carries (R100). -/
opaque imageVersion : List Byte → Nat
/-- The management registers that a boundary policy writes, by BAR 0 offset, with their values, in order; entries of the
pod route table stand at 2^32 plus the entry number (R57, R100). -/
opaque policyWrites : List Byte → List (Nat × BitVec 64)
/-- The identity public key and its certificate, as stored at FACTORY (R105). -/
opaque identityCert : List Byte
/-- The digest of the identity public key (R107). -/
opaque identityDigest : BitVec 256
/-- The digest of the boot ROM's own image (R100 step 1). -/
opaque romDigest : BitVec 256
/-- Hard-repair resources of a bank as its stack reports them (R32). -/
opaque hardFree : Nat → Nat → Nat → BitVec 8

/-- The digest of the owner's public key that the fuses hold at reset, where the life-cycle state is FIELD (R105). -/
opaque ownerDigest : BitVec 256

/-- Key numbers for `sign` and `verifies`: the vendor root, the test key, the identity key, and the owner key whose public
key has a digest (R100, R105). -/
def keyVendor : Nat := 0
def keyTest : Nat := 1
def keyIdentity : Nat := 3
def keyOwner (digest : BitVec 256) : Nat := 4 + digest.toNat

/-- The static address of the sideband target (R19). -/
def sbStatic : BitVec 7 := 0x4C

/-- Bytes of a VCN's share of a port's custody buffer (R61), split evenly between requests and the response class, into
which the system class is folded (R68; notes/assumptions/56.md). -/
def custodyShare : Nat := 65536

/-- Bytes of a 256-byte packet with its header and extension (R59, R61). -/
def packetRoom : Nat := 280

/-- Packets of one stream that may be unacknowledged (R62). -/
def streamWindow : Nat := 32768

/-- Registers per vector granule (R116, R173). -/
def granuleRegs : Nat := 8
/-- Bytes of a scratchpad granule (R116). -/
def spadGranule : Nat := 16384
/-- Cores of the module (R4, R15). -/
def numCores : Nat := 64
/-- Group entries of a core: 16 sectors of 16 (R153). -/
def groupEntries : Nat := 256
/-- Groups that a block part may need (R153). -/
def maxPartGroups : Nat := 248
/-- Vector lane-granules of a core (R173). -/
def vecCapacity : Nat := 130944
/-- Tile slots of a core (R173). -/
def tileCapacity : Nat := 32
/-- Accumulator quarter-tiles of a core (R173). -/
def accCapacity : Nat := 16
/-- Threads of one block on one core (R3, R116). -/
def threadsPerCore : Nat := 8192
/-- Entries of the dirty-line FIFO (R187). -/
def fifoDepth : Nat := 256
/-- Entries of a core's mailbox (R130). -/
def mailboxDepth : Nat := 32

end Sys2Proof.Config
end

