-- ==== Sys2Proof/Syntax.lean ====
section
/-! DEFINITION. The syntax of one step: an instruction of the Chrowyn set (R277 to R296) or an indivisible event of the
module (the rows of the opcode table without an encoding), with decoded operands. -/

namespace Sys2Proof

/-- The special values of R284. -/
inductive Special where
  | laneid | quadid | gwidth | zero | one | ones | helper | fone | fhalf | finf | actlo | acthi | flatid | coreid | partid
  deriving DecidableEq, Repr

/-- An operand code of R283. -/
inductive Opnd where
  | v (n : BitVec 7)        -- vector register
  | g (n : BitVec 6)        -- uniform register
  | p (n : BitVec 4)        -- predicate register
  | special (s : Special)   -- special value
  | const (n : BitVec 4)    -- constant 0 to 15
  | q (n : BitVec 2)        -- operand queue q0 to q3
  | sq (n : BitVec 2)       -- store queue s0q to s3q
  | latch (n : Fin 3)       -- operand latch l0 to l2
  deriving DecidableEq, Repr

/-- The TYPE codes of R288; `dflt` is code 0, and `fs` names the format slot in FSI. -/
inductive Ty where
  | dflt | s8 | s16 | s32 | s64 | n8 | n16 | n32 | n64 | b8 | b16 | b32 | b64 | b128 | f32 | f16 | bf16 | fs
  deriving DecidableEq, Repr

/-- The SCOPE codes of R289; `none` is a plain access and `sys` is .dur on PBAR and .srv on SFENCE. -/
inductive Scope where
  | none | grp | blk | cor | coh | dev | pod | sys
  deriving DecidableEq, Repr

/-- The ORD codes of R289. -/
inductive Order where
  | rlx | acq | rel | acr
  deriving DecidableEq, Repr

/-- The comparison conditions of R290. -/
inductive Cond where
  | eq | ne | lt | le | gt | ge | num | nan
  deriving DecidableEq, Repr

/-- The atomic operations of R290. -/
inductive AtomOp where
  | add | min | max | and | or | xor | exch | cas
  deriving DecidableEq, Repr

/-- The resource classes of the sage layout (R287, R368). -/
inductive ResClass where
  | vreg | spad | tile | acc
  deriving DecidableEq, Repr

/-- What every instruction word carries beside its operands (R280, R281): the switch marker, the hold bit, whether an
extension word follows, and the predicate. -/
structure Ctl where
  sw : Bool
  hold : Bool
  ext : Bool
  pred : BitVec 4
  neg : Bool
  deriving DecidableEq, Repr

/-- An instruction with no operand and XF layout none. -/
structure Bare where
  ctl : Ctl
  deriving DecidableEq, Repr

/-- Layout none with operands D, A, B. -/
structure Reg3 where
  ctl : Ctl
  d : Opnd
  a : Opnd
  b : Opnd
  deriving DecidableEq, Repr

/-- BRA and CALL: off16 in A and B of the instruction word (R296, R313). -/
structure Branch where
  ctl : Ctl
  d : Opnd
  off : BitVec 16
  deriving DecidableEq, Repr

/-- Layout imm with operands D and A. -/
structure Imm where
  ctl : Ctl
  d : Opnd
  a : Opnd
  imm : BitVec 16
  deriving DecidableEq, Repr

/-- MOVI: the immediate of R324, its upper half in the instruction word. -/
structure MovImm where
  ctl : Ctl
  d : Opnd
  imm : BitVec 32
  deriving DecidableEq, Repr

/-- LOOP and LBRK: an lc index, the count, the word offset (R317, R319). -/
structure LoopOp where
  ctl : Ctl
  lc : BitVec 2
  count : Opnd
  off : BitVec 16
  deriving DecidableEq, Repr

/-- ENROL, PARK and STRIKE: a j index (R320). -/
structure JoinOp where
  ctl : Ctl
  j : BitVec 3
  deriving DecidableEq, Repr

/-- Layout type (R287): TYPE, SUB, AUX. -/
structure Alu where
  ctl : Ctl
  fsi : BitVec 3
  ty : Ty
  sub : BitVec 5
  aux : BitVec 6
  d : Opnd
  a : Opnd
  b : Opnd
  c : Opnd
  deriving DecidableEq, Repr

/-- The tile row and column instructions of R339: a tile or accumulator index, a segment, the value or destination, and
the row or column operand. -/
structure TileRow where
  ctl : Ctl
  ty : Ty
  isAcc : Bool
  seg : BitVec 6
  idx : BitVec 4
  val : Opnd
  row : Opnd
  deriving DecidableEq, Repr

/-- Layout mem (R287). -/
structure MemOp where
  ctl : Ctl
  scope : Scope
  ord : Order
  ty : Ty
  sub : BitVec 6
  d : Opnd
  a : Opnd
  b : Opnd
  c : Opnd
  deriving DecidableEq, Repr

/-- Layout atom (R287). -/
structure AtomicOp where
  ctl : Ctl
  scope : Scope
  ord : Order
  cm : Bool
  ty : Ty
  op : AtomOp
  d : Opnd
  a : Opnd
  b : Opnd
  c : Opnd
  deriving DecidableEq, Repr

/-- Layout sync (R287) with operands D, A, B, C. -/
structure SyncOp where
  ctl : Ctl
  scope : Scope
  ord : Order
  sub : BitVec 11
  d : Opnd
  a : Opnd
  b : Opnd
  c : Opnd
  deriving DecidableEq, Repr

/-- Layout sync with a tile index: TCPY and COLL in D, RCPY in B (R357, R391, R395). -/
structure SyncTile where
  ctl : Ctl
  scope : Scope
  ord : Order
  sub : BitVec 11
  tile : BitVec 4
  x : Opnd
  y : Opnd
  deriving DecidableEq, Repr

/-- MCLAIM, MREL, AZERO: one index in D, layout mtx (R376, R382). -/
structure MtxName where
  ctl : Ctl
  sub : BitVec 5
  aux : BitVec 8
  idx : BitVec 4
  deriving DecidableEq, Repr

/-- MMA and MMAS (R380). -/
structure MtxMul where
  ctl : Ctl
  fsa : BitVec 3
  fsb : BitVec 3
  sub : BitVec 5
  ku : BitVec 8
  acc : BitVec 4
  ta : BitVec 4
  tb : BitVec 4
  mask : Opnd
  deriving DecidableEq, Repr

/-- AST (R383): an accumulator index, an address, a step. -/
structure MtxStore where
  ctl : Ctl
  acc : BitVec 4
  addr : Opnd
  step : BitVec 8
  deriving DecidableEq, Repr

/-- ACVT (R384): target tile and format slot, source accumulator, first column group. -/
structure MtxCvt where
  ctl : Ctl
  fsi : BitVec 3
  tile : BitVec 4
  acc : BitVec 4
  c0 : BitVec 8
  deriving DecidableEq, Repr

/-- CVTN, CVTW, SCLX, PACKN, UNPKN (R388). -/
structure MtxReg where
  ctl : Ctl
  fsi : BitVec 3
  sub : BitVec 5
  d : Opnd
  a : Opnd
  b : Opnd
  deriving DecidableEq, Repr

/-- Layout sage (R287, R368). -/
structure SageOp where
  ctl : Ctl
  cls : ResClass
  first : BitVec 4
  d : Opnd
  a : Opnd
  deriving DecidableEq, Repr

/-- The uplink extension of R59. -/
structure UplinkExt where
  dpod : BitVec 10
  spod : BitVec 10
  ddev : BitVec 10
  inb : Bool
  rst : Bool
  deriving DecidableEq, Repr

/-- A fabric packet: the header of R59, its uplink extension and its payload. -/
structure Packet where
  typ : BitVec 5
  vcn : BitVec 4
  cls : BitVec 2
  hops : BitVec 3
  dst : BitVec 12
  src : BitVec 12
  seq : BitVec 16
  tag : BitVec 16
  len : BitVec 9
  rsv : BitVec 4
  addr : BitVec 45
  ext : Option UplinkExt
  payload : List Byte
  deriving DecidableEq, Repr

/-- The storage kinds of R264 and R265, numbered as DETAIL[7:0] of UECC names them. -/
inductive Storage where
  | hbm | homeCache | vault
  | l1 (core : Nat)
  | operand | accumulator | regfile | pewter | tarragon
  deriving DecidableEq, Repr

/-- A stream of R62 seen from this device: the other end's peer number, VCN and CLS, whether this device is the
destination, and for an off-pod stream its pod and the destination device index (R58). -/
structure StreamKey where
  peer : BitVec 12
  vcn : BitVec 4
  cls : BitVec 2
  inbound : Bool
  off : Option (BitVec 10 × BitVec 10)
  deriving DecidableEq, Repr

/-- A private write of the sideband bus: the address it is sent to, and its data bytes (R19). -/
structure SbWrite where
  addr : BitVec 7
  data : List Byte
  deriving DecidableEq, Repr

/-- A private read of the sideband bus: the address it is sent to, and how many bytes the master takes (R19). -/
structure SbRead where
  addr : BitVec 7
  count : Nat
  deriving DecidableEq, Repr

/-- What the FEC of a port saw in a measurement: the corrected symbols, and whether a codeword could not be corrected
(R85). -/
structure FecCount where
  corrected : BitVec 16
  lost : Bool
  deriving DecidableEq, Repr

/-- One step: an instruction of the seven engine classes, or an event of the module. One constructor for each row of
spec/opcode_table.json. -/
inductive Instr where
  -- events: power, reset, thermal, sideband (01)
  | inputVoltageChange (mv : Nat)
  | powerOnReset (holdupOk : Bool)
  | thermSample (celsius : BitVec 7)
  | powerWindow (watts : BitVec 12)
  | sbDynamicAddress (addr : BitVec 7)
  | sbIndexWrite (data : SbWrite)
  | sbRead (count : SbRead)
  -- events: row sparing, retirement, ports (01)
  | spareDone
  | coreRetire (mask : DWord)
  | corePowerDown (core : Nat)
  | portRetrain (port : Nat) (margin : BitVec 2)
  | portDisable (port : Nat)
  | eyeMeasurement (port : Nat) (lane : Nat) (margin : BitVec 8) (fec : FecCount)
  | laneFailure (port : Nat) (lane : Nat)
  | portResume (port : Nat)
  | portTrained (port : Nat)
  | matrixIdleGap (core : Nat)
  -- events: fabric (02)
  | packetForward (inPort : Option Nat) (p : Packet)
  | custodyAck (held : Nat)
  | custodyTimeout (held : Nat)
  | localtmo (tag : BitVec 16)
  | tagReuseTimeout (tag : BitVec 16)
  | gapSkipTimeout (stream : StreamKey)
  | reductionTimeout (collid : Word) (chunk : Nat)
  | reductionForget (collid : Word) (chunk : Nat)
  | evsigResendStop (flag : Nat) (peer : BitVec 12)
  -- events: functions and tenants (03)
  | numvfsWrite (n : Nat)
  | functionLevelReset (vf : Nat)
  | tenCfgWrite (tenant : Nat) (value : DWord)
  | tenantResetRequest (tenant : Nat)
  | pewerase (tenant : Nat)
  | tenantEnable (tenant : Nat)
  | tenantDisable (tenant : Nat)
  | tenantResetEnd (tenant : Nat)
  | keyRotationDone (tenant : Nat)
  | queueEnable (tenant : Nat) (queue : Nat) (value : DWord)
  | queueDisable (tenant : Nat) (queue : Nat)
  | qtailWrite (tenant : Nat) (queue : Nat) (value : Word)
  -- events: Tarragon (04)
  | grid (tenant : Nat) (queue : Nat)
  | arm (tenant : Nat) (queue : Nat)
  | signal (tenant : Nat) (queue : Nat)
  | nopOperator (tenant : Nat) (queue : Nat)
  | fqheadWrite (tenant : Nat) (value : Word)
  | faultRecordWrite (tenant : Nat)
  | jobDelivery (tenant : Nat)
  | jobRetire (entry : Nat)
  | evctlResub (tenant : Nat) (name : Word)
  | evctlRetire (tenant : Nat) (name : Word)
  | evctlDiscard (tenant : Nat) (name : Word)
  | evctlRelaunch (tenant : Nat) (name : Word)
  | evctlSignal (tenant : Nat) (name : Word)
  | evctlInvalid (tenant : Nat)
  | sorOwnerWrite (value : Word)
  | sorWcmt (tenant : Nat) (slot : BitVec 12)
  | sorrelBoundary (tenant : Nat)
  | drain (tenant : Nat)
  | drainResume (tenant : Nat)
  | drainRestore (tenant : Nat)
  | drainWatchdog (core : Nat)
  | drainSave (tenant : Nat)
  | restoreDone (tenant : Nat)
  -- events: secure mailbox, boot (03)
  | secCommandDone (tenant : Option Nat)
  | tenantAttest (tenant : Nat) (cmd : DWord)
  | tenantGetcert (tenant : Nat) (cmd : DWord)
  | hostsigRead (tenant : Nat)
  | registerWrite (fn : Nat) (off : Nat) (size : Nat) (value : DWord)
  -- events: stripes, translation, faults, debug (06, 08)
  | stripeEnable (tenant : Nat) (idx : Nat) (value : DWord)
  | stripeDisable (tenant : Nat) (idx : Nat)
  | stripeMarkLost (tenant : Nat) (idx : Nat) (value : DWord)
  | stripeRebuildEnd (tenant : Nat) (idx : Nat)
  | stripeZeroDone (tenant : Nat) (idx : Nat)
  | rebuildRow (tenant : Nat) (idx : Nat)
  | tlbinv (tenant : Nat) (value : DWord)
  | tlbinvDone (tenant : Nat)
  | pageWalk (core : Nat) (tenant : Nat) (va : DWord)
  | fltres (tenant : Nat) (value : DWord)
  | groupReplay (gid : Nat)
  | memoryError (st : Storage) (place : Nat) (correctable : Bool)
  | twinCompare (gid : Nat)
  | dbgStop (tenant : Nat)
  | dbgStep (tenant : Nat)
  | dbgResume (tenant : Nat)
  | dbgReadimg (tenant : Nat)
  | dbgWriteimg (tenant : Nat)
  | dbgInvalid (tenant : Nat)
  -- events: cores (05, 06)
  | clauseStart (gid : Nat)
  | groupPromotion (gid : Nat)
  | resultWriteback (gid : Nat) (k : Nat) (lanes : Lanes)
  | yieldExpiry (gid : Nat)
  | sleepTimeout (gid : Nat)
  | regroupRepack (block : Nat)
  | groupDrainEnd (gid : Nat)
  | accessEngineRead (gid : Nat) (queue : BitVec 2)
  | asyncCopyWrite (core : Nat) (k : Nat) (count : Nat)
  | bankroleApply (core : Nat)
  | collChunkTimeout (core : Nat) (collid : Word) (chunk : Nat)
  -- CTL (R296)
  | nop (o : Bare)
  | bra (o : Branch)
  | brd (o : Imm)
  | bri (o : Reg3)
  | call (o : Branch)
  | ret (o : Reg3)
  | loop (o : LoopOp)
  | lbrk (o : LoopOp)
  | enrol (o : JoinOp)
  | park (o : JoinOp)
  | strike (o : JoinOp)
  | regang (o : Bare)
  | yield (o : Bare)
  | exit (o : Bare)
  | jobend (o : Bare)
  | trap (o : Imm)
  | bkpt (o : Bare)
  | sleep (o : Bare)
  | gets (o : Imm)
  | setsSrseed (o : Imm)
  | setsSorbnd (o : Imm)
  | setsHostsig (o : Imm)
  | setsBankrole (o : Imm)
  | setsTlbinv (o : Imm)
  | setsFltres (o : Imm)
  | mbxpop (o : Bare)
  | enqop (o : Imm)
  | evsig (o : Reg3)
  | acq (o : SageOp)
  | tryacq (o : SageOp)
  | rel (o : SageOp)
  | claimq (o : SageOp)
  -- INT
  | iadd (o : Alu)
  | isub (o : Alu)
  | imul (o : Alu)
  | imulh (o : Alu)
  | imad (o : Alu)
  | iabs (o : Alu)
  | imin (o : Alu)
  | imax (o : Alu)
  | and (o : Alu)
  | or (o : Alu)
  | xor (o : Alu)
  | andn (o : Alu)
  | shl (o : Alu)
  | shr (o : Alu)
  | sar (o : Alu)
  | rot (o : Alu)
  | popc (o : Alu)
  | clz (o : Alu)
  | brev (o : Alu)
  | bfx (o : Alu)
  | bfi (o : Alu)
  | icmp (o : Alu)
  | isel (o : Alu)
  | mov (o : Alu)
  | movi (o : MovImm)
  | lea (o : Alu)
  | cvti (o : Alu)
  | pand (o : Reg3)
  | por (o : Reg3)
  | pxor (o : Reg3)
  | pnot (o : Reg3)
  -- FLT
  | fadd (o : Alu)
  | fsub (o : Alu)
  | fmul (o : Alu)
  | ffma (o : Alu)
  | ffma2 (o : Alu)
  | hfma2 (o : Alu)
  | fmin (o : Alu)
  | fmax (o : Alu)
  | fcmp (o : Alu)
  | fsel (o : Alu)
  | frnd (o : Alu)
  | fcvt (o : Alu)
  | frcp (o : Alu)
  | frsq (o : Alu)
  | fsqrt (o : Alu)
  | fexp2 (o : Alu)
  | flog2 (o : Alu)
  | fsin (o : Alu)
  | fcos (o : Alu)
  | ftanh (o : Alu)
  | fscl (o : Alu)
  | ffrx (o : Alu)
  | fcls (o : Alu)
  | fdot2 (o : Alu)
  -- XLN
  | shfl (o : Alu)
  | qxch (o : Alu)
  | ballot (o : Reg3)
  | vote (o : Alu)
  | match_ (o : Alu)
  | redux (o : Alu)
  | scan (o : Alu)
  | firstl (o : Reg3)
  | trdrow (o : TileRow)
  | twrrow (o : TileRow)
  | trdcol (o : TileRow)
  | twrcol (o : TileRow)
  -- MEM
  | ld (o : MemOp)
  | st (o : MemOp)
  | lds (o : MemOp)
  | sts (o : MemOp)
  | ldv (o : MemOp)
  | stv (o : MemOp)
  | atom (o : AtomicOp)
  | red (o : AtomicOp)
  | fence (o : SyncOp)
  | sfence (o : SyncOp)
  | pbar (o : SyncOp)
  | cflush (o : MemOp)
  | cinv (o : MemOp)
  | pref (o : MemOp)
  | mcast (o : MemOp)
  -- ASY
  | acpy (o : SyncOp)
  | abatch (o : Reg3)
  | await (o : Reg3)
  | tcpy (o : SyncTile)
  | rcpy (o : SyncTile)
  | coll (o : SyncTile)
  | bari (o : SyncOp)
  | barx (o : SyncOp)
  | bara (o : SyncOp)
  | barw (o : SyncOp)
  | bsync (o : SyncOp)
  | csync (o : SyncOp)
  | qinit (o : SyncOp)
  | qpush (o : SyncOp)
  | qpop (o : SyncOp)
  | qtry (o : SyncOp)
  -- MTX
  | mclaim (o : MtxName)
  | mrel (o : MtxName)
  | mma (o : MtxMul)
  | mmas (o : MtxMul)
  | azero (o : MtxName)
  | ast (o : MtxStore)
  | acvt (o : MtxCvt)
  | mburst (o : Reg3)
  | cvtn (o : MtxReg)
  | cvtw (o : MtxReg)
  | sclx (o : MtxReg)
  | packn (o : MtxReg)
  | unpkn (o : MtxReg)
  -- events of queue records, vectors, links and the tenant mailbox
  | recordRefused (tenant : Nat) (queue : Nat)
  | ringReadFault (tenant : Nat) (queue : Nat)
  | vectorUnmask (fn : Nat) (vector : Nat)
  | linkTraining (flit : Bool)
  | portDown (port : Nat)
  | tenantMailboxRefused (tenant : Nat) (cmd : DWord)
  -- events without an argument: what they act on is a pin, a register or a queue of State
  | powerInputLost
  | perstNAssert
  | perstNRelease
  | pcieHotReset
  | devrst
  | persistDrain
  | wipe
  | measuredBoot
  | modReady
  | thermalTrip
  | pwrAlertChange
  | spareNop
  | softSpare
  | hardSpare
  | spareReserved
  | capRefill
  | deadmapSet
  | deadmapClear
  | vfEnable
  | vfEnableClear
  | getnonce
  | attest
  | getcert
  | lcreq
  | lcCommit
  | stage
  | secInvalid
  | pkgMsextGo
  | lcerrClear
  -- events: the oldest packet of the arrival queue, by its TYPE (R60)
  | rd
  | rdrsp
  | wr
  | wrack
  | atReq
  | atrsp
  | mc
  | mcack
  | rcp
  | rcpack
  | redPkt
  | redres
  | evsub
  | evsigPkt
  | sdelta
  | sdack
  | srbld
  | srbldrsp
  | errNotice
  | gap
  | restart
  | restartAck
  | mgmt
  deriving DecidableEq, Repr

end Sys2Proof
end

