-- ==== Sys2Proof/WellFormed.lean ====
section
/-! DEFINITION. Which instructions the encoding admits: the operand classes of R309, the types, suffixes and codes each
entry of R313 to R408 gives, the hold rule of R169 and the predicate rule of R281. What it refuses takes ILLENC (R282,
R286). Events are well formed when the units they name exist. -/

namespace Sys2Proof

/-! ### Operand classes (R309) -/

namespace Opnd

/-- Class value. -/
def isValue : Opnd → Bool
  | .sq _ => false
  | _ => true

/-- Class group value: the special values that R284 marks as per group or constant. -/
def isGroupValue : Opnd → Bool
  | .g _ | .const _ => true
  | .special s =>
    match s with
    | .laneid | .quadid | .helper | .flatid => false
    | _ => true
  | _ => false

/-- Class pred, and class pdest. -/
def isPred : Opnd → Bool
  | .p _ => true
  | _ => false

/-- Class dest. -/
def isDest : Opnd → Bool
  | .v _ | .g _ | .p _ | .sq _ => true
  | _ => false

/-- A vector or uniform register. -/
def isReg : Opnd → Bool
  | .v _ | .g _ => true
  | _ => false

/-- A vector or uniform register whose number is a multiple of `k` (R166). -/
def isRegMultiple (k : Nat) : Opnd → Bool
  | .v n => n.toNat % k == 0
  | .g n => n.toNat % k == 0
  | _ => false

/-- Class wide as a source of `k` registers (R285). -/
def isWide (k : Nat) : Opnd → Bool
  | .const _ | .special _ => true
  | o => isRegMultiple k o

/-- The code 0x00 that an unused D, A or B field holds (R282). -/
def isUnused : Opnd → Bool
  | .v n => n == 0
  | _ => false

/-- The code 0xE0 that an unused C field holds (R282). -/
def isUnusedC : Opnd → Bool
  | .const n => n == 0
  | _ => false

end Opnd

/-! ### Types (R288, R310) -/

namespace Ty

/-- The type, with code 0 replaced by the major's default. -/
def orElse (t d : Ty) : Ty := if t = .dflt then d else t

/-- Width N in bits; `dflt` and `fs` are not asked for one. -/
def bits : Ty → Nat
  | .s8 | .n8 | .b8 => 8
  | .s16 | .n16 | .b16 | .f16 | .bf16 => 16
  | .s64 | .n64 | .b64 => 64
  | .b128 => 128
  | _ => 32

/-- Bytes of the type. -/
def bytes (t : Ty) : Nat := t.bits / 8

/-- Registers that one value of the type occupies (R166). -/
def regs (t : Ty) : Nat := if t.bits ≤ 32 then 1 else t.bits / 32

/-- A .s type. -/
def isSigned : Ty → Bool
  | .s8 | .s16 | .s32 | .s64 => true
  | _ => false

/-- An integer type, .s or .n. -/
def isInt : Ty → Bool
  | .s8 | .s16 | .s32 | .s64 | .n8 | .n16 | .n32 | .n64 => true
  | _ => false

/-- A bit type of at most 64 bits. -/
def isBits : Ty → Bool
  | .b8 | .b16 | .b32 | .b64 => true
  | _ => false

/-- .f32, .f16 or .bf16. -/
def isFloat : Ty → Bool
  | .f32 | .f16 | .bf16 => true
  | _ => false

/-- The code of R288. -/
def code : Ty → BitVec 5
  | .dflt => 0 | .s8 => 1 | .s16 => 2 | .s32 => 3 | .s64 => 4 | .n8 => 5 | .n16 => 6 | .n32 => 7 | .n64 => 8
  | .b8 => 9 | .b16 => 10 | .b32 => 11 | .b64 => 12 | .b128 => 13 | .f32 => 14 | .f16 => 15 | .bf16 => 16 | .fs => 17

/-- The type of a code of R288; 18 to 31 are reserved. -/
def ofCode (c : BitVec 5) : Option Ty :=
  match c.toNat with
  | 0 => some .dflt | 1 => some .s8 | 2 => some .s16 | 3 => some .s32 | 4 => some .s64 | 5 => some .n8
  | 6 => some .n16 | 7 => some .n32 | 8 => some .n64 | 9 => some .b8 | 10 => some .b16 | 11 => some .b32
  | 12 => some .b64 | 13 => some .b128 | 14 => some .f32 | 15 => some .f16 | 16 => some .bf16 | 17 => some .fs
  | _ => none

end Ty

/-- Class value of a type: wide for types of 64 and 128 bits (R309, R310). -/
def valueOf (t : Ty) (o : Opnd) : Bool := if t.regs == 1 then o.isValue else o.isWide t.regs

/-- Class dest of a type. -/
def destOf (t : Ty) (o : Opnd) : Bool := if t.regs == 1 then o.isDest else o.isRegMultiple t.regs

/-- A v or g destination of a type. -/
def regOf (t : Ty) (o : Opnd) : Bool := o.isRegMultiple t.regs

/-! ### Word-level rules (R169, R281) -/

/-- The predicate of an instruction that acts once for the group (R281). -/
def Ctl.whole (c : Ctl) : Bool := c.pred == 15 && !c.neg

/-- The hold bit is set only where `ok` says that field A is read as a 32-bit source value (R169). -/
def Ctl.holdOk (c : Ctl) (ok : Bool) : Bool := !c.hold || ok

namespace Alu

/-- SUB, AUX and FSI all zero. -/
def plain (o : Alu) : Bool := o.sub == 0 && o.aux == 0 && o.fsi == 0

/-- B is unused. -/
def noB (o : Alu) : Bool := o.b.isUnused

/-- C is unused. -/
def noC (o : Alu) : Bool := o.c.isUnusedC

/-- Field A follows the hold rule when it is a value of type `t`. -/
def holdA (o : Alu) (t : Ty) : Bool := o.ctl.holdOk (t.regs == 1)

/-- Two value sources of type `t`, one destination of it. -/
def binary (o : Alu) (t : Ty) : Bool :=
  destOf t o.d && valueOf t o.a && valueOf t o.b && o.noC && o.holdA t

/-- One value source of type `t`, one destination of it. -/
def unary (o : Alu) (t : Ty) : Bool := destOf t o.d && valueOf t o.a && o.noB && o.noC && o.holdA t

/-- Three value sources of type `t`, one destination of it. -/
def ternary (o : Alu) (t : Ty) : Bool :=
  destOf t o.d && valueOf t o.a && valueOf t o.b && valueOf t o.c && o.holdA t

/-- IADD, ISUB (R321). -/
def wfAddSub (o : Alu) : Bool :=
  let t := o.ty.orElse .s32
  t.isInt && o.sub.ule 1 && o.aux == 0 && o.fsi == 0 && o.binary t

/-- IMUL, IMIN, IMAX (R321). -/
def wfIntBinary (o : Alu) : Bool :=
  let t := o.ty.orElse .s32
  t.isInt && o.plain && o.binary t

/-- IMULH (R321). -/
def wfMulHigh (o : Alu) : Bool :=
  let t := o.ty.orElse .s32
  t.isInt && 32 ≤ t.bits && o.plain && o.binary t

/-- IMAD (R321). -/
def wfMulAdd (o : Alu) : Bool :=
  let t := o.ty.orElse .s32
  t.isInt && o.plain && o.ternary t

/-- IABS (R321). -/
def wfAbs (o : Alu) : Bool :=
  let t := o.ty.orElse .s32
  t.isSigned && o.sub.ule 1 && o.aux == 0 && o.fsi == 0 && o.unary t

/-- .b32 or .b64. -/
def bitTy (t : Ty) : Bool := t == .b32 || t == .b64

/-- AND, OR, XOR, ANDN (R322). -/
def wfLogic (o : Alu) : Bool :=
  let t := o.ty.orElse .b32
  bitTy t && o.plain && o.binary t

/-- SHL, SHR, SAR, ROT: B is read as 32 bits (R310, R322). -/
def wfShift (o : Alu) : Bool :=
  let t := o.ty.orElse .b32
  bitTy t && o.plain && destOf t o.d && valueOf t o.a && o.b.isValue && o.noC && o.holdA t

/-- POPC, CLZ: D is one 32-bit register (R322). -/
def wfCount (o : Alu) : Bool :=
  let t := o.ty.orElse .s32
  (bitTy t || (t.isInt && 32 ≤ t.bits)) && o.plain && o.d.isDest && valueOf t o.a && o.noB && o.noC && o.holdA t

/-- BREV (R322). -/
def wfReverse (o : Alu) : Bool :=
  let t := o.ty.orElse .b32
  bitTy t && o.plain && o.unary t

/-- BFX: B is 32 bits (R323). -/
def wfExtract (o : Alu) : Bool :=
  let t := o.ty.orElse .s32
  t.isInt && 32 ≤ t.bits && o.plain && destOf t o.d && valueOf t o.a && o.b.isValue && o.noC && o.holdA t

/-- BFI: C is 32 bits (R323). -/
def wfInsert (o : Alu) : Bool :=
  let t := o.ty.orElse .s32
  (bitTy t || (t.isInt && 32 ≤ t.bits)) && o.plain && destOf t o.d && valueOf t o.a && valueOf t o.b &&
    o.c.isValue && o.holdA t

/-- ICMP (R324). -/
def wfIntCompare (o : Alu) : Bool :=
  let t := o.ty.orElse .s32
  ((t.isInt && o.sub.ule 5) || (bitTy t && o.sub.ule 1)) && o.aux == 0 && o.fsi == 0 && o.d.isPred &&
    valueOf t o.a && valueOf t o.b && o.noC && o.holdA t

/-- ISEL (R324). -/
def wfIntSelect (o : Alu) : Bool :=
  let t := o.ty.orElse .b32
  bitTy t && o.plain && destOf t o.d && valueOf t o.a && valueOf t o.b && o.c.isPred && o.holdA t

/-- MOV (R324). -/
def wfMove (o : Alu) : Bool :=
  let t := o.ty.orElse .b32
  (bitTy t || t == .b128) && o.plain && o.unary t

/-- LEA (R325). -/
def wfAddress (o : Alu) : Bool :=
  let t := o.ty.orElse .s32
  t.isInt && 32 ≤ t.bits && o.sub == 0 && o.aux.ule 7 && o.fsi == 0 && o.d.isRegMultiple 2 && o.a.isWide 2 &&
    valueOf t o.b && o.noC && o.ctl.holdOk false

/-- The type a SUB code names, with code 0 replaced by the default (R326, R331). -/
def subTy (o : Alu) (d : Ty) : Option Ty := (Ty.ofCode o.sub).map fun t => t.orElse d

/-- CVTI (R326). -/
def wfIntConvert (o : Alu) : Bool :=
  let t := o.ty.orElse .s32
  match o.subTy .s32 with
  | none => false
  | some st =>
    (t.isInt || t.isBits) && (st.isInt || st.isBits) && o.aux.ule 1 && o.fsi == 0 && destOf t o.d &&
      valueOf st o.a && o.noB && o.noC && o.holdA st

/-- FADD, FSUB, FMUL, FMIN, FMAX (R329, R330). -/
def wfFltBinary (o : Alu) : Bool :=
  let t := o.ty.orElse .f32
  t.isFloat && o.plain && o.binary t

/-- FFMA (R329). -/
def wfFltFused (o : Alu) : Bool :=
  let t := o.ty.orElse .f32
  t.isFloat && o.plain && o.ternary t

/-- FFMA2: all four operands are wide (R329). -/
def wfFltPair (o : Alu) : Bool :=
  o.ty.orElse .f32 == .f32 && o.plain && o.d.isRegMultiple 2 && o.a.isWide 2 && o.b.isWide 2 && o.c.isWide 2 &&
    o.ctl.holdOk false

/-- HFMA2 (R329). -/
def wfHalfPair (o : Alu) : Bool :=
  (o.ty == .f16 || o.ty == .bf16) && o.sub.ule 2 && o.aux == 0 && o.fsi == 0 && o.ternary o.ty

/-- FDOT2 (R329): its SUB is accepted as HFMA2's, and changes nothing (notes/assumptions/3.md). -/
def wfDot (o : Alu) : Bool := o.wfHalfPair

/-- FCMP (R330). -/
def wfFltCompare (o : Alu) : Bool :=
  let t := o.ty.orElse .f32
  t.isFloat && o.sub.ule 7 && o.aux == 0 && o.fsi == 0 && o.d.isPred && o.a.isValue && o.b.isValue && o.noC &&
    o.holdA t

/-- FSEL (R330). -/
def wfFltSelect (o : Alu) : Bool :=
  let t := o.ty.orElse .f32
  t.isFloat && o.plain && o.d.isDest && o.a.isValue && o.b.isValue && o.c.isPred && o.holdA t

/-- FRND (R330). -/
def wfRound (o : Alu) : Bool :=
  let t := o.ty.orElse .f32
  t.isFloat && o.sub.ule 3 && o.aux == 0 && o.fsi == 0 && o.unary t

/-- FCVT (R331). -/
def wfFltConvert (o : Alu) : Bool :=
  let t := o.ty.orElse .f32
  match o.subTy .f32 with
  | none => false
  | some st =>
    (t.isInt || t.isFloat || t == .fs) && (st.isInt || st.isFloat || st == .fs) && !(t == .fs && st == .fs) &&
      !(t.isInt && st.isInt) && (if t == .fs then o.aux == 0 else o.aux.ule 3) &&
      (t == .fs || st == .fs || o.fsi == 0) && destOf t o.d && valueOf st o.a && o.noB && o.noC && o.holdA st

/-- The special functions, and FCLS (R332, R333). -/
def wfFltUnary (o : Alu) : Bool :=
  let t := o.ty.orElse .f32
  t.isFloat && o.plain && o.unary t

/-- FFRX: C is a v or g destination (R333). -/
def wfFraction (o : Alu) : Bool :=
  let t := o.ty.orElse .f32
  t.isFloat && o.plain && o.d.isDest && o.a.isValue && o.noB && o.c.isReg && o.holdA t

/-- SHFL: B is 32 bits (R335). -/
def wfShuffle (o : Alu) : Bool :=
  let t := o.ty.orElse .b32
  bitTy t && o.sub.ule 3 && o.aux == 0 && o.fsi == 0 && destOf t o.d && valueOf t o.a && o.b.isValue && o.noC &&
    o.holdA t

/-- QXCH (R336). -/
def wfQuadExchange (o : Alu) : Bool :=
  let t := o.ty.orElse .b32
  bitTy t && o.sub.ule 7 && o.aux == 0 && o.fsi == 0 && o.unary t

/-- VOTE (R337). -/
def wfVote (o : Alu) : Bool :=
  o.ty == .dflt && o.sub.ule 3 && o.aux == 0 && o.fsi == 0 && o.d.isPred && o.a.isPred && o.noB && o.noC &&
    o.ctl.holdOk false

/-- MATCH (R337). -/
def wfMatch (o : Alu) : Bool :=
  let t := o.ty.orElse .b32
  bitTy t && o.plain && o.d.isRegMultiple 2 && valueOf t o.a && o.noB && o.noC && o.holdA t

/-- The pairs of type and operation of R338. -/
def reducePair (t : Ty) (op : BitVec 5) (scan : Bool) : Bool :=
  if t.isInt && 32 ≤ t.bits then op.ule 5
  else if bitTy t then op.ule 5 && !op.ule 2
  else t == .f32 && !scan && op.ule 2

/-- REDUX (R338). -/
def wfRedux (o : Alu) : Bool :=
  let t := o.ty.orElse .b32
  reducePair t o.sub false && o.aux == 0 && o.fsi == 0 && o.unary t

/-- SCAN: SUB[3] is .excl (R338). -/
def wfScan (o : Alu) : Bool :=
  let t := o.ty.orElse .b32
  o.sub.ule 15 && reducePair t (o.sub &&& 7) true && o.aux == 0 && o.fsi == 0 && o.unary t

end Alu

/-! ### The other shapes -/

namespace TileRow

/-- TRDROW and TRDCOL: D is dest, A an index, B a group value (R339). The segment's range depends on the group's width
and is checked with the clause. -/
def wfRead (o : TileRow) : Bool :=
  (o.ty == .dflt || o.ty == .b32) && o.val.isDest && o.row.isGroupValue && o.ctl.holdOk false

/-- TWRROW and TWRCOL: A is a value (R339). -/
def wfWrite (o : TileRow) : Bool := (o.ty == .dflt || o.ty == .b32) && o.val.isValue && o.row.isGroupValue

end TileRow

namespace MemOp

/-- The types of loads (R344). -/
def loadTy (t : Ty) : Bool :=
  match t with
  | .dflt | .s8 | .s16 | .n8 | .n16 | .b8 | .b16 | .b32 | .b64 | .b128 => true
  | _ => false

/-- The types of stores (R344). -/
def storeTy (t : Ty) : Bool :=
  match t with
  | .dflt | .b8 | .b16 | .b32 | .b64 | .b128 => true
  | _ => false

/-- SCOPE and ORD of a load or store whose widest scope is `top` (R289, R344). -/
def strength (o : MemOp) (strong : Order) (local_ : Bool) : Bool :=
  match o.scope with
  | .none => o.ord == .rlx
  | .sys => false
  | .dev | .pod => !local_ && (o.ord == .rlx || o.ord == strong)
  | _ => o.ord == .rlx || o.ord == strong

/-- LD (R343, R344). -/
def wfLoad (o : MemOp) : Bool :=
  loadTy o.ty && o.sub == 0 && o.strength .acq false && regOf (o.ty.orElse .b32) o.d && o.a.isWide 2 &&
    o.b.isUnused && o.c.isUnusedC && o.ctl.holdOk false

/-- ST. -/
def wfStore (o : MemOp) : Bool :=
  storeTy o.ty && o.sub == 0 && o.strength .rel false && o.d.isUnused && o.a.isWide 2 &&
    valueOf (o.ty.orElse .b32) o.b && o.c.isUnusedC && o.ctl.holdOk false

/-- LDS (`local_`) and LDV: A is a value. -/
def wfWindowLoad (local_ : Bool) (o : MemOp) : Bool :=
  loadTy o.ty && o.sub.ule 1 && o.strength .acq local_ && regOf (o.ty.orElse .b32) o.d && o.a.isValue &&
    o.b.isUnused && o.c.isUnusedC

/-- STS (`local_`) and STV. -/
def wfWindowStore (local_ : Bool) (o : MemOp) : Bool :=
  storeTy o.ty && o.sub.ule 1 && o.strength .rel local_ && o.d.isUnused && o.a.isValue &&
    valueOf (o.ty.orElse .b32) o.b && o.c.isUnusedC

/-- CFLUSH, CINV and PREF, with the greatest SUB (R352). -/
def wfLine (top : BitVec 6) (o : MemOp) : Bool :=
  o.scope == .none && o.ord == .rlx && o.ty == .dflt && o.sub.ule top && o.d.isUnused && o.a.isWide 2 &&
    o.b.isUnused && o.c.isUnusedC && o.ctl.holdOk false

/-- MCAST (R353). -/
def wfMulticast (o : MemOp) : Bool :=
  (o.ty == .dflt || o.ty.isBits) && o.sub == 0 &&
    ((o.scope == .none && o.ord == .rlx) || (o.scope == .pod && o.ord == .rel)) && o.d.isRegMultiple 2 &&
    o.a.isWide 2 && valueOf (o.ty.orElse .b32) o.b && o.c.isWide 2 && o.ctl.holdOk false

end MemOp

namespace AtomicOp

/-- The pairs of operation and type of R346. -/
def pair (op : AtomOp) (t : Ty) : Bool :=
  match op with
  | .add => t == .b32 || t == .b64 || (t.isInt && 32 ≤ t.bits) || t == .f32
  | .min | .max => (t.isInt && 32 ≤ t.bits) || t == .f32
  | _ => t == .b32 || t == .b64

/-- SCOPE 1 to 6 (R346). -/
def strong (o : AtomicOp) : Bool := !(o.scope == .none) && !(o.scope == .sys)

/-- .exch or .cas. -/
def returnsOnly (op : AtomOp) : Bool := op == .exch || op == .cas

/-- ATOM (R346). -/
def wfAtom (o : AtomicOp) : Bool :=
  let t := o.ty.orElse .b32
  pair o.op t && o.strong && !(o.cm && returnsOnly o.op) && regOf t o.d && o.a.isWide 2 && valueOf t o.b &&
    (if o.op == .cas then valueOf t o.c else o.c.isUnusedC) && o.ctl.holdOk false

/-- RED (R346). -/
def wfRed (o : AtomicOp) : Bool :=
  let t := o.ty.orElse .b32
  pair o.op t && o.strong && !returnsOnly o.op && (o.ord == .rlx || o.ord == .rel) && o.d.isUnused &&
    o.a.isWide 2 && valueOf t o.b && o.c.isUnusedC && o.ctl.holdOk false

end AtomicOp

/-- Scopes .grp, .blk, .cor and .coh. -/
def Scope.upToCohort (s : Scope) : Bool := s == .grp || s == .blk || s == .cor || s == .coh

namespace SyncOp

/-- D, A, B and C unused. -/
def bare (o : SyncOp) : Bool := o.d.isUnused && o.a.isUnused && o.b.isUnused && o.c.isUnusedC

/-- FENCE (R349). -/
def wfFence (o : SyncOp) : Bool :=
  !(o.scope == .none) && !(o.scope == .sys) && !(o.ord == .rlx) && o.sub == 0 && o.bare && o.ctl.whole &&
    o.ctl.holdOk false

/-- SFENCE (R350). -/
def wfSfence (o : SyncOp) : Bool :=
  o.scope == .sys && o.ord == .rlx && o.sub == 0 && o.d.isReg && o.a.isUnused && o.b.isUnused && o.c.isUnusedC &&
    o.ctl.whole && o.ctl.holdOk false

/-- PBAR (R351). -/
def wfPbar (o : SyncOp) : Bool :=
  o.scope == .sys && o.ord == .rlx && o.sub == 0 && o.bare && o.ctl.whole && o.ctl.holdOk false

/-- BAR of ACPY's SUB (R355). -/
def copyBar (sub : BitVec 11) : Bool := sub.getLsbD 0

/-- GSZ of ACPY's SUB (R355). -/
def copyGather (sub : BitVec 11) : Nat := sub.toNat / 2 % 4

/-- ACPY (R355). -/
def wfCopy (o : SyncOp) : Bool :=
  o.sub.ule 7 && o.ord == .rlx &&
    (if copyBar o.sub then o.scope.upToCohort && o.d.isWide 2 else o.scope == .none && o.d.isUnused) &&
    o.a.isWide 2 && o.b.isWide 2 && (if copyGather o.sub == 0 then o.c.isValue else o.c.isUnusedC) &&
    o.ctl.holdOk false

/-- BARI, BARX, BARA and BARW (R361): the fixed ordering and the greatest SUB. -/
def wfBarrier (ord : Order) (top : BitVec 11) (o : SyncOp) : Bool :=
  o.scope.upToCohort && o.ord == ord && o.sub.ule top && o.d.isReg && o.a.isWide 2 && o.b.isValue &&
    o.c.isUnusedC && o.ctl.whole && o.ctl.holdOk false

/-- BSYNC and CSYNC (R363). -/
def wfJoin (scope : Scope) (o : SyncOp) : Bool :=
  o.scope == scope && o.ord == .acr && o.sub == 0 && o.d.isUnused && o.a.isGroupValue && o.b.isUnused &&
    o.c.isUnusedC && o.ctl.whole

/-- QINIT and QPUSH (R366). -/
def wfQueueIn (ord : Order) (o : SyncOp) : Bool :=
  o.scope.upToCohort && o.ord == ord && o.sub == 0 && o.d.isUnused && o.a.isWide 2 && o.b.isGroupValue &&
    o.c.isUnusedC && o.ctl.whole && o.ctl.holdOk false

/-- QPOP (R366). -/
def wfQueueOut (o : SyncOp) : Bool :=
  o.scope.upToCohort && o.ord == .acq && o.sub == 0 && o.d.isReg && o.a.isWide 2 && o.b.isUnused &&
    o.c.isUnusedC && o.ctl.whole && o.ctl.holdOk false

/-- QTRY (R366). -/
def wfQueueTry (o : SyncOp) : Bool :=
  o.scope.upToCohort && o.a.isWide 2 && o.c.isUnusedC && o.ctl.whole && o.ctl.holdOk false &&
    (if o.sub == 0 then o.ord == .rel && o.d.isReg && o.b.isGroupValue
     else o.sub == 1 && o.ord == .acq && o.d.isRegMultiple 2 && o.b.isUnused)

end SyncOp

namespace SyncTile

/-- TCPY (R357). -/
def wfTileCopy (o : SyncTile) : Bool :=
  o.sub.ule 1 && o.ord == .rlx &&
    (if SyncOp.copyBar o.sub then o.scope.upToCohort && o.y.isWide 2 else o.scope == .none && o.y.isUnused) &&
    o.x.isWide 2 && o.ctl.whole && o.ctl.holdOk false

/-- RCPY: D is the status, A the descriptor's address (R391). -/
def wfRemoteCopy (o : SyncTile) : Bool :=
  o.sub.ule 1 && o.ord == .rlx && o.scope == .none && o.x.isReg && o.y.isWide 2 && o.ctl.whole && o.ctl.holdOk false

/-- COLL (R395). -/
def wfCollective (o : SyncTile) : Bool :=
  o.sub.ule 1 && o.ord == .rlx && o.scope.upToCohort && o.x.isWide 2 && o.y.isWide 2 && o.ctl.whole &&
    o.ctl.holdOk false

end SyncTile

namespace SageOp

/-- A first accumulator name only with class .acc (R368). -/
def firstOk (o : SageOp) : Bool := o.cls == .acc || o.first == 0

/-- ACQ and TRYACQ (R368). -/
def wfRequest (o : SageOp) : Bool := o.firstOk && o.d.isReg && o.a.isGroupValue && o.ctl.whole

/-- REL (R368). -/
def wfRelease (o : SageOp) : Bool := o.firstOk && o.d.isUnused && o.a.isGroupValue && o.ctl.whole

/-- CLAIMQ (R368). -/
def wfQuery (o : SageOp) : Bool := o.first == 0 && o.d.isReg && o.a.isUnused && o.ctl.whole && o.ctl.holdOk false

end SageOp

/-! ### State registers (R406) -/

/-- The width of a state register that GETS may name. -/
def getsWidth (n : Nat) : Option Nat :=
  match n with
  | 0x00 | 0x01 | 0x05 | 0x06 | 0x07 | 0x08 | 0x30 | 0x34 => some 64
  | 0x02 | 0x03 | 0x04 | 0x10 | 0x20 | 0x21 | 0x22 | 0x33 | 0x35 => some 32
  | _ => none

/-- The width of a state register that SETS may name. -/
def setsWidth (n : Nat) : Option Nat :=
  match n with
  | 0x10 | 0x20 | 0x22 => some 32
  | 0x30 | 0x31 | 0x32 => some 64
  | _ => none

namespace Imm

/-- GETS (R405). -/
def wfGets (o : Imm) : Bool :=
  match getsWidth o.imm.toNat with
  | none => false
  | some w => o.d.isRegMultiple (w / 32) && o.a.isUnused && o.ctl.whole && o.ctl.holdOk false

/-- SETS of one state register (R405). -/
def wfSets (n : BitVec 16) (o : Imm) : Bool :=
  match setsWidth n.toNat with
  | none => false
  | some w =>
    o.imm == n && o.d.isUnused && (if w == 32 then o.a.isValue else o.a.isWide 2) && o.ctl.whole &&
      o.ctl.holdOk (w == 32)

/-- BRD: X must be 1 (R313). -/
def wfBranch (o : Imm) : Bool := o.ctl.ext && o.d.isUnused && o.a.isValue

/-- TRAP (R400). -/
def wfTrap (o : Imm) : Bool := o.d.isUnused && o.a.isUnused && o.ctl.holdOk false

/-- ENQOP (R403). -/
def wfEnqop (o : Imm) : Bool :=
  o.imm.ule 15 && o.d.isReg && o.a.isWide 2 && o.ctl.whole && o.ctl.holdOk false

end Imm

/-- An instruction with no operand; `whole` says that it acts once for the group. -/
def Bare.wf (whole : Bool) (o : Bare) : Bool := o.ctl.holdOk false && (!whole || o.ctl.whole)

/-- PARK and REGANG: no extension word but the default one (R320). -/
def Ctl.plainExt (c : Ctl) : Bool := c.whole && c.holdOk false

namespace Reg3

/-- BRI and RET (R313). -/
def wfTarget (o : Reg3) : Bool := o.d.isUnused && o.a.isWide 2 && o.b.isUnused && o.ctl.holdOk false

/-- EVSIG (R404). -/
def wfSignal (o : Reg3) : Bool := o.d.isReg && o.a.isGroupValue && o.b.isGroupValue && o.ctl.whole

/-- PAND, POR, PXOR (R327). -/
def wfPred (o : Reg3) : Bool := o.d.isPred && o.a.isPred && o.b.isPred && o.ctl.holdOk false

/-- PNOT (R327). -/
def wfPredNot (o : Reg3) : Bool := o.d.isPred && o.a.isPred && o.b.isUnused && o.ctl.holdOk false

/-- BALLOT (R337). -/
def wfBallot (o : Reg3) : Bool := o.d.isRegMultiple 2 && o.a.isPred && o.b.isUnused && o.ctl.holdOk false

/-- FIRSTL (R337). -/
def wfFirst (o : Reg3) : Bool := o.d.isReg && o.a.isPred && o.b.isUnused && o.ctl.holdOk false

/-- ABATCH (R359). -/
def wfBatch (o : Reg3) : Bool := o.d.isReg && o.a.isUnused && o.b.isUnused && o.ctl.whole && o.ctl.holdOk false

/-- AWAIT and MBURST (R359, R385). -/
def wfCount (o : Reg3) : Bool := o.d.isUnused && o.a.isGroupValue && o.b.isUnused && o.ctl.whole

end Reg3

namespace Branch

/-- BRA (R313). -/
def wfBra (o : Branch) : Bool := o.d.isUnused && o.ctl.holdOk false

/-- CALL (R313). -/
def wfCall (o : Branch) : Bool := o.d.isRegMultiple 2 && o.ctl.holdOk false

end Branch

namespace LoopOp

/-- LOOP (R317). -/
def wfLoop (o : LoopOp) : Bool := o.lc.ule 2 && o.count.isGroupValue && o.ctl.whole

/-- LBRK (R319). -/
def wfBreak (o : LoopOp) : Bool := o.lc.ule 2 && o.count.isUnused && o.off == 0 && o.ctl.whole && o.ctl.holdOk false

end LoopOp

namespace MtxName

/-- MCLAIM (R376). -/
def wfClaim (o : MtxName) : Bool :=
  ((o.sub == 0 && o.aux == 0) || (o.sub == 1 && o.aux.ule 63)) && o.ctl.whole && o.ctl.holdOk false

/-- MREL (R376). -/
def wfRelease (o : MtxName) : Bool := o.sub == 0 && o.aux == 0 && o.ctl.whole && o.ctl.holdOk false

/-- AZERO (R382). -/
def wfZero (o : MtxName) : Bool := o.sub == 0 && o.aux == 0 && o.ctl.holdOk false

end MtxName

/-- MMA and MMAS (R378, R380). -/
def MtxMul.wf (sparse : Bool) (o : MtxMul) : Bool :=
  o.sub.ule 1 && o.mask.isGroupValue && (!sparse || o.ku.toNat % 3 == 0) && o.ctl.holdOk false

/-- AST (R383). -/
def MtxStore.wf (o : MtxStore) : Bool :=
  o.addr.isWide 2 && !(o.step == 1) && !(o.step == 2) && o.ctl.holdOk false

/-- ACVT (R384). -/
def MtxCvt.wf (o : MtxCvt) : Bool := o.c0.ule 11 && o.ctl.holdOk false

namespace MtxReg

/-- CVTN, CVTW, SCLX (R388). -/
def wfUnary (o : MtxReg) : Bool := o.sub == 0 && o.d.isReg && o.a.isValue && o.b.isUnused

/-- PACKN (R388). -/
def wfPack (o : MtxReg) : Bool := o.sub == 0 && o.d.isReg && o.a.isValue && o.b.isGroupValue

/-- UNPKN (R388). -/
def wfUnpack (o : MtxReg) : Bool :=
  o.d.isReg && o.a.isValue && ((o.sub == 0 && o.b.isValue) || (o.sub == 1 && o.b.isUnused))

end MtxReg

/-- A packet's payload length and extension agree with its header (R59). -/
def Packet.wf (p : Packet) : Bool := p.payload.length ≤ 4096

/-- Well-formedness. For an instruction of the seven engine classes: every field holds a value that its entry accepts.
For an event: the units that it names exist. -/
def Instr.wf : Instr → Bool
  | .inputVoltageChange _ | .powerOnReset _ | .thermSample _ | .powerWindow _ | .sbDynamicAddress _ | .sbIndexWrite _
  | .sbRead _ | .spareDone | .coreRetire _ => true
  | .powerInputLost | .perstNAssert | .perstNRelease | .pcieHotReset | .devrst | .persistDrain | .wipe | .measuredBoot
  | .modReady | .thermalTrip | .pwrAlertChange | .spareNop | .softSpare | .hardSpare | .spareReserved
  | .capRefill | .deadmapSet | .deadmapClear | .vfEnable | .vfEnableClear | .getnonce | .attest | .getcert | .lcreq
  | .lcCommit | .stage | .secInvalid | .pkgMsextGo | .lcerrClear => true
  | .rd | .rdrsp | .wr | .wrack | .atReq | .atrsp | .mc | .mcack | .rcp | .rcpack | .redPkt | .redres | .evsub
  | .evsigPkt | .sdelta | .sdack | .srbld | .srbldrsp | .errNotice | .gap | .restart | .restartAck | .mgmt => true
  | .corePowerDown c | .drainWatchdog c | .bankroleApply c | .matrixIdleGap c => c < 64
  | .portRetrain p _ | .portDisable p | .eyeMeasurement p _ _ _ | .laneFailure p _ | .portResume p | .portTrained p
  | .portDown p => p < 62
  | .packetForward _ p => p.wf
  | .custodyAck _ | .custodyTimeout _ | .localtmo _ | .tagReuseTimeout _ | .gapSkipTimeout _ | .reductionTimeout _ _
  | .reductionForget _ _ | .evsigResendStop _ _ => true
  | .numvfsWrite n => n ≤ 8
  | .functionLevelReset t | .tenCfgWrite t _ | .tenantResetRequest t | .pewerase t | .tenantEnable t
  | .tenantDisable t | .tenantResetEnd t | .keyRotationDone t => t < 8
  | .queueEnable t q _ | .queueDisable t q | .qtailWrite t q _ | .grid t q | .arm t q | .signal t q
  | .nopOperator t q | .recordRefused t q | .ringReadFault t q => t < 8 && q < 16
  | .fqheadWrite t _ | .faultRecordWrite t | .jobDelivery t | .evctlResub t _ | .evctlRetire t _ | .evctlDiscard t _
  | .evctlRelaunch t _ | .evctlSignal t _ | .evctlInvalid t | .sorWcmt t _ | .sorrelBoundary t | .drain t
  | .drainResume t | .drainRestore t | .drainSave t | .restoreDone t | .tenantAttest t _ | .tenantGetcert t _
  | .tenantMailboxRefused t _ | .hostsigRead t | .tlbinv t _ | .tlbinvDone t | .fltres t _ | .dbgStop t | .dbgStep t
  | .dbgResume t | .dbgReadimg t | .dbgWriteimg t | .dbgInvalid t => t < 8
  | .jobRetire _ | .sorOwnerWrite _ | .secCommandDone _ | .memoryError _ _ _ | .linkTraining _ => true
  | .registerWrite fn _ size _ => fn ≤ 8 && (size == 4 || size == 8)
  | .vectorUnmask fn v => fn ≤ 8 && v < 8
  | .stripeEnable t i _ | .stripeDisable t i | .stripeMarkLost t i _ | .stripeRebuildEnd t i | .stripeZeroDone t i
  | .rebuildRow t i => t < 8 && i < 8
  | .pageWalk c t _ => c < 64 && t < 8
  | .groupReplay g | .twinCompare g | .clauseStart g | .groupPromotion g | .resultWriteback g _ _ | .yieldExpiry g
  | .sleepTimeout g | .groupDrainEnd g | .accessEngineRead g _ => g < 16384
  | .regroupRepack _ => true
  | .asyncCopyWrite c _ _ | .collChunkTimeout c _ _ => c < 64
  | .nop o => o.wf false
  | .bra o => o.wfBra
  | .brd o => o.wfBranch
  | .bri o | .ret o => o.wfTarget
  | .call o => o.wfCall
  | .loop o => o.wfLoop
  | .lbrk o => o.wfBreak
  | .enrol o | .strike o => o.ctl.holdOk false
  | .park o => o.ctl.plainExt
  | .regang o => o.ctl.plainExt
  | .yield o | .jobend o | .sleep o | .mbxpop o => o.wf true
  | .exit o | .bkpt o => o.wf false
  | .trap o => o.wfTrap
  | .gets o => o.wfGets
  | .setsSrseed o => o.wfSets 0x10
  | .setsSorbnd o => o.wfSets 0x20
  | .setsHostsig o => o.wfSets 0x22
  | .setsBankrole o => o.wfSets 0x30
  | .setsTlbinv o => o.wfSets 0x31
  | .setsFltres o => o.wfSets 0x32
  | .enqop o => o.wfEnqop
  | .evsig o => o.wfSignal
  | .acq o | .tryacq o => o.wfRequest
  | .rel o => o.wfRelease
  | .claimq o => o.wfQuery
  | .iadd o | .isub o => o.wfAddSub
  | .imul o | .imin o | .imax o => o.wfIntBinary
  | .imulh o => o.wfMulHigh
  | .imad o => o.wfMulAdd
  | .iabs o => o.wfAbs
  | .and o | .or o | .xor o | .andn o => o.wfLogic
  | .shl o | .shr o | .sar o | .rot o => o.wfShift
  | .popc o | .clz o => o.wfCount
  | .brev o => o.wfReverse
  | .bfx o => o.wfExtract
  | .bfi o => o.wfInsert
  | .icmp o => o.wfIntCompare
  | .isel o => o.wfIntSelect
  | .mov o => o.wfMove
  | .movi o => o.d.isDest && o.ctl.holdOk false
  | .lea o => o.wfAddress
  | .cvti o => o.wfIntConvert
  | .pand o | .por o | .pxor o => o.wfPred
  | .pnot o => o.wfPredNot
  | .fadd o | .fsub o | .fmul o | .fmin o | .fmax o => o.wfFltBinary
  | .ffma o => o.wfFltFused
  | .ffma2 o => o.wfFltPair
  | .hfma2 o => o.wfHalfPair
  | .fcmp o => o.wfFltCompare
  | .fsel o => o.wfFltSelect
  | .frnd o => o.wfRound
  | .fcvt o => o.wfFltConvert
  | .frcp o | .frsq o | .fsqrt o | .fexp2 o | .flog2 o | .fsin o | .fcos o | .ftanh o | .fcls o => o.wfFltUnary
  | .fscl o => o.wfFltBinary
  | .ffrx o => o.wfFraction
  | .fdot2 o => o.wfDot
  | .shfl o => o.wfShuffle
  | .qxch o => o.wfQuadExchange
  | .ballot o => o.wfBallot
  | .vote o => o.wfVote
  | .match_ o => o.wfMatch
  | .redux o => o.wfRedux
  | .scan o => o.wfScan
  | .firstl o => o.wfFirst
  | .trdrow o | .trdcol o => o.wfRead
  | .twrrow o | .twrcol o => o.wfWrite
  | .ld o => o.wfLoad
  | .st o => o.wfStore
  | .lds o => o.wfWindowLoad true
  | .sts o => o.wfWindowStore true
  | .ldv o => o.wfWindowLoad false
  | .stv o => o.wfWindowStore false
  | .atom o => o.wfAtom
  | .red o => o.wfRed
  | .fence o => o.wfFence
  | .sfence o => o.wfSfence
  | .pbar o => o.wfPbar
  | .cflush o | .cinv o => o.wfLine 0
  | .pref o => o.wfLine 1
  | .mcast o => o.wfMulticast
  | .acpy o => o.wfCopy
  | .abatch o => o.wfBatch
  | .await o | .mburst o => o.wfCount
  | .tcpy o => o.wfTileCopy
  | .rcpy o => o.wfRemoteCopy
  | .coll o => o.wfCollective
  | .bari o | .barx o => o.wfBarrier .rlx 0
  | .bara o => o.wfBarrier .rel 0
  | .barw o => o.wfBarrier .acq 1
  | .bsync o => o.wfJoin .blk
  | .csync o => o.wfJoin .coh
  | .qinit o => o.wfQueueIn .rlx
  | .qpush o => o.wfQueueIn .rel
  | .qpop o => o.wfQueueOut
  | .qtry o => o.wfQueueTry
  | .mclaim o => o.wfClaim
  | .mrel o => o.wfRelease
  | .mma o => o.wf false
  | .mmas o => o.wf true
  | .azero o => o.wfZero
  | .ast o => o.wf
  | .acvt o => o.wf
  | .cvtn o | .cvtw o | .sclx o => o.wfUnary
  | .packn o => o.wfPack
  | .unpkn o => o.wfUnpack

end Sys2Proof
end

