-- ==== Sys2Proof/Decode.lean ====
section
/-! DEFINITION. The decoder (R277 to R296): from code words to instructions, refusing by name; and the encoder, written
from the same tables. -/

namespace Sys2Proof

/-! ### Operand and field codes -/

/-- The special value of a code 0xD0 to 0xDE (R284); 0xDF is reserved. -/
def Special.ofIndex (n : Nat) : Option Special :=
  match n with
  | 0 => some .laneid | 1 => some .quadid | 2 => some .gwidth | 3 => some .zero | 4 => some .one | 5 => some .ones
  | 6 => some .helper | 7 => some .fone | 8 => some .fhalf | 9 => some .finf | 10 => some .actlo | 11 => some .acthi
  | 12 => some .flatid | 13 => some .coreid | 14 => some .partid
  | _ => none

/-- The low four bits of a special value's code (R284). -/
def Special.index : Special → BitVec 4
  | .laneid => 0 | .quadid => 1 | .gwidth => 2 | .zero => 3 | .one => 4 | .ones => 5 | .helper => 6 | .fone => 7
  | .fhalf => 8 | .finf => 9 | .actlo => 10 | .acthi => 11 | .flatid => 12 | .coreid => 13 | .partid => 14

/-- The operand of a code (R283). -/
def Opnd.ofCode (c : BitVec 8) : Option Opnd :=
  let n := c.toNat
  if n < 0x80 then some (.v (c.setWidth 7))
  else if n < 0xC0 then some (.g (c.setWidth 6))
  else if n < 0xD0 then some (.p (c.setWidth 4))
  else if n < 0xE0 then (Special.ofIndex (n - 0xD0)).map .special
  else if n < 0xF0 then some (.const (c.setWidth 4))
  else if n < 0xF4 then some (.q (c.setWidth 2))
  else if n < 0xF8 then some (.sq (c.setWidth 2))
  else if n = 0xFD then some (.latch 0)
  else if n = 0xFE then some (.latch 1)
  else if n = 0xFF then some (.latch 2)
  else none

/-- The code of an operand (R283). -/
def Opnd.code : Opnd → BitVec 8
  | .v n => 0#1 ++ n
  | .g n => 2#2 ++ n
  | .p n => 12#4 ++ n
  | .special s => 13#4 ++ s.index
  | .const n => 14#4 ++ n
  | .q n => 0x3C#6 ++ n
  | .sq n => 0x3D#6 ++ n
  | .latch n => BitVec.ofNat 8 (0xFD + n.val)

/-- The SCOPE code (R289). -/
def Scope.code : Scope → BitVec 3
  | .none => 0 | .grp => 1 | .blk => 2 | .cor => 3 | .coh => 4 | .dev => 5 | .pod => 6 | .sys => 7

/-- The scope of a code (R289). -/
def Scope.ofCode (c : BitVec 3) : Scope :=
  match c.toNat with
  | 0 => .none | 1 => .grp | 2 => .blk | 3 => .cor | 4 => .coh | 5 => .dev | 6 => .pod | _ => .sys

/-- The ORD code (R289). -/
def Order.code : Order → BitVec 2
  | .rlx => 0 | .acq => 1 | .rel => 2 | .acr => 3

/-- The ordering of a code (R289). -/
def Order.ofCode (c : BitVec 2) : Order :=
  match c.toNat with
  | 0 => .rlx | 1 => .acq | 2 => .rel | _ => .acr

/-- The AOP code (R290). -/
def AtomOp.code : AtomOp → BitVec 5
  | .add => 0 | .min => 1 | .max => 2 | .and => 3 | .or => 4 | .xor => 5 | .exch => 6 | .cas => 7

/-- The atomic operation of a code; 8 to 31 are reserved (R290). -/
def AtomOp.ofCode (c : BitVec 5) : Option AtomOp :=
  match c.toNat with
  | 0 => some .add | 1 => some .min | 2 => some .max | 3 => some .and | 4 => some .or | 5 => some .xor
  | 6 => some .exch | 7 => some .cas
  | _ => none

/-- The comparison of a SUB code; 8 to 31 are reserved (R290). -/
def Cond.ofCode (c : BitVec 5) : Option Cond :=
  match c.toNat with
  | 0 => some .eq | 1 => some .ne | 2 => some .lt | 3 => some .le | 4 => some .gt | 5 => some .ge | 6 => some .num
  | 7 => some .nan
  | _ => none

/-- The CLASS code of the sage layout (R287). -/
def ResClass.code : ResClass → BitVec 2
  | .vreg => 0 | .spad => 1 | .tile => 2 | .acc => 3

/-- The class of a code (R287). -/
def ResClass.ofCode (c : BitVec 2) : ResClass :=
  match c.toNat with
  | 0 => .vreg | 1 => .spad | 2 => .tile | _ => .acc

/-! ### Words and fields -/

/-- The fields of an instruction word and its extension word (R280, R281). -/
structure Fields where
  ctl : Ctl
  op : BitVec 5
  d : BitVec 8
  a : BitVec 8
  b : BitVec 8
  fsi : BitVec 3
  c : BitVec 8
  xf : BitVec 16
  deriving DecidableEq, Repr

/-- One bit. -/
def boolBit (b : Bool) : BitVec 1 := BitVec.ofBool b

/-- The instruction word (R280). -/
def Fields.word (f : Fields) : Word :=
  boolBit f.ctl.sw ++ boolBit f.ctl.ext ++ boolBit f.ctl.hold ++ f.op ++ f.d ++ f.a ++ f.b

/-- The extension word (R281). -/
def Fields.extWord (f : Fields) : Word := f.ctl.pred ++ boolBit f.ctl.neg ++ f.fsi ++ f.c ++ f.xf

/-- The extension word that an instruction with X 0 behaves as having (R281). -/
def defaultExt : Word := 0xF0E00000

/-- The fields of an instruction word and of its extension word (R280, R281). -/
def Fields.ofWords (w e : Word) : Fields where
  ctl :=
    { sw := w.getLsbD 31, ext := w.getLsbD 30, hold := w.getLsbD 29, pred := e.extractLsb' 28 4,
      neg := e.getLsbD 27 }
  op := w.extractLsb' 24 5
  d := w.extractLsb' 16 8
  a := w.extractLsb' 8 8
  b := w.extractLsb' 0 8
  fsi := e.extractLsb' 24 3
  c := e.extractLsb' 16 8
  xf := e.extractLsb' 0 16

/-- The code words of an instruction's fields: one, or two when X is 1 (R277). -/
def Fields.words (f : Fields) : List Word := if f.ctl.ext then [f.word, f.extWord] else [f.word]

/-- Fields with every operand and extension field at its default (R282). -/
def Fields.base (ctl : Ctl) (op : BitVec 5) : Fields :=
  { ctl, op, d := 0, a := 0, b := 0, fsi := 0, c := 0xE0, xf := 0 }

/-- A 4-bit index field (R282). -/
def index4 (c : BitVec 8) : Option (BitVec 4) := if c.toNat < 16 then some (c.setWidth 4) else none

/-- A 3-bit index field (R282). -/
def index3 (c : BitVec 8) : Option (BitVec 3) := if c.toNat < 8 then some (c.setWidth 3) else none

/-- A 2-bit index field (R282). -/
def index2 (c : BitVec 8) : Option (BitVec 2) := if c.toNat < 4 then some (c.setWidth 2) else none

/-! ### The shapes, each with its decoder and its encoder -/

/-- No operand. -/
def Bare.dec (f : Fields) : Option Bare :=
  if f.d = 0 ∧ f.a = 0 ∧ f.b = 0 ∧ f.fsi = 0 ∧ f.c = 0xE0 ∧ f.xf = 0 then some ⟨f.ctl⟩ else none

def Bare.enc (op : BitVec 5) (o : Bare) : Fields := Fields.base o.ctl op

/-- D, A, B with layout none. -/
def Reg3.dec (f : Fields) : Option Reg3 :=
  if f.fsi = 0 ∧ f.c = 0xE0 ∧ f.xf = 0 then
    (Opnd.ofCode f.d).bind fun d => (Opnd.ofCode f.a).bind fun a => (Opnd.ofCode f.b).map fun b => ⟨f.ctl, d, a, b⟩
  else none

def Reg3.enc (op : BitVec 5) (o : Reg3) : Fields :=
  { Fields.base o.ctl op with d := o.d.code, a := o.a.code, b := o.b.code }

/-- D and off16. -/
def Branch.dec (f : Fields) : Option Branch :=
  if f.fsi = 0 ∧ f.c = 0xE0 ∧ f.xf = 0 then (Opnd.ofCode f.d).map fun d => ⟨f.ctl, d, f.a ++ f.b⟩ else none

def Branch.enc (op : BitVec 5) (o : Branch) : Fields :=
  { Fields.base o.ctl op with d := o.d.code, a := o.off.extractLsb' 8 8, b := o.off.extractLsb' 0 8 }

/-- D, A and a 16-bit immediate. -/
def Imm.dec (f : Fields) : Option Imm :=
  if f.b = 0 ∧ f.fsi = 0 ∧ f.c = 0xE0 then
    (Opnd.ofCode f.d).bind fun d => (Opnd.ofCode f.a).map fun a => ⟨f.ctl, d, a, f.xf⟩
  else none

def Imm.enc (op : BitVec 5) (o : Imm) : Fields :=
  { Fields.base o.ctl op with d := o.d.code, a := o.a.code, xf := o.imm }

/-- MOVI's 32-bit immediate, upper half in the instruction word (R324). -/
def MovImm.dec (f : Fields) : Option MovImm :=
  if f.fsi = 0 ∧ f.c = 0xE0 then (Opnd.ofCode f.d).map fun d => ⟨f.ctl, d, f.a ++ f.b ++ f.xf⟩ else none

def MovImm.enc (op : BitVec 5) (o : MovImm) : Fields :=
  { Fields.base o.ctl op with
    d := o.d.code, a := o.imm.extractLsb' 24 8, b := o.imm.extractLsb' 16 8, xf := o.imm.extractLsb' 0 16 }

/-- An lc index, a count and an offset (R317). -/
def LoopOp.dec (f : Fields) : Option LoopOp :=
  if f.b = 0 ∧ f.fsi = 0 ∧ f.c = 0xE0 then
    (index2 f.d).bind fun lc => (Opnd.ofCode f.a).map fun a => ⟨f.ctl, lc, a, f.xf⟩
  else none

def LoopOp.enc (op : BitVec 5) (o : LoopOp) : Fields :=
  { Fields.base o.ctl op with d := 0#6 ++ o.lc, a := o.count.code, xf := o.off }

/-- A j index (R320). -/
def JoinOp.dec (f : Fields) : Option JoinOp :=
  if f.a = 0 ∧ f.b = 0 ∧ f.fsi = 0 ∧ f.c = 0xE0 ∧ f.xf = 0 then (index3 f.d).map fun j => ⟨f.ctl, j⟩ else none

def JoinOp.enc (op : BitVec 5) (o : JoinOp) : Fields := { Fields.base o.ctl op with d := 0#5 ++ o.j }

/-- Layout type (R287). -/
def Alu.dec (f : Fields) : Option Alu :=
  (Ty.ofCode (f.xf.extractLsb' 11 5)).bind fun ty => (Opnd.ofCode f.d).bind fun d =>
    (Opnd.ofCode f.a).bind fun a => (Opnd.ofCode f.b).bind fun b => (Opnd.ofCode f.c).map fun c =>
      ⟨f.ctl, f.fsi, ty, f.xf.extractLsb' 6 5, f.xf.extractLsb' 0 6, d, a, b, c⟩

def Alu.enc (op : BitVec 5) (o : Alu) : Fields :=
  { ctl := o.ctl, op, fsi := o.fsi, d := o.d.code, a := o.a.code, b := o.b.code, c := o.c.code,
    xf := o.ty.code ++ o.sub ++ o.aux }

/-- SUB[0] selects a tile or an accumulator name; SUB[4:1] must be 0 (R339). -/
def tileSub (f : Fields) : Option Bool :=
  if f.xf.extractLsb' 7 4 = 0 then some (f.xf.getLsbD 6) else none

/-- TRDROW and TRDCOL: the index in A (R339). -/
def TileRow.decRead (f : Fields) : Option TileRow :=
  if f.fsi = 0 ∧ f.c = 0xE0 then
    (Ty.ofCode (f.xf.extractLsb' 11 5)).bind fun ty => (tileSub f).bind fun acc => (Opnd.ofCode f.d).bind fun d =>
      (index4 f.a).bind fun i => (Opnd.ofCode f.b).map fun b => ⟨f.ctl, ty, acc, f.xf.extractLsb' 0 6, i, d, b⟩
  else none

def TileRow.encRead (op : BitVec 5) (o : TileRow) : Fields :=
  { Fields.base o.ctl op with
    d := o.val.code, a := 0#4 ++ o.idx, b := o.row.code, xf := o.ty.code ++ 0#4 ++ boolBit o.isAcc ++ o.seg }

/-- TWRROW and TWRCOL: the index in D (R339). -/
def TileRow.decWrite (f : Fields) : Option TileRow :=
  if f.fsi = 0 ∧ f.c = 0xE0 then
    (Ty.ofCode (f.xf.extractLsb' 11 5)).bind fun ty => (tileSub f).bind fun acc => (index4 f.d).bind fun i =>
      (Opnd.ofCode f.a).bind fun a => (Opnd.ofCode f.b).map fun b => ⟨f.ctl, ty, acc, f.xf.extractLsb' 0 6, i, a, b⟩
  else none

def TileRow.encWrite (op : BitVec 5) (o : TileRow) : Fields :=
  { Fields.base o.ctl op with
    d := 0#4 ++ o.idx, a := o.val.code, b := o.row.code, xf := o.ty.code ++ 0#4 ++ boolBit o.isAcc ++ o.seg }

/-- Layout mem (R287). -/
def MemOp.dec (f : Fields) : Option MemOp :=
  if f.fsi = 0 then
    (Ty.ofCode (f.xf.extractLsb' 6 5)).bind fun ty => (Opnd.ofCode f.d).bind fun d => (Opnd.ofCode f.a).bind fun a =>
      (Opnd.ofCode f.b).bind fun b => (Opnd.ofCode f.c).map fun c =>
        ⟨f.ctl, Scope.ofCode (f.xf.extractLsb' 13 3), Order.ofCode (f.xf.extractLsb' 11 2), ty,
          f.xf.extractLsb' 0 6, d, a, b, c⟩
  else none

def MemOp.enc (op : BitVec 5) (o : MemOp) : Fields :=
  { ctl := o.ctl, op, fsi := 0, d := o.d.code, a := o.a.code, b := o.b.code, c := o.c.code,
    xf := o.scope.code ++ o.ord.code ++ o.ty.code ++ o.sub }

/-- Layout atom (R287). -/
def AtomicOp.dec (f : Fields) : Option AtomicOp :=
  if f.fsi = 0 then
    (Ty.ofCode (f.xf.extractLsb' 5 5)).bind fun ty => (AtomOp.ofCode (f.xf.extractLsb' 0 5)).bind fun op =>
      (Opnd.ofCode f.d).bind fun d => (Opnd.ofCode f.a).bind fun a => (Opnd.ofCode f.b).bind fun b =>
        (Opnd.ofCode f.c).map fun c =>
          ⟨f.ctl, Scope.ofCode (f.xf.extractLsb' 13 3), Order.ofCode (f.xf.extractLsb' 11 2), f.xf.getLsbD 10, ty, op,
            d, a, b, c⟩
  else none

def AtomicOp.enc (op : BitVec 5) (o : AtomicOp) : Fields :=
  { ctl := o.ctl, op, fsi := 0, d := o.d.code, a := o.a.code, b := o.b.code, c := o.c.code,
    xf := o.scope.code ++ o.ord.code ++ boolBit o.cm ++ o.ty.code ++ o.op.code }

/-- Layout sync (R287). -/
def SyncOp.dec (f : Fields) : Option SyncOp :=
  if f.fsi = 0 then
    (Opnd.ofCode f.d).bind fun d => (Opnd.ofCode f.a).bind fun a => (Opnd.ofCode f.b).bind fun b =>
      (Opnd.ofCode f.c).map fun c =>
        ⟨f.ctl, Scope.ofCode (f.xf.extractLsb' 13 3), Order.ofCode (f.xf.extractLsb' 11 2), f.xf.extractLsb' 0 11,
          d, a, b, c⟩
  else none

def SyncOp.enc (op : BitVec 5) (o : SyncOp) : Fields :=
  { ctl := o.ctl, op, fsi := 0, d := o.d.code, a := o.a.code, b := o.b.code, c := o.c.code,
    xf := o.scope.code ++ o.ord.code ++ o.sub }

/-- TCPY and COLL: the tile index in D, operands A and B (R357, R395). -/
def SyncTile.decD (f : Fields) : Option SyncTile :=
  if f.fsi = 0 ∧ f.c = 0xE0 then
    (index4 f.d).bind fun t => (Opnd.ofCode f.a).bind fun a => (Opnd.ofCode f.b).map fun b =>
      ⟨f.ctl, Scope.ofCode (f.xf.extractLsb' 13 3), Order.ofCode (f.xf.extractLsb' 11 2), f.xf.extractLsb' 0 11,
        t, a, b⟩
  else none

def SyncTile.encD (op : BitVec 5) (o : SyncTile) : Fields :=
  { Fields.base o.ctl op with
    d := 0#4 ++ o.tile, a := o.x.code, b := o.y.code, xf := o.scope.code ++ o.ord.code ++ o.sub }

/-- RCPY: the status in D, the descriptor in A, the tile index in B (R391). -/
def SyncTile.decB (f : Fields) : Option SyncTile :=
  if f.fsi = 0 ∧ f.c = 0xE0 then
    (Opnd.ofCode f.d).bind fun d => (Opnd.ofCode f.a).bind fun a => (index4 f.b).map fun t =>
      ⟨f.ctl, Scope.ofCode (f.xf.extractLsb' 13 3), Order.ofCode (f.xf.extractLsb' 11 2), f.xf.extractLsb' 0 11,
        t, d, a⟩
  else none

def SyncTile.encB (op : BitVec 5) (o : SyncTile) : Fields :=
  { Fields.base o.ctl op with
    d := o.x.code, a := o.y.code, b := 0#4 ++ o.tile, xf := o.scope.code ++ o.ord.code ++ o.sub }

/-- Layout sage (R287): XF[13:4] unused. -/
def SageOp.dec (f : Fields) : Option SageOp :=
  if f.b = 0 ∧ f.fsi = 0 ∧ f.c = 0xE0 ∧ f.xf.extractLsb' 4 10 = 0 then
    (Opnd.ofCode f.d).bind fun d => (Opnd.ofCode f.a).map fun a =>
      ⟨f.ctl, ResClass.ofCode (f.xf.extractLsb' 14 2), f.xf.extractLsb' 0 4, d, a⟩
  else none

def SageOp.enc (op : BitVec 5) (o : SageOp) : Fields :=
  { Fields.base o.ctl op with d := o.d.code, a := o.a.code, xf := o.cls.code ++ 0#10 ++ o.first }

/-- Layout mtx with one index (R287, R376, R382): FSI and FSB unused. -/
def MtxName.dec (f : Fields) : Option MtxName :=
  if f.a = 0 ∧ f.b = 0 ∧ f.fsi = 0 ∧ f.c = 0xE0 ∧ f.xf.extractLsb' 13 3 = 0 then
    (index4 f.d).map fun i => ⟨f.ctl, f.xf.extractLsb' 8 5, f.xf.extractLsb' 0 8, i⟩
  else none

def MtxName.enc (op : BitVec 5) (o : MtxName) : Fields :=
  { Fields.base o.ctl op with d := 0#4 ++ o.idx, xf := 0#3 ++ o.sub ++ o.aux }

/-- MMA and MMAS (R380). -/
def MtxMul.dec (f : Fields) : Option MtxMul :=
  (index4 f.d).bind fun d => (index4 f.a).bind fun a => (index4 f.b).bind fun b => (Opnd.ofCode f.c).map fun c =>
    ⟨f.ctl, f.fsi, f.xf.extractLsb' 13 3, f.xf.extractLsb' 8 5, f.xf.extractLsb' 0 8, d, a, b, c⟩

def MtxMul.enc (op : BitVec 5) (o : MtxMul) : Fields :=
  { ctl := o.ctl, op, fsi := o.fsa, d := 0#4 ++ o.acc, a := 0#4 ++ o.ta, b := 0#4 ++ o.tb, c := o.mask.code,
    xf := o.fsb ++ o.sub ++ o.ku }

/-- AST (R383). -/
def MtxStore.dec (f : Fields) : Option MtxStore :=
  if f.d = 0 ∧ f.fsi = 0 ∧ f.c = 0xE0 ∧ f.xf.extractLsb' 8 8 = 0 then
    (index4 f.a).bind fun a => (Opnd.ofCode f.b).map fun b => ⟨f.ctl, a, b, f.xf.extractLsb' 0 8⟩
  else none

def MtxStore.enc (op : BitVec 5) (o : MtxStore) : Fields :=
  { Fields.base o.ctl op with a := 0#4 ++ o.acc, b := o.addr.code, xf := 0#8 ++ o.step }

/-- ACVT (R384). -/
def MtxCvt.dec (f : Fields) : Option MtxCvt :=
  if f.b = 0 ∧ f.c = 0xE0 ∧ f.xf.extractLsb' 8 8 = 0 then
    (index4 f.d).bind fun d => (index4 f.a).map fun a => ⟨f.ctl, f.fsi, d, a, f.xf.extractLsb' 0 8⟩
  else none

def MtxCvt.enc (op : BitVec 5) (o : MtxCvt) : Fields :=
  { Fields.base o.ctl op with fsi := o.fsi, d := 0#4 ++ o.tile, a := 0#4 ++ o.acc, xf := 0#8 ++ o.c0 }

/-- CVTN, CVTW, SCLX, PACKN, UNPKN (R388): FSB and AUX unused. -/
def MtxReg.dec (f : Fields) : Option MtxReg :=
  if f.c = 0xE0 ∧ f.xf.extractLsb' 13 3 = 0 ∧ f.xf.extractLsb' 0 8 = 0 then
    (Opnd.ofCode f.d).bind fun d => (Opnd.ofCode f.a).bind fun a => (Opnd.ofCode f.b).map fun b =>
      ⟨f.ctl, f.fsi, f.xf.extractLsb' 8 5, d, a, b⟩
  else none

def MtxReg.enc (op : BitVec 5) (o : MtxReg) : Fields :=
  { Fields.base o.ctl op with
    fsi := o.fsi, d := o.d.code, a := o.a.code, b := o.b.code, xf := 0#3 ++ o.sub ++ 0#8 }

/-! ### The opcode map -/

/-- The SETS of a state register that the map lets SETS write (R406). -/
def setsOf (o : Imm) : Option Instr :=
  match o.imm.toNat with
  | 0x10 => some (.setsSrseed o)
  | 0x20 => some (.setsSorbnd o)
  | 0x22 => some (.setsHostsig o)
  | 0x30 => some (.setsBankrole o)
  | 0x31 => some (.setsTlbinv o)
  | 0x32 => some (.setsFltres o)
  | _ => none

/-- The opcode map of engine class 0 (R296). -/
def decodeCtl (f : Fields) : Option Instr :=
  match f.op.toNat with
  | 0 => (Bare.dec f).map .nop
  | 1 => (Branch.dec f).map .bra
  | 2 => (Imm.dec f).map .brd
  | 3 => (Reg3.dec f).map .bri
  | 4 => (Branch.dec f).map .call
  | 5 => (Reg3.dec f).map .ret
  | 6 => (LoopOp.dec f).map .loop
  | 7 => (LoopOp.dec f).map .lbrk
  | 8 => (JoinOp.dec f).map .enrol
  | 9 => (JoinOp.dec f).map .park
  | 10 => (JoinOp.dec f).map .strike
  | 11 => (Bare.dec f).map .regang
  | 12 => (Bare.dec f).map .yield
  | 13 => (Bare.dec f).map .exit
  | 14 => (Bare.dec f).map .jobend
  | 15 => (Imm.dec f).map .trap
  | 16 => (Bare.dec f).map .bkpt
  | 17 => (Bare.dec f).map .sleep
  | 18 => (Imm.dec f).map .gets
  | 19 => (Imm.dec f).bind setsOf
  | 20 => (Bare.dec f).map .mbxpop
  | 21 => (Imm.dec f).map .enqop
  | 22 => (Reg3.dec f).map .evsig
  | 23 => (SageOp.dec f).map .acq
  | 24 => (SageOp.dec f).map .tryacq
  | 25 => (SageOp.dec f).map .rel
  | 26 => (SageOp.dec f).map .claimq
  | _ => none

/-- The opcode map of engine class 1 (R296). -/
def decodeInt (f : Fields) : Option Instr :=
  match f.op.toNat with
  | 0 => (Alu.dec f).map .iadd
  | 1 => (Alu.dec f).map .isub
  | 2 => (Alu.dec f).map .imul
  | 3 => (Alu.dec f).map .imulh
  | 4 => (Alu.dec f).map .imad
  | 5 => (Alu.dec f).map .iabs
  | 6 => (Alu.dec f).map .imin
  | 7 => (Alu.dec f).map .imax
  | 8 => (Alu.dec f).map .and
  | 9 => (Alu.dec f).map .or
  | 10 => (Alu.dec f).map .xor
  | 11 => (Alu.dec f).map .andn
  | 12 => (Alu.dec f).map .shl
  | 13 => (Alu.dec f).map .shr
  | 14 => (Alu.dec f).map .sar
  | 15 => (Alu.dec f).map .rot
  | 16 => (Alu.dec f).map .popc
  | 17 => (Alu.dec f).map .clz
  | 18 => (Alu.dec f).map .brev
  | 19 => (Alu.dec f).map .bfx
  | 20 => (Alu.dec f).map .bfi
  | 21 => (Alu.dec f).map .icmp
  | 22 => (Alu.dec f).map .isel
  | 23 => (Alu.dec f).map .mov
  | 24 => (MovImm.dec f).map .movi
  | 25 => (Alu.dec f).map .lea
  | 26 => (Alu.dec f).map .cvti
  | 27 => (Reg3.dec f).map .pand
  | 28 => (Reg3.dec f).map .por
  | 29 => (Reg3.dec f).map .pxor
  | 30 => (Reg3.dec f).map .pnot
  | _ => none

/-- The opcode map of engine class 2 (R296). -/
def decodeFlt (f : Fields) : Option Instr :=
  match f.op.toNat with
  | 0 => (Alu.dec f).map .fadd
  | 1 => (Alu.dec f).map .fsub
  | 2 => (Alu.dec f).map .fmul
  | 3 => (Alu.dec f).map .ffma
  | 4 => (Alu.dec f).map .ffma2
  | 5 => (Alu.dec f).map .hfma2
  | 6 => (Alu.dec f).map .fmin
  | 7 => (Alu.dec f).map .fmax
  | 8 => (Alu.dec f).map .fcmp
  | 9 => (Alu.dec f).map .fsel
  | 10 => (Alu.dec f).map .frnd
  | 11 => (Alu.dec f).map .fcvt
  | 12 => (Alu.dec f).map .frcp
  | 13 => (Alu.dec f).map .frsq
  | 14 => (Alu.dec f).map .fsqrt
  | 15 => (Alu.dec f).map .fexp2
  | 16 => (Alu.dec f).map .flog2
  | 17 => (Alu.dec f).map .fsin
  | 18 => (Alu.dec f).map .fcos
  | 19 => (Alu.dec f).map .ftanh
  | 20 => (Alu.dec f).map .fscl
  | 21 => (Alu.dec f).map .ffrx
  | 22 => (Alu.dec f).map .fcls
  | 23 => (Alu.dec f).map .fdot2
  | _ => none

/-- The opcode map of engine class 3 (R296). -/
def decodeXln (f : Fields) : Option Instr :=
  match f.op.toNat with
  | 0 => (Alu.dec f).map .shfl
  | 1 => (Alu.dec f).map .qxch
  | 2 => (Reg3.dec f).map .ballot
  | 3 => (Alu.dec f).map .vote
  | 4 => (Alu.dec f).map .match_
  | 5 => (Alu.dec f).map .redux
  | 6 => (Alu.dec f).map .scan
  | 7 => (Reg3.dec f).map .firstl
  | 8 => (TileRow.decRead f).map .trdrow
  | 9 => (TileRow.decWrite f).map .twrrow
  | 10 => (TileRow.decRead f).map .trdcol
  | 11 => (TileRow.decWrite f).map .twrcol
  | _ => none

/-- The opcode map of engine class 4 (R296). -/
def decodeMem (f : Fields) : Option Instr :=
  match f.op.toNat with
  | 0 => (MemOp.dec f).map .ld
  | 1 => (MemOp.dec f).map .st
  | 2 => (MemOp.dec f).map .lds
  | 3 => (MemOp.dec f).map .sts
  | 4 => (MemOp.dec f).map .ldv
  | 5 => (MemOp.dec f).map .stv
  | 6 => (AtomicOp.dec f).map .atom
  | 7 => (AtomicOp.dec f).map .red
  | 8 => (SyncOp.dec f).map .fence
  | 9 => (SyncOp.dec f).map .sfence
  | 10 => (SyncOp.dec f).map .pbar
  | 11 => (MemOp.dec f).map .cflush
  | 12 => (MemOp.dec f).map .cinv
  | 13 => (MemOp.dec f).map .pref
  | 14 => (MemOp.dec f).map .mcast
  | _ => none

/-- The opcode map of engine class 5 (R296). -/
def decodeAsy (f : Fields) : Option Instr :=
  match f.op.toNat with
  | 0 => (SyncOp.dec f).map .acpy
  | 1 => (Reg3.dec f).map .abatch
  | 2 => (Reg3.dec f).map .await
  | 3 => (SyncTile.decD f).map .tcpy
  | 4 => (SyncTile.decB f).map .rcpy
  | 5 => (SyncTile.decD f).map .coll
  | 6 => (SyncOp.dec f).map .bari
  | 7 => (SyncOp.dec f).map .barx
  | 8 => (SyncOp.dec f).map .bara
  | 9 => (SyncOp.dec f).map .barw
  | 10 => (SyncOp.dec f).map .bsync
  | 11 => (SyncOp.dec f).map .csync
  | 12 => (SyncOp.dec f).map .qinit
  | 13 => (SyncOp.dec f).map .qpush
  | 14 => (SyncOp.dec f).map .qpop
  | 15 => (SyncOp.dec f).map .qtry
  | _ => none

/-- The opcode map of engine class 6 (R296). -/
def decodeMtx (f : Fields) : Option Instr :=
  match f.op.toNat with
  | 0 => (MtxName.dec f).map .mclaim
  | 1 => (MtxName.dec f).map .mrel
  | 2 => (MtxMul.dec f).map .mma
  | 3 => (MtxMul.dec f).map .mmas
  | 4 => (MtxName.dec f).map .azero
  | 5 => (MtxStore.dec f).map .ast
  | 6 => (MtxCvt.dec f).map .acvt
  | 7 => (Reg3.dec f).map .mburst
  | 8 => (MtxReg.dec f).map .cvtn
  | 9 => (MtxReg.dec f).map .cvtw
  | 10 => (MtxReg.dec f).map .sclx
  | 11 => (MtxReg.dec f).map .packn
  | 12 => (MtxReg.dec f).map .unpkn
  | _ => none

/-- The instruction of an engine class and fields, before its entry's conditions (R278, R296). -/
def decodeShape (ecl : Nat) (f : Fields) : Option Instr :=
  match ecl with
  | 0 => decodeCtl f
  | 1 => decodeInt f
  | 2 => decodeFlt f
  | 3 => decodeXln f
  | 4 => decodeMem f
  | 5 => decodeAsy f
  | 6 => decodeMtx f
  | _ => none

/-- The instruction of an engine class and fields; none where the encoding is illegal (R282, R286). -/
def decodeFields (ecl : Nat) (f : Fields) : Option Instr :=
  (decodeShape ecl f).bind fun i => if i.wf then some i else none

/-- The instruction of an instruction word and the word that follows it, which is read only when X is 1 (R277, R281). -/
def decodeInstr (ecl : Nat) (w e : Word) : Option Instr :=
  decodeFields ecl (Fields.ofWords w (if w.getLsbD 30 then e else defaultExt))

/-- The engine class and fields of an instruction; none for an event. -/
def Instr.encFields : Instr → Option (Nat × Fields)
  | .nop o => some (0, Bare.enc 0 o)
  | .bra o => some (0, Branch.enc 1 o)
  | .brd o => some (0, Imm.enc 2 o)
  | .bri o => some (0, Reg3.enc 3 o)
  | .call o => some (0, Branch.enc 4 o)
  | .ret o => some (0, Reg3.enc 5 o)
  | .loop o => some (0, LoopOp.enc 6 o)
  | .lbrk o => some (0, LoopOp.enc 7 o)
  | .enrol o => some (0, JoinOp.enc 8 o)
  | .park o => some (0, JoinOp.enc 9 o)
  | .strike o => some (0, JoinOp.enc 10 o)
  | .regang o => some (0, Bare.enc 11 o)
  | .yield o => some (0, Bare.enc 12 o)
  | .exit o => some (0, Bare.enc 13 o)
  | .jobend o => some (0, Bare.enc 14 o)
  | .trap o => some (0, Imm.enc 15 o)
  | .bkpt o => some (0, Bare.enc 16 o)
  | .sleep o => some (0, Bare.enc 17 o)
  | .gets o => some (0, Imm.enc 18 o)
  | .setsSrseed o => some (0, Imm.enc 19 o)
  | .setsSorbnd o => some (0, Imm.enc 19 o)
  | .setsHostsig o => some (0, Imm.enc 19 o)
  | .setsBankrole o => some (0, Imm.enc 19 o)
  | .setsTlbinv o => some (0, Imm.enc 19 o)
  | .setsFltres o => some (0, Imm.enc 19 o)
  | .mbxpop o => some (0, Bare.enc 20 o)
  | .enqop o => some (0, Imm.enc 21 o)
  | .evsig o => some (0, Reg3.enc 22 o)
  | .acq o => some (0, SageOp.enc 23 o)
  | .tryacq o => some (0, SageOp.enc 24 o)
  | .rel o => some (0, SageOp.enc 25 o)
  | .claimq o => some (0, SageOp.enc 26 o)
  | .iadd o => some (1, Alu.enc 0 o)
  | .isub o => some (1, Alu.enc 1 o)
  | .imul o => some (1, Alu.enc 2 o)
  | .imulh o => some (1, Alu.enc 3 o)
  | .imad o => some (1, Alu.enc 4 o)
  | .iabs o => some (1, Alu.enc 5 o)
  | .imin o => some (1, Alu.enc 6 o)
  | .imax o => some (1, Alu.enc 7 o)
  | .and o => some (1, Alu.enc 8 o)
  | .or o => some (1, Alu.enc 9 o)
  | .xor o => some (1, Alu.enc 10 o)
  | .andn o => some (1, Alu.enc 11 o)
  | .shl o => some (1, Alu.enc 12 o)
  | .shr o => some (1, Alu.enc 13 o)
  | .sar o => some (1, Alu.enc 14 o)
  | .rot o => some (1, Alu.enc 15 o)
  | .popc o => some (1, Alu.enc 16 o)
  | .clz o => some (1, Alu.enc 17 o)
  | .brev o => some (1, Alu.enc 18 o)
  | .bfx o => some (1, Alu.enc 19 o)
  | .bfi o => some (1, Alu.enc 20 o)
  | .icmp o => some (1, Alu.enc 21 o)
  | .isel o => some (1, Alu.enc 22 o)
  | .mov o => some (1, Alu.enc 23 o)
  | .movi o => some (1, MovImm.enc 24 o)
  | .lea o => some (1, Alu.enc 25 o)
  | .cvti o => some (1, Alu.enc 26 o)
  | .pand o => some (1, Reg3.enc 27 o)
  | .por o => some (1, Reg3.enc 28 o)
  | .pxor o => some (1, Reg3.enc 29 o)
  | .pnot o => some (1, Reg3.enc 30 o)
  | .fadd o => some (2, Alu.enc 0 o)
  | .fsub o => some (2, Alu.enc 1 o)
  | .fmul o => some (2, Alu.enc 2 o)
  | .ffma o => some (2, Alu.enc 3 o)
  | .ffma2 o => some (2, Alu.enc 4 o)
  | .hfma2 o => some (2, Alu.enc 5 o)
  | .fmin o => some (2, Alu.enc 6 o)
  | .fmax o => some (2, Alu.enc 7 o)
  | .fcmp o => some (2, Alu.enc 8 o)
  | .fsel o => some (2, Alu.enc 9 o)
  | .frnd o => some (2, Alu.enc 10 o)
  | .fcvt o => some (2, Alu.enc 11 o)
  | .frcp o => some (2, Alu.enc 12 o)
  | .frsq o => some (2, Alu.enc 13 o)
  | .fsqrt o => some (2, Alu.enc 14 o)
  | .fexp2 o => some (2, Alu.enc 15 o)
  | .flog2 o => some (2, Alu.enc 16 o)
  | .fsin o => some (2, Alu.enc 17 o)
  | .fcos o => some (2, Alu.enc 18 o)
  | .ftanh o => some (2, Alu.enc 19 o)
  | .fscl o => some (2, Alu.enc 20 o)
  | .ffrx o => some (2, Alu.enc 21 o)
  | .fcls o => some (2, Alu.enc 22 o)
  | .fdot2 o => some (2, Alu.enc 23 o)
  | .shfl o => some (3, Alu.enc 0 o)
  | .qxch o => some (3, Alu.enc 1 o)
  | .ballot o => some (3, Reg3.enc 2 o)
  | .vote o => some (3, Alu.enc 3 o)
  | .match_ o => some (3, Alu.enc 4 o)
  | .redux o => some (3, Alu.enc 5 o)
  | .scan o => some (3, Alu.enc 6 o)
  | .firstl o => some (3, Reg3.enc 7 o)
  | .trdrow o => some (3, TileRow.encRead 8 o)
  | .twrrow o => some (3, TileRow.encWrite 9 o)
  | .trdcol o => some (3, TileRow.encRead 10 o)
  | .twrcol o => some (3, TileRow.encWrite 11 o)
  | .ld o => some (4, MemOp.enc 0 o)
  | .st o => some (4, MemOp.enc 1 o)
  | .lds o => some (4, MemOp.enc 2 o)
  | .sts o => some (4, MemOp.enc 3 o)
  | .ldv o => some (4, MemOp.enc 4 o)
  | .stv o => some (4, MemOp.enc 5 o)
  | .atom o => some (4, AtomicOp.enc 6 o)
  | .red o => some (4, AtomicOp.enc 7 o)
  | .fence o => some (4, SyncOp.enc 8 o)
  | .sfence o => some (4, SyncOp.enc 9 o)
  | .pbar o => some (4, SyncOp.enc 10 o)
  | .cflush o => some (4, MemOp.enc 11 o)
  | .cinv o => some (4, MemOp.enc 12 o)
  | .pref o => some (4, MemOp.enc 13 o)
  | .mcast o => some (4, MemOp.enc 14 o)
  | .acpy o => some (5, SyncOp.enc 0 o)
  | .abatch o => some (5, Reg3.enc 1 o)
  | .await o => some (5, Reg3.enc 2 o)
  | .tcpy o => some (5, SyncTile.encD 3 o)
  | .rcpy o => some (5, SyncTile.encB 4 o)
  | .coll o => some (5, SyncTile.encD 5 o)
  | .bari o => some (5, SyncOp.enc 6 o)
  | .barx o => some (5, SyncOp.enc 7 o)
  | .bara o => some (5, SyncOp.enc 8 o)
  | .barw o => some (5, SyncOp.enc 9 o)
  | .bsync o => some (5, SyncOp.enc 10 o)
  | .csync o => some (5, SyncOp.enc 11 o)
  | .qinit o => some (5, SyncOp.enc 12 o)
  | .qpush o => some (5, SyncOp.enc 13 o)
  | .qpop o => some (5, SyncOp.enc 14 o)
  | .qtry o => some (5, SyncOp.enc 15 o)
  | .mclaim o => some (6, MtxName.enc 0 o)
  | .mrel o => some (6, MtxName.enc 1 o)
  | .mma o => some (6, MtxMul.enc 2 o)
  | .mmas o => some (6, MtxMul.enc 3 o)
  | .azero o => some (6, MtxName.enc 4 o)
  | .ast o => some (6, MtxStore.enc 5 o)
  | .acvt o => some (6, MtxCvt.enc 6 o)
  | .mburst o => some (6, Reg3.enc 7 o)
  | .cvtn o => some (6, MtxReg.enc 8 o)
  | .cvtw o => some (6, MtxReg.enc 9 o)
  | .sclx o => some (6, MtxReg.enc 10 o)
  | .packn o => some (6, MtxReg.enc 11 o)
  | .unpkn o => some (6, MtxReg.enc 12 o)
  | _ => none

/-- The engine class of an instruction (R278). -/
def Instr.engine (i : Instr) : Option Nat := i.encFields.map (·.1)

/-- The code words of an instruction; none for an event (R277). -/
def Instr.encode (i : Instr) : Option (List Word) := i.encFields.map fun p => p.2.words

/-! ### Clauses (R277 to R279) -/

/-- The clause header (R278). -/
structure Header where
  cnt : Nat
  ecl : Nat
  wait : BitVec 6
  rgp : Bool
  yld : Bool
  dbg : Bool
  nw : Nat
  deriving DecidableEq, Repr

/-- Why a clause takes ILLENC: the header (index 0), an instruction, or a placement. -/
inductive Reject where
  /-- CNT is 0. -/
  | count
  /-- ECL is 7. -/
  | engineClass
  /-- Bits [10:0] are not zero. -/
  | reserved
  /-- NW differs from CNT plus the number of extension words. -/
  | wordCount
  /-- Instruction `n` has no meaning in its class, or a field that its entry does not accept. -/
  | encoding (n : Nat)
  /-- Instruction `n` must be the last of its clause. -/
  | placement (n : Nat)
  /-- RGP is set and instruction `n`, the last, is no BRA, BRD or BRI. -/
  | regroup (n : Nat)
  /-- Instruction `n` names a tile row or column segment that the group's width does not allow (R339). -/
  | segment (n : Nat)
  deriving DecidableEq, Repr

/-- The instruction index that the fault record names (R279). -/
def Reject.index : Reject → Nat
  | .encoding n | .placement n | .regroup n | .segment n => n
  | _ => 0

/-- The header's fields, or why it is illegal (R278). -/
def Header.decode (w : Word) : Except Reject Header :=
  if slice w 31 28 = 0 then .error .count
  else if slice w 27 25 = 7 then .error .engineClass
  else if slice w 10 0 ≠ 0 then .error .reserved
  else .ok
    { cnt := slice w 31 28, ecl := slice w 27 25, wait := w.extractLsb' 19 6, rgp := w.getLsbD 18, yld := w.getLsbD 17,
      dbg := w.getLsbD 16, nw := slice w 15 11 }

/-- The header word (R278). -/
def Header.encode (h : Header) : Word :=
  BitVec.ofNat 4 h.cnt ++ BitVec.ofNat 3 h.ecl ++ h.wait ++ boolBit h.rgp ++ boolBit h.yld ++ boolBit h.dbg ++
    BitVec.ofNat 5 h.nw ++ 0#11

/-- Instructions that must be the last of their clause (R279). -/
def Instr.mustBeLast : Instr → Bool
  | .bra _ | .brd _ | .bri _ | .call _ | .ret _ | .loop _ | .lbrk _ | .park _ | .regang _ => true
  | _ => false

/-- BRA, BRD and BRI, in which a clause with RGP must end (R162, R279). -/
def Instr.endsRegroup : Instr → Bool
  | .bra _ | .brd _ | .bri _ => true
  | _ => false

/-- The segment of a tile row or column instruction lies within the unit for a group of width `w` (R339). -/
def Instr.segmentOk (w : Nat) : Instr → Bool
  | .trdrow o | .twrrow o => decide (w * (o.seg.toNat + 1) ≤ if o.isAcc then 192 else 64)
  | .trdcol o | .twrcol o => decide (w * (o.seg.toNat + 1) ≤ if o.isAcc then 128 else 256)
  | _ => true

/-- The instructions of a clause's words: `n` is the index of the next one and `left` how many remain. -/
def decodeBody (ecl w : Nat) (rgp : Bool) : Nat → Nat → List Word → Except Reject (List Instr)
  | _, 0, [] => .ok []
  | _, 0, _ :: _ => .error .wordCount
  | _, _ + 1, [] => .error .wordCount
  | n, left + 1, x :: rest =>
    let long := x.getLsbD 30
    if long && rest.isEmpty then .error .wordCount
    else
      match decodeInstr ecl x (rest.headD defaultExt) with
      | none => .error (.encoding n)
      | some i =>
        if i.mustBeLast && left != 0 then .error (.placement n)
        else if rgp && left == 0 && !i.endsRegroup then .error (.regroup n)
        else if !i.segmentOk w then .error (.segment n)
        else
          match decodeBody ecl w rgp (n + 1) left (if long then rest.tail else rest) with
          | .error r => .error r
          | .ok is => .ok (i :: is)

/-- Extension words among `left` instructions that start at the head of the list. -/
def countExt : Nat → List Word → Nat
  | 0, _ => 0
  | _ + 1, [] => 0
  | left + 1, x :: rest => if x.getLsbD 30 then 1 + countExt left rest.tail else countExt left rest

/-- A clause decoded whole, for a group of width `w` (R279): the header's faults first, then those of its
instructions in order. -/
def decodeClause (w : Nat) (h : Header) (body : List Word) : Except Reject (List Instr) :=
  if h.nw ≠ h.cnt + countExt h.cnt body ∨ body.length ≠ h.nw then .error .wordCount
  else decodeBody h.ecl w h.rgp 0 h.cnt body

/-! ### Words of the opcode table -/

/-- The lowest engine class in which a word (followed by `e`) is an instruction (notes/assumptions/3.md). -/
def engineOf (w e : Word) : Nat :=
  ((List.range 7).find? fun ecl => (decodeInstr ecl w e).isSome).getD 7

/-- The instruction that the decoder reads from an instruction whose bits are `w`, in the numbering of the opcode table:
the instruction word is bits 31..0 and the extension word, where X is 1, bits 63..32. The class comes from `engineOf`,
since the word holds none. -/
def decodeTableWord (_nbits w : Nat) : Option Instr :=
  let x : Word := BitVec.ofNat 32 w
  let e : Word := BitVec.ofNat 32 (w / 2 ^ 32)
  decodeInstr (engineOf x e) x e

end Sys2Proof
end

