-- ==== Sys2Proof/Machine/Sparse.lean ====
section
/-! DEFINITION. Sparse data by key: lists of key and value pairs with strictly rising keys, the one form in which memory,
register files and tables are held. -/

namespace Sys2Proof.Machine

/-- A map from numbers: pairs with strictly rising keys. -/
abbrev Map (α : Type) := List (Nat × α)

/-- The value at a key, if one is listed. -/
def Map.find {α : Type} : Map α → Nat → Option α
  | [], _ => none
  | (k, v) :: m, x => if x = k then some v else Map.find m x

/-- The value at a key, with the value `d` of every unlisted key. -/
def Map.get {α : Type} (d : α) (m : Map α) (x : Nat) : α := (Map.find m x).getD d

/-- The map with a value listed at a key. -/
def Map.put {α : Type} (x : Nat) (v : α) : Map α → Map α
  | [] => [(x, v)]
  | (k, w) :: m => if x = k then (x, v) :: m else if x < k then (x, v) :: (k, w) :: m else (k, w) :: Map.put x v m

/-- The map with nothing listed at a key. -/
def Map.del {α : Type} (x : Nat) (m : Map α) : Map α := m.filter fun e => e.1 != x

/-- The canonical write: the value of unlisted keys is never listed. -/
def Map.set {α : Type} [DecidableEq α] (d : α) (m : Map α) (x : Nat) (v : α) : Map α :=
  if v = d then Map.del x m else Map.put x v m

/-- The map with the value at a key changed by `f`. -/
def Map.modify {α : Type} (d : α) (f : α → α) (m : Map α) (x : Nat) : Map α := Map.put x (f (Map.get d m x)) m

/-- Keys strictly rise, and all are at least `lo`. -/
def Map.sortedFrom {α : Type} : Nat → Map α → Bool
  | _, [] => true
  | lo, (k, _) :: m => decide (lo ≤ k) && Map.sortedFrom (k + 1) m

/-- The canonical form: keys strictly rise, and no entry holds the value of unlisted keys. -/
def Map.wf {α : Type} [DecidableEq α] (d : α) (m : Map α) : Bool :=
  Map.sortedFrom 0 m && m.all fun e => decide (e.2 ≠ d)

/-- The keys of a map, ascending. -/
def Map.keys {α : Type} (m : Map α) : List Nat := m.map (·.1)

/-- The map without the entries whose key fails `p`. -/
def Map.keep {α : Type} (p : Nat → Bool) (m : Map α) : Map α := m.filter fun e => p e.1

/-- A number added to a sorted list without repeats. -/
def insertNat (x : Nat) : List Nat → List Nat
  | [] => [x]
  | y :: ys => if x = y then y :: ys else if x < y then x :: y :: ys else y :: insertNat x ys

end Sys2Proof.Machine
end

