-- ==== Sys2Proof/Machine/State.lean ====
section
/-! DEFINITION. The state of one SK960 module: everything the spec gives it, as plain data; what a step can end in; and
the state after reset. Values that the spec does not give are named in the assumption log (notes/assumptions/2.md). -/

namespace Sys2Proof.Machine

/-! ### Lanes, quads and parts of a group (05) -/

/-- The condition of one lane (R156, R157, R158, R164, R318). -/
inductive LaneCond where
  | active
  | waiting (resume : Nat)                  -- waits at a clause address (R156)
  | held (clause : Nat) (j : Nat) (next : Nat)   -- held at the PARK on `j` of that clause (R158)
  | atEnd (lc : Nat)                        -- waits at the end of loop `lc` (R318)
  | exited
  deriving DecidableEq, Repr

/-- What holds a part between clauses (R161, R162, R317, R318, R363). -/
inductive Hold where
  | run
  | regang (clause : Nat) (next : Nat)      -- parked at a REGANG (R161)
  | loop (clause : Nat)                     -- parked at a LOOP's rendezvous (R317)
  | loopReady                               -- merged at the LOOP, whose checks are to run (R317)
  | loopEnd (lc : Nat)                      -- arrived at the end of an active loop (R318)
  | bsync (n : Nat)                         -- arrived at block barrier n (R363)
  | csync (n : Nat)                         -- arrived at cohort barrier n (R363)
  | regroup (clause : Nat)                  -- held at the regroup point of a clause (R162)
  deriving DecidableEq, Repr

/-- The clause that a part is issuing: its address, header fields and instructions, and the index of the next one
(R277, R279). -/
structure Clause where
  addr : Nat
  next : Nat
  wait : BitVec 6
  rgp : Bool
  yld : Bool
  instrs : List Instr
  idx : Nat
  deriving DecidableEq, Repr

/-- A part: quads that share one counter (R159). -/
structure Part where
  quads : BitVec 16
  pc : Nat
  clause : Option Clause
  hold : Hold
  deriving DecidableEq, Repr

/-- A hardware loop of a group (R295, R317). -/
structure Loop where
  lc : Nat
  count : BitVec 32
  start : Nat
  last : Nat
  exit : Nat
  active : Bool
  deriving DecidableEq, Repr

/-- A group's registers (R166, R169, R237, R271). Vector registers and latch entries are keyed 64 × number + lane. -/
structure Regs where
  v : Map Word
  g : Map Word
  p : Map Lanes
  j : Map Lanes
  z : Map Word
  fs : Map DWord
  latch : Map Word
  latchAge : Map Nat        -- instructions remaining plus one; 0 is invalid
  tile : Map Nat            -- tile names bound, to slot numbers
  acc : Map Nat             -- accumulator names bound, to quarter-tile numbers
  srseed : Word             -- the last value written, or %jobid[31:0] (R237)
  bad : List Nat            -- poisoned registers, by the keys of Machine/Ops.lean (R264)
  deriving DecidableEq, Repr

/-- One pattern of an access slice (R303), with its position (R271). -/
structure Pattern where
  queue : Nat
  base : Nat
  size : Nat
  lstride : Int
  levels : List (Nat × Int)
  pos : Nat                 -- elements already taken by the engine (operand) or pushed (store)
  deriving DecidableEq, Repr

/-- An entry of an operand queue: the value of each lane, and the lanes whose read faulted (R171). -/
structure QEntry where
  elem : Nat                -- element number in the pattern
  vals : Map Word
  bad : Lanes
  deriving DecidableEq, Repr

/-- The kinds of outstanding operation that WAIT bits name (R293). -/
inductive Kind where
  | ld | st | mx | xl | fb | as
  deriving DecidableEq, Repr

/-- A variable-latency result not yet written (R291, R294): the destination, how many registers it occupies, the value
of each lane, and the lanes whose value a response has still to bring. -/
structure Pend where
  id : Nat
  kind : Kind
  dst : Opnd
  nregs : Nat
  low : Nat                 -- the lowest lane that takes part, whose value a uniform destination receives (R311)
  vals : Map Nat
  missing : Lanes
  sx : Nat                  -- a loaded value is extended from this many bits with its sign; 0 for zeros (R310)
  mirror : Nat              -- one more than the group of the twin copy that receives the same value; 0 for none (R210)
  drop : List Nat           -- 64 × register + lane: overwritten by a later write, or already written
  deriving DecidableEq, Repr

/-- A lane whose access failed, and how (R254). -/
structure LaneErr where
  lane : Nat
  cause : BitVec 8
  va : Nat
  entry : Nat
  level : Nat
  detail : DWord
  write : Bool
  stripe : Nat := 8                  -- the stripe that froze the access (R221); 8 for none
  remote : Bool := false             -- an error notice raised it (R254)
  deriving DecidableEq, Repr

/-- An instruction with the operand values captured at its first issue (R258, R259): operand values are keyed
64 × field + lane, with field 0 for A, 1 for B and 2 for C; key 64 × (8 + field) holds the element of a queue operand. -/
structure Capture where
  id : Nat
  instr : Instr
  clause : Nat
  idx : Nat
  quads : BitVec 16
  part : Lanes              -- lanes that take part in the instruction (R308, R424)
  left : Lanes              -- lanes that the replay performs
  ops : Map Nat
  pend : Nat                -- the result that the replay completes; 0 for none
  out : Nat                 -- packets of the instruction not yet answered (R259)
  errs : List LaneErr       -- lanes whose packets ended with an error notice of class V, not yet recorded
  records : List Nat        -- SEQs of records not yet resolved
  unwritten : Nat           -- records not yet written to the queue
  kill : Bool               -- a record was resolved with KILL
  fetch : Bool              -- a clause fetch: the replay issues the clause afresh (R424)
  parked : Bool             -- its part is held by the park; false while remote lanes are only outstanding (R259)
  faults : List LaneErr := []   -- the failures that its records name, while the instruction issues (R255)
  remote : Bool := false    -- it had remote lanes, for which the group keeps operands (R259)
  pewter : Bool := false    -- some failed lane stores to Pewter at a peer (R213)
  stands : Bool := false    -- its part stands at the instruction, none of whose lanes has been performed (R258)
  deriving DecidableEq, Repr

/-- What a parked group waits for. -/
inductive Wait where
  | switch                           -- a switch marker (R292)
  | kinds (w : BitVec 6)             -- WAIT bits (R293)
  | remote                           -- responses of remote operations (R195, R213, R220)
  | response (sc : Scope)            -- the value of a remote acquire load, and the acquire that follows it (R195)
  | guarded                          -- acknowledgements of guarded stores (R195)
  | deltas                           -- SFENCE: guarded stores, local and remote, and multicasts (R220)
  | record                           -- a trap whose record cannot be written yet (R98)
  | durable                          -- PBAR: remote stores to Pewter (R213)
  | batch (n : Nat)                  -- AWAIT (R192)
  | phase (obj : Nat) (p : BitVec 32)   -- BARW (R362)
  | qroom (obj : Nat)                -- QPUSH (R366)
  | qdata (obj : Nat)                -- QPOP (R366)
  | units (cls : ResClass)           -- REL (R370)
  | copies                           -- room for outstanding requests (R358)
  | captures                         -- a ninth instruction with remote lanes (R259)
  | boundary (iter : BitVec 32)      -- SETS of %sorbnd (R138)
  | tlbinv                           -- SETS of %tlbinv (R250)
  | bankrole                         -- SETS of %bankrole (R191)
  | mailbox                          -- MBXPOP (R130)
  | budget (host : Bool) (units : Nat)   -- an injection cap (R103)
  | pass                             -- a compare point (R267)
  | ring (queue : Nat)               -- an earlier ENQOP to the queue (R141)
  | peek                             -- remote bytes that the operation reads itself: code, descriptors, slices
  deriving DecidableEq, Repr

/-- Why a group does not issue. -/
inductive Park where
  | none
  | wait (w : Wait)
  | sage (cls : ResClass) (n : Nat) (first : Nat) (dst : Opnd) (quads : BitVec 16)   -- ACQ (R178)
  | sleep                            -- SLEEP (R401)
  | yield (others : List Nat) (left : Nat)   -- YIELD: groups still to issue, and clk left (R315)
  | draining                         -- the draining state (R164)
  deriving DecidableEq, Repr

/-- A store held by a twin copy until a compare point (R210, R267). -/
structure HeldStore where
  serial : Nat                       -- the same for every entry of one performance of one instruction
  place : Nat
  bytes : List (Option Byte)
  lane : Nat
  cap : Option Capture               -- what a replay of its lane needs, for a store to a peer (R259)
  deriving DecidableEq, Repr

/-- What a group is (R148, R256, R150). -/
inductive Role where
  | worker | service | job
  deriving DecidableEq, Repr

/-- How a group's lanes flow (05). -/
structure Flow where
  width : Nat
  helper : Lanes
  absent : BitVec 16
  cond : Map LaneCond
  parts : List Part
  loops : List Loop
  deriving DecidableEq, Repr

/-- A group's access slice (R170, R171). -/
structure Slice where
  used : Bool
  unread : Option Nat                -- the slice's address while it is not yet read (R303)
  base : Map Word                    -- the uniform registers at group start, while it is not yet read (R303)
  fault : Option LaneErr             -- a failed read of it, due at the group's first instruction (R303)
  spoilt : Option Nat                -- a poisoned place met in reading it
  malformed : Bool                   -- DESCRIPTOR is due at the group's first instruction (R303)
  patterns : List Pattern
  queues : Map (List QEntry)
  deriving DecidableEq, Repr

/-- A group's outstanding operations. -/
structure Ops where
  pend : List Pend
  captures : List Capture
  batch : BitVec 32                  -- last batch closed (R192)
  batchCopies : List (Nat × Nat)     -- copy identifiers of each closed batch
  openCopies : List Nat              -- copies not yet closed into a batch
  tagged : List Nat                  -- tags of outstanding remote operations
  deltas : Nat                       -- guarded stores whose delta is outstanding (R220)
  sfence : BitVec 4                  -- causes recorded for SFENCE (R350)
  covered : List (Nat × Nat)         -- stripes and parity members of guarded stores since the last SFENCE (R220)
  burst : Nat                        -- matrix operations left of a burst (R385)
  colls : Nat                        -- COLLs counted (R395)
  peek : Map Byte                    -- remote bytes read for the operation at hand, by place (R209)
  peekErr : Map (BitVec 8 × DWord)   -- remote lines whose read failed: cause and DETAIL
  deriving DecidableEq, Repr

/-- A group's issue state (R155, R273) and Chervil signature (R266, R267). -/
structure Issuing where
  promo : Nat                        -- promotion count
  promoted : Option Nat              -- order of its promotion
  placed : Nat                       -- order of its placement
  stopped : Option Nat               -- debug stop cause
  stopAsked : Bool                   -- STOP requested, for the next clause boundary
  stepping : Nat                     -- STEP: 1 asked for, 2 its clause issues, 3 its clause has ended; else 0 (R274)
  skips : List (BitVec 16 × Nat)     -- parts, by quads, whose stop before a clause has been taken, and the clause (R273)
  sw : Bool                          -- a switch marker waits for the group's other park to end (R292)
  yielded : Bool                     -- its last clause hinted that another group go first (R278)
  stepPart : BitVec 16               -- the quads of the part whose clause a STEP issues (R274)
  sig : DWord
  nstores : Nat
  compares : Nat                     -- compare points reached
  passed : Nat                       -- compare points passed
  forced : Nat                       -- the present operation has forced a compare point: 1 for one that the lower copy
                                     -- performs for both, 2 for one that each copy performs, else 0 (R210)
  held : List HeldStore
  deriving DecidableEq, Repr

/-- A resident group. -/
structure Group where
  role : Role
  tenant : Nat
  block : Nat                        -- key of its block part; 0 for resident code
  index : Nat                        -- group index in the block
  granules : Nat                     -- vector granules held
  regs : Regs
  flow : Flow
  slice : Slice
  ops : Ops
  park : Park
  iss : Issuing
  deriving DecidableEq, Repr

/-! ### Block parts (05) -/

/-- A write of a slot or quarter-tile that other groups of its part may not have seen: what stood there, and the group or the
engine operation that wrote (R340). -/
structure SlotWrite where
  place : Nat
  old : List Byte
  gid : Nat
  op : Option Nat                    -- a remote copy or collective under way (R392, R397)
  deriving DecidableEq, Repr

/-- A resident block part and what Sage accounts to it (R150, R173 to R177). -/
structure Block where
  tenant : Nat
  job : Nat                          -- event-table index of its job
  run : Nat                          -- 0, or 1 for the second run of a twin job
  core : Nat
  rank : Nat                         -- block number in the cohort
  part : Nat
  bx : Nat
  bY : Nat
  bz : Nat
  width : Nat
  groups : List Nat                  -- group identifiers not yet freed
  ngroups : Nat
  exited : Nat                       -- groups that have exited
  vdrop : Nat                        -- lane-granules taken off Max by exits (R175)
  vmax : Nat
  smax : Nat
  tmax : Nat
  amax : Nat
  reserved : Bool
  ended : Bool                       -- every group has exited (R175)
  dead : Bool                        -- its cohort has been killed (R263)
  order : Nat                        -- order of admission
  spad : List Nat                    -- scratchpad granules of the core, in window order (R180)
  tiles : List Nat
  accs : List Nat
  entry : Nat
  hazchk : Bool
  twin : Bool
  twinHi : Bool
  recent : List SlotWrite := []      -- writes of its slots since its last block barrier, newest first (R340)
  deriving DecidableEq, Repr

/-! ### Cores (06, 08, 10 to 12) -/

/-- What a core may hold in its L1 of one line: data, and per-byte valid and dirty masks (R186). -/
structure Line where
  data : BitVec 512
  valid : BitVec 64
  dirty : BitVec 64
  bad : Bool := false                -- poisoned in this L1 (R264)
  deriving DecidableEq, Repr

/-- A store that has not left the store buffer (R186, R195): the group, the place of each byte, and whether it goes to
the home. -/
structure BufStore where
  gid : Nat
  place : Nat
  bytes : List Byte
  home : Bool
  strict : Bool
  guarded : Option (Nat × Nat)       -- tenant and stripe of a guarded line
  queue : Nat := 0                   -- one more than the store queue that it was pushed to; 0 for none (R171)
  deriving DecidableEq, Repr

/-- A cached leaf translation (R249). -/
structure Tlb where
  tenant : Nat
  level : Nat
  va : Nat
  pte : DWord
  entry : Nat                        -- address of the leaf entry, for fault records (R254)
  deriving DecidableEq, Repr

/-- A piece of an engine operation not yet written: the source place, or bytes read at issue, and the destination. With
bytes read at issue, `src` is the place of a poisoned unit among them, or 0. -/
structure CopySeg where
  src : Nat
  lit : Option (List Byte)
  dst : Nat
  len : Nat
  deriving DecidableEq, Repr

/-- An asynchronous copy, tensor copy or matrix store (R192, R207, R383). -/
structure Copy where
  id : Nat
  gid : Nat
  kind : Kind                        -- `as` for ACPY and TCPY, `mx` for AST
  segs : List CopySeg
  barrier : Option Nat
  lines : List Nat                   -- owned destination lines
  pewter : Bool
  tileSlots : List Nat               -- tile slots, and quarter-tiles as `accUnit`, that it names (R370)
  lanes : Lanes                      -- lanes whose pieces lie in host memory
  clause : Nat                       -- the instruction, for the record of a failure
  idx : Nat
  failed : Bool                      -- host memory failed it, which its group has not yet taken (R358)
  deriving DecidableEq, Repr

/-- A waiter at a scratchpad queue (R367). -/
structure QWaiter where
  obj : Nat
  gid : Nat
  push : Bool
  deriving DecidableEq, Repr

/-- One core. -/
structure Core where
  store : List BufStore
  l1 : Map Line
  fifo : List Nat                    -- dirty lines, oldest first (R187)
  tlb : List Tlb
  copies : List Copy
  waiters : List QWaiter
  bankrole : DWord
  bankroleNew : Option (DWord × Nat)   -- a value that waits for its moment, and the writing group (R191)
  roleChange : Bool                  -- a change of the core's role waits likewise (R126, R191)
  comm : Bool                        -- the core is in its tenant's communication reserve (R126)
  cycles : DWord                     -- %cycles
  half : Bool                        -- %mtxpwr.HALF (R386)
  gap : Bool                         -- the array has been idle for 256 clk or more (R46)
  ramped : Bool                      -- filler was inserted for the operation to come (R46)
  mtxMode : BitVec 2                 -- MTX_PWRCFG.MODE as of the core's last tile-job boundary (R45)
  mtxRamp : BitVec 6                 -- MTX_PWRCFG.RAMP likewise
  down : Bool                        -- powered down (R36)
  watchdog : Bool                    -- a drain watchdog is running (R143)
  mailbox : List (Nat × Nat × Nat × Nat)   -- job entry, run, block, part (R130)
  svcFlag : Option Nat               -- the tenant whose service flag is set (R256)
  sageQueue : List Nat               -- groups parked in ACQ, oldest first (R179)
  deriving DecidableEq, Repr

/-! ### Tarragon and Sorrel (04) -/

/-- The states of an event-table entry (R120). -/
inductive EvState where
  | free | armed | fired | waiting | ready | mailed | running | failed
  deriving DecidableEq, Repr

/-- A state register that a group of one copy of a twin job has read, for the other copy's group to read alike (R407): the
run, the block, the group's index, the quads, the instruction, and the value. -/
structure TwinRead where
  run : Nat
  rank : Nat
  index : Nat
  quads : BitVec 16
  clause : Nat
  idx : Nat
  value : Nat
  deriving DecidableEq, Repr

/-- An event-table entry (R120, R146), with the record read for its delivery (R117) and its placement (R127). -/
structure EvEntry where
  st : EvState
  count : Nat
  regs : List Nat                    -- jobs registered with a flag, in order (R121)
  jobid : DWord
  desc : Nat
  iter : Word
  waitev : Word
  waitev2 : Word
  doneev : Word
  x : Nat
  y : Nat
  z : Nat
  eprio : Nat
  age : Nat
  attempt : Nat
  tw1 : Bool
  tw2 : Bool
  twd : Bool
  twin : Bool                        -- runs twice (R118)
  idem : Bool
  record : List Byte                 -- the job record read for this delivery
  runs : List (List Nat)             -- cores of each run
  left : Nat                         -- block parts that have not ended
  released : Bool                    -- a compare point has released entries (R268)
  rerun : Bool                       -- a first mismatch has been taken (R268)
  avoid : List (List Nat)            -- failed runs that the rerun avoids (R268)
  reads : List TwinRead := []        -- state registers that one twin copy has read and the other has still to (R407)
  deriving DecidableEq, Repr

/-- An outgoing subscription (R122, R123). -/
structure OutSub where
  tenant : Nat
  name : Word
  lost : Bool
  jobs : List Nat
  deriving DecidableEq, Repr

/-- An incoming subscriber record (R121, R122): `sent` while its EVSIG is under way (R82). -/
structure InSub where
  flag : Nat
  peer : BitVec 12
  sent : Bool
  deriving DecidableEq, Repr

/-- An event signal with LOST 1 that may still end with an error notice, and is then sent again (R82, R123). -/
structure LostSig where
  vcn : Nat
  peer : BitVec 12
  name : Word
  deriving DecidableEq, Repr

/-- A Sorrel slot's live record (R136). -/
structure Slot where
  reqid : DWord
  deadline : Word
  pos : Nat
  fin : Bool
  late : Bool
  prior : Bool
  st : Nat
  grem : Nat
  prem : Nat
  ctx : DWord
  deriving DecidableEq, Repr

/-- A command image of Sorrel (R135). -/
structure Image where
  w0 : DWord
  w1 : DWord
  w2 : DWord
  w3 : DWord
  deriving DecidableEq, Repr

/-- Where a collective acts on one copy of its block: the tile slot's core and number, and the places of its barrier
object and of STATUS (R395 to R398). -/
structure CollDest where
  gid : Nat
  core : Nat
  slot : Nat
  barrier : Nat
  status : Nat
  deriving DecidableEq, Repr

/-- A collective of a block (R395 to R398), keyed by its number. -/
structure Coll where
  id : Nat
  job : Nat
  run : Nat
  rank : Nat
  k : Nat                            -- k-th COLL of every group of the block
  counted : List Nat                 -- groups that have counted
  drivers : List Nat                 -- groups whose COLL carried .drv
  tenant : Nat
  tile : Nat                         -- tile name
  desc : List Byte                   -- the descriptor and its members, as read at issue
  dests : List CollDest              -- one; two in a twin job (R210)
  started : Bool
  casts : Map (Nat × BitVec 4)       -- the root's sends of each BCAST row: answers left, and the first failure's code
  answered : List (Nat × Bool × BitVec 4)   -- chunks done at this member: whether failed, and the failure's code
  deriving DecidableEq, Repr

/-! ### Tenants (03, 04, 06, 08) -/

/-- Tenant states (R91, R92). -/
inductive TenState where
  | disabled | active | resetting
  deriving DecidableEq, Repr

/-- A GRID whose record Tarragon holds: its 32 bytes, its job record, its index, and the jobs made so far (R96, R110,
R114). -/
structure HeldGrid where
  op : List Byte
  job : List Byte
  index : Word
  made : Nat
  deriving DecidableEq, Repr

/-- An operator-stream queue (R95). -/
structure Queue where
  base : DWord
  log2n : BitVec 5
  owner : Bool
  prio : BitVec 2
  en : Bool
  tail : Word
  head : Word
  qerr : BitVec 4
  grid : Option HeldGrid             -- a GRID that is being expanded
  deriving DecidableEq, Repr

/-- A fault record that waits to be written (R98): its content and the group that owes it. -/
structure Record where
  cause : BitVec 8
  write : Bool
  fetch : Bool
  twinHi : Bool
  remote : Bool
  gid : Nat
  part : Nat
  job : DWord
  va : Nat
  clause : Nat
  idx : Nat
  lanes : Lanes
  done : Lanes
  entry : Nat
  level : Nat
  detail : DWord
  parks : Bool                       -- the group waits for its resolution (class V)
  ends : Bool := false               -- the group is parked until it is written, and its cohort then ends (R98, R262)
  group : Bool                       -- false in class J
  stripe : Nat := 8                  -- the stripe that froze the access (R221, R257); 8 for none
  deriving DecidableEq, Repr

/-- A record that has been written and whose group waits on it (R257). -/
structure Waiting where
  seq : Word
  gid : Nat
  cause : BitVec 8
  remote : Bool
  stripe : Nat
  deriving DecidableEq, Repr

/-- The fault record queue (R98) and its records. -/
structure FaultQueue where
  base : DWord
  log2n : BitVec 5
  en : Bool
  tail : Word
  head : Word
  blocked : Bool                     -- the oldest owed record cannot be written: TEN_STAT.ERR reads 7 (R98)
  outside : Bool                     -- a record outside the egress windows was not written: ERR reads 6 while they are so (R91, R103)
  owed : List Record                 -- not yet written, oldest first
  waiting : List Waiting
  deriving DecidableEq, Repr

/-- Tarragon's registers of a tenant (R125, R132, R142). -/
structure Sched where
  cmin : BitVec 6
  cmax : BitVec 6
  hiwat : BitVec 10
  lowat : BitVec 10
  shrinkn : BitVec 16
  res : Nat
  shrink : Nat
  agestep : BitVec 8
  wdog : Word
  dstate : Nat
  killed : Nat
  saveerr : Bool
  savebase : DWord
  evResult : BitVec 4
  lostdec : Nat
  lane : Nat                         -- the queue that the decode lane takes next (R114)
  wrote : Bool := false              -- the save has been written, and is not yet complete (R142)
  evctl : List (Nat × Word) := []    -- EVCTL commands under way, by OP and NAME (R132)
  deriving DecidableEq, Repr

/-- Sorrel's registers of a tenant (R134, R138, R139). -/
structure Sorrel where
  cfg : DWord
  manbase : DWord
  repbase : DWord
  iter : Word
  live : Nat
  manflt : Bool
  missrep : Nat
  wsIter : Word
  wsResult : BitVec 4
  igncmd : Nat
  rsel : BitVec 12
  img : Image
  sel : List Nat                     -- slots selected for ITER, in manifest order
  under : Bool                       -- a boundary is under way
  snap : List (Nat × Image)          -- the versions taken at its snapshot point
  wrote : Bool := false              -- its manifest has been written, and its accesses are not yet complete (R139)
  clears : Bool := false             -- the clears of its report words at peers have been sent (R139)
  deriving DecidableEq, Repr

/-- A stripe descriptor (R216, R217). -/
structure Stripe where
  valid : Bool
  rebuild : Bool
  lostv : Bool
  lostidx : BitVec 4
  base : BitVec 33
  myidx : BitVec 4
  nm1 : BitVec 4
  len : Word
  mem : List (BitVec 12)             -- twenty member entries
  err : BitVec 4
  rstate : Nat
  fails : Nat
  badrows : Nat
  row : Nat                          -- next row of a rebuild
  acc : BitVec 512                   -- XOR of the answers for that row
  due : Nat                          -- answers still due for that row
  bad : Bool                         -- an answer for that row was an error notice
  deriving DecidableEq, Repr

/-- Debug registers (R272). -/
structure Debug where
  en : Bool
  hazchk : Bool
  stopall : Bool
  core : BitVec 6
  entry : BitVec 8
  busy : Bool
  result : BitVec 4
  buf : DWord
  bp : List DWord
  pending : Option (Nat × Bool) := none   -- READIMG or WRITEIMG under way: its OP, and whether for resident blocks
  deriving DecidableEq, Repr

/-- A mailbox for commands of R104: the secure mailbox or a tenant's (R99). -/
structure Mailbox where
  cmd : DWord
  busy : Bool
  result : BitVec 8
  outlen : BitVec 16
  rejected : Bool                    -- a command was written while BUSY was 1
  buffer : Map Byte
  deriving DecidableEq, Repr

/-- One tenant. -/
structure Tenant where
  cfg : DWord
  pch : DWord
  st : TenState
  erasing : Bool
  err : BitVec 4
  endDisabled : Bool                 -- the end state of a reset is DISABLED (R92)
  enableWait : Bool                  -- an enable request waits for a key rotation (R109)
  epoch : DWord                      -- key epoch (R109)
  recBase : BitVec 12                -- partition recorded with the key (R108)
  recSize : BitVec 12
  queues : Map Queue
  fq : FaultQueue
  sched : Sched
  sor : Sorrel
  stripes : Map Stripe
  dbg : Debug
  mbx : Mailbox
  ptroot : DWord
  tlbBusy : Bool
  tlbinv : DWord                     -- the invalidation under way
  fltrstat : BitVec 4
  hostsig : BitVec 33
  hostsigLast : Word
  far : Map (List Byte) := []        -- lines at peers that Tarragon has read for an access under way
  farBad : List Nat := []            -- lines of which the read has failed
  farFail : List Nat := []           -- uses of which a write has failed
  deriving DecidableEq, Repr

/-! ### Package and host (01, 03) -/

/-- Where the reset sequence stands (R23, R18, R20, R50). -/
inductive Phase where
  | off | held | stop | drain | wipe | boot | ready | scrapped
  deriving DecidableEq, Repr

/-- A sparing command of R31 under way. -/
structure Spare where
  op : BitVec 2
  stack : BitVec 3
  pch : BitVec 6
  bank : BitVec 6
  row : BitVec 17
  deriving DecidableEq, Repr

/-- A copy of the field repair record (R30), with its signature: kept in Pewter over every reset. -/
structure RepairCopy where
  retire : DWord
  soft : List (Nat × Nat × Nat × Nat)   -- stack, pseudo-channel, bank, row
  minstep : Map (BitVec 2)
  sig : List Byte
  deriving DecidableEq, Repr

/-- Power, pins, temperature and the sideband target (R16 to R21, R43 to R50). -/
structure Power where
  on : Bool
  inputMv : Nat
  lost : Bool                        -- the input has been treated as lost (R16)
  cutoff : Bool
  perstLow : Bool
  alertLow : Bool
  tripped : Bool
  cap : BitVec 12
  avg : BitVec 12
  overWindows : Nat
  lowv : Bool
  highv : Bool
  isslim : Bool
  slot : Bool                        -- under the issue limit, whether the next clk may issue (R48)
  mode : BitVec 2
  ramp : BitVec 6
  throttle : BitVec 7
  therm : BitVec 7
  sbIndex : BitVec 4
  sbDynamic : Option (BitVec 7)
  sbOut : List Byte                  -- bytes that private reads returned, newest first
  sbNack : Nat                       -- writes answered NACK
  deriving DecidableEq, Repr

/-- Life cycle, sparing, retirement and boot (R21 to R36, R89, R100). -/
structure Package where
  phase : Phase
  modReady : Bool
  lcstate : BitVec 3
  reentry : BitVec 4
  pendingLc : Option (BitVec 3 × BitVec 256)   -- a request accepted but not yet committed, with the owner key digest it
                                     -- brings (R29, R105)
  ownerKey : Option (BitVec 256)     -- the fused digest of the owner's public key (R105)
  rotate : Bool                      -- a committed transition awaits the end of its key rotations (R29)
  holdup : Bool
  lcerr : Bool
  frrbad : Bool
  bndlock : Bool
  noflit : Bool
  recovery : Bool
  rhamarOk : Bool                    -- a Rhamar image verified at the last boot (R100)
  spareCmd : DWord
  spareRun : Option Spare
  spareResult : BitVec 3
  spareRejected : Bool
  spareLast : Spare                  -- the stack and bank last named (R32)
  soft : List (Nat × Nat × Nat × Nat)   -- rows that a controller spare replaces
  hard : List (Nat × Nat × Nat × Nat)   -- rows that a stack repair replaces
  retire : DWord
  retstat : DWord
  frr : List RepairCopy              -- the copies that the record's region holds, newest first (R30)
  frrRead : List Byte                -- what the firmware's last read of the region returned (R30)
  deriving DecidableEq, Repr

/-- Boundary registers of one index (R102). -/
structure Boundary where
  hostBase : Map DWord
  hostLim : Map DWord
  fabOut : BitVec 21
  inBase : Map DWord
  inLim : Map DWord
  capFab : BitVec 16
  capHost : BitVec 16
  deriving DecidableEq, Repr

/-- An image slot of Pewter's management area (R100, R106): target, slot number, content, and whether a staging closed
it. -/
structure ImageSlot where
  target : Nat
  slot : Nat
  bytes : List Byte
  closed : Bool
  deriving DecidableEq, Repr

/-- Host-side state (R86 to R90, R100 to R107). -/
structure HostSide where
  bar0 : DWord                       -- BAR 0 of the physical function, as the host has set it (R87)
  vfBar0 : DWord                     -- BAR 0 of the virtual functions, set in the SR-IOV capability (R87)
  vfEnable : Bool
  numVfs : Nat
  masked : Map Bool                  -- 16 × function + vector; unlisted ones are masked
  pendingVec : Map Bool
  vectors : List (Nat × Nat)         -- function and vector of every MSI-X message, newest first
  cause : Map Bool                   -- causes now standing, for their rising edge
  ms : Map (BitVec 256)
  msExt : BitVec 256
  sec : Mailbox
  nonce : Option (BitVec 256)
  slots : List ImageSlot
  used : Map Nat                     -- slot of each target used at the last boot
  staging : Map Nat                  -- next chunk of an open staging, by target
  bnd : Map Boundary
  dbgTenant : BitVec 3               -- DBGSEL[18:16] of the physical function (R276)
  dbgResident : Bool                 -- DBGSEL[19]
  deriving DecidableEq, Repr

/-- What the host link answers a read with (R23, R88, R94). -/
inductive HostReply where
  | value (v : DWord)
  | unsupported                      -- no function claims the request
  | completerAbort
  | retryStatus
  deriving DecidableEq, Repr

/-- A field of a function's configuration space that R87 gives. -/
inductive ConfigField where
  | vendorId | deviceId | classCode
  | bar (n : Nat)                    -- 32-bit register n of the six base addresses
  | vfBar (n : Nat)                  -- the same of the virtual functions, in the SR-IOV capability of the physical function
  | totalVfs | initialVfs | firstVfOffset | vfStride | numVfs | vfEnable
  deriving DecidableEq, Repr

/-! ### Fabric (02) -/

/-- One port (R38 to R41, R53, R85). -/
structure Port where
  disable : Bool
  spareen : Bool
  auto : Bool
  minstep : BitVec 2
  up : Bool
  step : BitVec 2
  sparefor : BitVec 2
  failed : BitVec 2
  spareFailed : Bool
  stepdowns : Nat
  poor : Map Nat                     -- consecutive poor measurements of each lane
  deriving DecidableEq, Repr

/-- A packet in custody: the port it has been sent on and whose acknowledgement is due (R69). -/
structure Custody where
  port : Nat
  pkt : Packet
  hop : Bool                         -- sending it has counted a hop (R66); an uplink counts none (R58)
  deriving DecidableEq, Repr

/-- The receiving side of a stream (R62). -/
structure RxStream where
  expect : Nat
  early : List Packet
  skipped : List Nat
  deriving DecidableEq, Repr

/-- What an outstanding tag of this device stands for (R72). -/
inductive Errand where
  | load (gid pend cap : Nat) (bytes : List (Nat × Nat × Nat))   -- lane, offset in the line, byte of the value
  | store (gid cap : Nat) (lanes : Lanes) (pewter : Bool)
  | atomic (gid pend cap op ty : Nat) (lanes : List (Nat × Nat × Nat × Nat))   -- lane, offset, operand, compare value
  | member (mc : Nat) (index : Nat)
  | row (rc : Nat) (r : Nat) (off : Nat) (skip : Nat) (len : Nat)   -- row, offset in it, offset in the line, bytes
  | flag (rc : Nat)
  | chunk (coll : Nat) (c : Nat)
  | cast (coll : Nat) (c : Nat)
  | status (coll : Nat)
  | delta (tenant stripe gid : Nat) (reply : Option (Packet × Nat))
  | rebuild (tenant stripe row : Nat)
  | peek (gid place : Nat)
  | far (tenant place : Nat)                             -- a line that Tarragon reads at a peer (R103, R139)
  | farWrite (tenant use : Nat)                          -- a write of Tarragon's: 0 a manifest's, 1 a save's, 2 an image's,
                                                         -- 16 + n the clear of slot n's report word
  | append (gid pend tenant queue : Nat)                 -- an ENQOP record (R141)
  deriving DecidableEq, Repr

/-- A tag in use (R72). -/
structure Tag where
  typ : Nat
  dst : BitVec 12
  vcn : Nat
  addr : Nat
  errand : Errand
  first : Option StreamKey           -- the off-pod stream that its packet restarts (R64)
  sent : Option StreamKey := none    -- the stream in which its packet has left (R62)
  deriving DecidableEq, Repr

/-- A request that waits for a free tag (R72): its errand stands in the tags under a number of 65,536 or more. -/
structure Untagged where
  typ : Nat
  cls : Nat
  vcn : Nat
  dst : Nat
  pod : Option Nat                   -- the destination pod, where it is another one
  tag : Nat
  addr : Nat
  payload : List Byte
  deriving DecidableEq, Repr

/-- A multicast of this device under way (R77, R78). -/
structure Multicast where
  id : Nat
  gid : Nat
  pend : Nat
  members : List (BitVec 12)
  done : List (Nat × Bool)           -- members answered, and whether the copy was performed
  guarded : Bool
  deriving DecidableEq, Repr

/-- A remote copy of this device under way (R391 to R394). -/
structure RemoteCopy where
  id : Nat
  gid : Nat
  pend : Nat
  put : Bool
  dests : List (Nat × Nat)           -- core and tile slot; two in a twin job (R210)
  row0 : Nat
  rowBytes : Nat
  due : List (Nat × Nat)             -- outstanding pieces: row and pieces left
  data : Map (List (Nat × List Byte))   -- pieces of .get rows that have arrived
  failed : List (Nat × BitVec 4)
  flag : Option (Nat × Nat × Nat × Nat)   -- pod, device index, address, value
  flagFailed : Option (BitVec 4)
  deriving DecidableEq, Repr

/-- A contribution to a chunk: the key of the canonical order (R79, R397), the packet that brought it (none for this
device's own), and its data. -/
structure Contribution where
  order : Nat
  pkt : Option Packet
  data : List Byte
  deriving DecidableEq, Repr

/-- A chunk being reduced at this root (R79 to R81). -/
structure Reduction where
  vcn : Nat
  collid : Nat
  chunk : Nat
  parts : List Contribution
  coll : Option Nat                  -- the collective of this device, once it has started
  deriving DecidableEq, Repr

/-- The router die (R51 to R85). -/
structure Fabric where
  pod : BitVec 10
  rowsM1 : BitVec 5
  colsM1 : BitVec 5
  row : BitVec 5
  col : BitVec 5
  portRole : BitVec 62
  podRoute : Map DWord
  podSel : BitVec 10
  tmo : BitVec 16
  dead : Map DWord
  deadOp : Bool                      -- FAB_DEADMAP_OP[63]: the write clears
  deadReq : Option (Nat × DWord)     -- the FAB_DEADMAP write being acted on: register and mask (R67)
  eyecfg : DWord
  ports : Map Port
  custody : List Custody
  injected : List Packet             -- packets of this device that wait to leave, not yet numbered
  acks : List Nat                    -- ports on which custody acknowledgements were sent (own output), newest first
  noUplink : List Nat                -- gateways of the pod known to have no uplink in service (R57)
  txSeq : List (StreamKey × Nat)
  rx : List (StreamKey × RxStream)
  restartWait : List Nat             -- devices whose RESTART-ACK is due (R64)
  tags : Map Tag
  retired : List (Nat × Bool)        -- retired tags, not yet reusable
  untagged : List Untagged           -- requests that wait for a free tag
  nextTag : Nat
  budget : Map Int                   -- FAB budgets by VCN (R103)
  hostBudget : Map Int
  inbox : List Packet                -- packets delivered to this device and not yet acted on, oldest first
  outbox : List (Option Nat × Packet)   -- packets sent, with the port, newest first
  mgmtIn : List Packet               -- management messages for the firmware
  deriving DecidableEq, Repr

/-- Operations of the fabric's services under way. -/
structure Services where
  multicasts : List Multicast
  copies : List RemoteCopy
  colls : List Coll
  reductions : List Reduction
  answered : List (Nat × Nat × Nat)  -- chunks remembered as answered (R81): VCN, COLLID, chunk
  early : List Packet                -- BCAST rows that arrived before their collective started (R70, R397)
  atParts : List Packet              -- parts of ATs whose last part has not arrived (R75)
  lost : List LostSig                -- signals with LOST 1 that are not done under R82 (R123)
  deriving DecidableEq, Repr

/-! ### Issue, agenda and the whole state -/

/-- How the counters of the issuing part move after the instruction. -/
inductive Advance where
  | next     -- to the next instruction
  | stay     -- the instruction has not issued
  | held     -- the instruction has issued, and its part stays at it until what it waits for ends the wait (R179, R364)
  | moved    -- the instruction itself set the counters
  deriving DecidableEq, Repr

/-- The instruction that is issuing: the group, the quads of its part, the lanes active in it, its clause and index, and
for a replay the captured operands and the lanes to perform (R258). -/
structure Issue where
  gid : Nat
  quads : BitVec 16
  active : Lanes
  clause : Nat
  next : Nat
  rgp : Bool
  idx : Nat
  replay : Option Capture
  adv : Advance
  cap : Option Nat := none           -- the capture made for its own lane faults (R255)
  yld : Bool := false                -- it ends a clause that hints a yield (R278)
  deriving DecidableEq, Repr

/-- What moves next, when the agenda says so. -/
inductive Move where
  | ev (i : Instr)                        -- an event
  | issue (sector : Nat)                  -- sector 16 × core + s issues by R155
  | drainStore (core : Nat) (k : Nat)     -- the k-th store leaves the core's store buffer
  | evict (core : Nat) (line : Nat)       -- the core's L1 gives up a line
  | hostStore (addr : Nat) (data : List Byte)   -- the host writes its memory
  | repair (copy : RepairCopy)            -- the firmware writes a new copy of the field repair record (R30)
  | repairRead (off n : Nat)              -- the firmware reads bytes of its region (R30)
  | hostBase (value : DWord)              -- the host writes BAR 0 of the physical function (R87)
  | hostVfBase (value : DWord)            -- the host writes BAR 0 of the virtual functions (R87)
  | gateway (peer : Nat) (up : Bool)      -- what becomes known of a gateway's uplinks (R57)
  | hostFail (core : Nat) (copy : Nat)    -- the host link, or a host read, fails a copy under way (R358)
  deriving DecidableEq, Repr

/-- A fault: the machine stops. -/
inductive Fault where
  /-- Raised by `step` when internal power is removed (R20, R50) and no event is at hand: no clock runs. Safe: nothing
  is computed. -/
  | noPower
  deriving DecidableEq, Repr

/-- A refusal: an instruction without a meaning. -/
inductive Refusal where
  /-- Raised by an arm of `exec` that has no meaning yet. Safe: nothing is computed. -/
  | notModelled (mnemonic : String)
  deriving DecidableEq, Repr

/-- The state of the module. -/
structure State where
  /-- Every byte of the module and of host memory, by place (see Machine/Ops.lean); unlisted bytes read zero. -/
  mem : List Host.Cell
  /-- Poisoned lines, operand rows and accumulator elements, by place, ascending (R264). -/
  poison : List Nat
  /-- Poisoned lines whose error arose in a cache, with the storage code of R265. -/
  poisonFrom : Map Nat
  /-- Global-window lines that an engine owns (R207). -/
  owned : List Nat
  /-- The key under which a Pewter line was written: tenant and epoch (R108). -/
  pewKey : Map (Nat × Nat)
  cores : Map Core
  /-- Second-level TLBs, by cluster (R249). -/
  tlb2 : Map (List Tlb)
  /-- Resident groups, by 256 × core + 16 × sector + entry (R153). -/
  groups : Map Group
  /-- Resident block parts. -/
  blocks : Map Block
  tenants : Map Tenant
  /-- The event table (R110, R120). -/
  events : Map EvEntry
  /-- Jobs in the ready pool, in the order they entered it (R124). -/
  pool : List Nat
  /-- Jobs in READY outside the pool, in the order they became ready (R110). -/
  outside : List Nat
  outSubs : List OutSub
  inSubs : List InSub
  sorOwner : Word
  slots : Map Slot
  shadow : Map Image
  pwr : Power
  pkg : Package
  host : HostSide
  fab : Fabric
  svc : Services
  /-- The model's own: which agent moves next. -/
  agenda : List Move
  /-- The model's own: the sector that issues next when the agenda is empty. -/
  turn : Nat
  /-- The model's own: the instruction that is issuing. -/
  cur : Option Issue
  /-- The model's own: how many free values have been taken (notes/assumptions/5.md). -/
  freeCount : Nat
  /-- The model's own: placements, admissions, promotions and operations numbered so far. -/
  serial : Nat
  deriving DecidableEq, Repr

/-! ### Initial values -/

/-- A queue after a device reset. -/
def Queue.init : Queue :=
  { base := 0, log2n := 0, owner := false, prio := 0, en := false, tail := 0, head := 0, qerr := 0, grid := none }

/-- The fault queue after a device reset. -/
def FaultQueue.init : FaultQueue :=
  { base := 0, log2n := 0, en := false, tail := 0, head := 0, blocked := false, outside := false, owed := [], waiting := [] }

/-- R125: the reset values are zero, except AGESTEP. -/
def Sched.init : Sched :=
  { cmin := 0, cmax := 0, hiwat := 0, lowat := 0, shrinkn := 0, res := 0, shrink := 0, agestep := 64, wdog := 0,
    dstate := 0, killed := 0, saveerr := false, savebase := 0, evResult := 0, lostdec := 0, lane := 0 }

def Image.zero : Image := { w0 := 0, w1 := 0, w2 := 0, w3 := 0 }

/-- R134: a reset returns every register to zero. -/
def Sorrel.init : Sorrel :=
  { cfg := 0, manbase := 0, repbase := 0, iter := 0, live := 0, manflt := false, missrep := 0, wsIter := 0,
    wsResult := 0, igncmd := 0, rsel := 0, img := Image.zero, sel := [], under := false, snap := [] }

/-- R216: a reset returns descriptors to zero. -/
def Stripe.init : Stripe :=
  { valid := false, rebuild := false, lostv := false, lostidx := 0, base := 0, myidx := 0, nm1 := 0, len := 0,
    mem := List.replicate 20 0, err := 0, rstate := 0, fails := 0, badrows := 0, row := 0, acc := 0, due := 0,
    bad := false }

def Debug.init : Debug :=
  { en := false, hazchk := false, stopall := false, core := 0, entry := 0, busy := false, result := 0,
    buf := 0, bp := [0, 0, 0, 0] }

def Mailbox.init : Mailbox := { cmd := 0, busy := false, result := 0, outlen := 0, rejected := false, buffer := [] }

/-- A tenant after a device reset (R92). -/
def Tenant.init : Tenant :=
  { cfg := 0, pch := 0, st := .disabled, erasing := false, err := 0, endDisabled := false, enableWait := false,
    epoch := 0, recBase := 0, recSize := 0, queues := [], fq := FaultQueue.init, sched := Sched.init,
    sor := Sorrel.init, stripes := [], dbg := Debug.init, mbx := Mailbox.init, ptroot := 0, tlbBusy := false,
    tlbinv := 0, fltrstat := 0, hostsig := 0, hostsigLast := 0 }

/-- A core after the wipe (R25). -/
def Core.init : Core :=
  { store := [], l1 := [], fifo := [], tlb := [], copies := [], waiters := [], bankrole := 0, bankroleNew := none,
    roleChange := false, comm := false, cycles := 0, half := false, gap := true, ramped := false, mtxMode := 2,
    mtxRamp := 0, down := false,
    watchdog := false, mailbox := [], svcFlag := none, sageQueue := [] }

/-- A FREE entry of the event table (R120). -/
def EvEntry.init : EvEntry :=
  { st := .free, count := 0, regs := [], jobid := 0, desc := 0, iter := 0, waitev := 0xFFFFFFFF,
    waitev2 := 0xFFFFFFFF, doneev := 0xFFFFFFFF, x := 0, y := 0, z := 0, eprio := 0, age := 0, attempt := 0,
    tw1 := false, tw2 := false, twd := false, twin := false, idem := false, record := [], runs := [], left := 0,
    released := false, rerun := false, avoid := [] }

/-- A FREE slot (R136). -/
def Slot.init : Slot :=
  { reqid := 0, deadline := 0, pos := 0, fin := false, late := false, prior := false, st := 0, grem := 0, prem := 0,
    ctx := 0 }

/-- R39: FAB_PORTCTL resets to 0x30; the port is down until it trains. -/
def Port.init : Port :=
  { disable := false, spareen := true, auto := true, minstep := 0, up := false, step := 0, sparefor := 0, failed := 0,
    spareFailed := false, stepdowns := 0, poor := [] }

/-- The boundary registers that phase 1 leaves: every window and range empty, every cap zero (R102). -/
def Boundary.init : Boundary :=
  { hostBase := [], hostLim := [], fabOut := 0x07C1F, inBase := [], inLim := [], capFab := 0, capHost := 0 }

def Regs.init : Regs :=
  { v := [], g := [], p := [], j := [], z := [], fs := [], latch := [], latchAge := [], tile := [], acc := [],
    srseed := 0, bad := [] }

def Slice.init : Slice :=
  { used := false, unread := none, base := [], fault := none, spoilt := none, malformed := false, patterns := [],
    queues := [] }

def Ops.init : Ops :=
  { pend := [], captures := [], batch := 0, batchCopies := [], openCopies := [], tagged := [], deltas := 0,
    sfence := 0, covered := [], burst := 0, colls := 0,
    peek := [], peekErr := [] }

def Issuing.init : Issuing :=
  { promo := 0, promoted := none, placed := 0, stopped := none, stopAsked := false, stepping := 0,
    skips := [], sw := false, yielded := false, stepPart := 0, sig := 0, nstores := 0, compares := 0, passed := 0, forced := 0, held := [] }

def Flow.init : Flow := { width := 16, helper := 0, absent := 0xFFF0, cond := [], parts := [], loops := [] }

/-- An empty group. -/
def Group.init : Group :=
  { role := .worker, tenant := 0, block := 0, index := 0, granules := 1, regs := Regs.init, flow := Flow.init,
    slice := Slice.init, ops := Ops.init, park := .none, iss := Issuing.init }

def Spare.init : Spare := { op := 0, stack := 0, pch := 0, bank := 0, row := 0 }

/-- Power and pins in the ready phase (notes/assumptions/2.md). -/
def Power.init : Power :=
  { on := true, inputMv := 48000, lost := false, cutoff := false, perstLow := false, alertLow := false,
    tripped := false, cap := 3200, avg := 0, overWindows := 0, lowv := false, highv := false,
    isslim := false, slot := true, mode := 2, ramp := 0, throttle := 100, therm := 0, sbIndex := 0,
    sbDynamic := none, sbOut := [], sbNack := 0 }

/-- The package in the ready phase after a boot that found no image, policy or record (notes/assumptions/2.md). -/
def Package.init : Package :=
  { phase := .ready, modReady := true, lcstate := 2, reentry := 0, pendingLc := none,
    ownerKey := some Config.ownerDigest, rotate := false, holdup := true,
    lcerr := false, frrbad := true, bndlock := true, noflit := false, recovery := true, rhamarOk := false,
    spareCmd := 0, spareRun := none, spareResult := 0, spareRejected := false, spareLast := Spare.init, soft := [],
    hard := [], retire := 0, retstat := 0, frr := [], frrRead := [] }

/-- The bytes of a 256-bit digest. -/
def digestBytes (d : BitVec 256) : List Byte := bytesOf 32 d.toNat

/-- A measurement slot extended with a digest (R101). -/
def extendMs (ms d : BitVec 256) : BitVec 256 := Config.sha3 (digestBytes ms ++ digestBytes d)

/-- The digest of a life-cycle code, REENTRY and the serial number (R100 step 6). -/
def lifeDigest (lc : BitVec 3) (re : BitVec 4) : BitVec 256 :=
  Config.sha3 (bytesOf 1 (lc.toNat + 16 * re.toNat) ++ bytesOf 8 Config.serial.toNat)

/-- The host side in the ready phase after such a boot. -/
def HostSide.init : HostSide :=
  { bar0 := 0, vfBar0 := 0, vfEnable := false, numVfs := 0, masked := [], pendingVec := [], vectors := [], cause := [],
    ms := [(0, extendMs 0 Config.romDigest), (3, extendMs 0 0), (4, extendMs 0 0), (5, extendMs 0 (lifeDigest 2 0))],
    msExt := 0, sec := Mailbox.init, nonce := none, slots := [], used := [], staging := [], bnd := [], dbgTenant := 0, dbgResident := false }

/-- The router die in the ready phase: pod 0 of one device (R53). -/
def Fabric.init : Fabric :=
  { pod := 0, rowsM1 := 0, colsM1 := 0, row := 0, col := 0, portRole := 0, podRoute := [], podSel := 0, tmo := 1000,
    dead := [], deadOp := false, deadReq := none, eyecfg := 0x01000818, ports := [], custody := [], injected := [],
    acks := [], noUplink := [], txSeq := [], rx := [], restartWait := [], tags := [], retired := [], untagged := [],
    nextTag := 0, budget := [], hostBudget := [], inbox := [], outbox := [], mgmtIn := [] }

def Services.init : Services :=
  { multicasts := [], copies := [], colls := [], reductions := [], answered := [], early := [], atParts := [], lost := [] }

/-- The machine right after reset: the ready phase of R23 after a power-on reset of a module with no image, no policy
and no field repair record (notes/assumptions/2.md). -/
def State.reset : State :=
  { mem := [], poison := [], poisonFrom := [], owned := [], pewKey := [], cores := [], tlb2 := [], groups := [], blocks := [],
    tenants := [], events := [], pool := [], outside := [], outSubs := [], inSubs := [], sorOwner := 0xFFFFFFFF,
    slots := [], shadow := [], pwr := Power.init, pkg := Package.init, host := HostSide.init, fab := Fabric.init,
    svc := Services.init, agenda := [], turn := 0, cur := none, freeCount := 0, serial := 0 }

end Sys2Proof.Machine
end

