-- ==== Sys2Proof/Machine/Access.lean ====
section
/-! DEFINITION. Reading and updating the parts of the state: records by key, memory by place, registers, lane masks. -/

namespace Sys2Proof.Machine

/-! ### Records by key -/

namespace State

def core (s : State) (c : Nat) : Core := Map.get Core.init s.cores c
def setCore (s : State) (c : Nat) (k : Core) : State := { s with cores := Map.put c k s.cores }
def modCore (s : State) (c : Nat) (f : Core → Core) : State := s.setCore c (f (s.core c))

def tenant (s : State) (t : Nat) : Tenant := Map.get Tenant.init s.tenants t
def setTenant (s : State) (t : Nat) (k : Tenant) : State := { s with tenants := Map.put t k s.tenants }
def modTenant (s : State) (t : Nat) (f : Tenant → Tenant) : State := s.setTenant t (f (s.tenant t))

def group (s : State) (g : Nat) : Group := Map.get Group.init s.groups g
def setGroup (s : State) (g : Nat) (k : Group) : State := { s with groups := Map.put g k s.groups }
def modGroup (s : State) (g : Nat) (f : Group → Group) : State := s.setGroup g (f (s.group g))
/-- The group is resident. -/
def hasGroup (s : State) (g : Nat) : Bool := (Map.find s.groups g).isSome
/-- A change of a resident group only. -/
def onGroup (s : State) (g : Nat) (f : Group → Group) : State := if s.hasGroup g then s.modGroup g f else s

def block? (s : State) (b : Nat) : Option Block := Map.find s.blocks b
def setBlock (s : State) (b : Nat) (k : Block) : State := { s with blocks := Map.put b k s.blocks }
def modBlock (s : State) (b : Nat) (f : Block → Block) : State :=
  match s.block? b with
  | none => s
  | some k => s.setBlock b (f k)

def event (s : State) (e : Nat) : EvEntry := Map.get EvEntry.init s.events e
def setEvent (s : State) (e : Nat) (k : EvEntry) : State := { s with events := Map.put e k s.events }
def modEvent (s : State) (e : Nat) (f : EvEntry → EvEntry) : State := s.setEvent e (f (s.event e))

def queue (s : State) (t q : Nat) : Queue := Map.get Queue.init (s.tenant t).queues q
def setQueue (s : State) (t q : Nat) (k : Queue) : State :=
  s.modTenant t fun x => { x with queues := Map.put q k x.queues }
def modQueue (s : State) (t q : Nat) (f : Queue → Queue) : State := s.setQueue t q (f (s.queue t q))

def stripe (s : State) (t i : Nat) : Stripe := Map.get Stripe.init (s.tenant t).stripes i
def setStripe (s : State) (t i : Nat) (k : Stripe) : State :=
  s.modTenant t fun x => { x with stripes := Map.put i k x.stripes }
def modStripe (s : State) (t i : Nat) (f : Stripe → Stripe) : State := s.setStripe t i (f (s.stripe t i))

def port (s : State) (p : Nat) : Port := Map.get Port.init s.fab.ports p
def setPort (s : State) (p : Nat) (k : Port) : State :=
  { s with fab := { s.fab with ports := Map.put p k s.fab.ports } }
def modPort (s : State) (p : Nat) (f : Port → Port) : State := s.setPort p (f (s.port p))

def boundary (s : State) (t : Nat) : Boundary := Map.get Boundary.init s.host.bnd t

def slot (s : State) (n : Nat) : Slot := Map.get Slot.init s.slots n

def modPkg (s : State) (f : Package → Package) : State := { s with pkg := f s.pkg }
def modPwr (s : State) (f : Power → Power) : State := { s with pwr := f s.pwr }
def modHost (s : State) (f : HostSide → HostSide) : State := { s with host := f s.host }
def modFab (s : State) (f : Fabric → Fabric) : State := { s with fab := f s.fab }
def modSvc (s : State) (f : Services → Services) : State := { s with svc := f s.svc }
def modFq (s : State) (t : Nat) (f : FaultQueue → FaultQueue) : State :=
  s.modTenant t fun x => { x with fq := f x.fq }
def modSched (s : State) (t : Nat) (f : Sched → Sched) : State :=
  s.modTenant t fun x => { x with sched := f x.sched }
def modSor (s : State) (t : Nat) (f : Sorrel → Sorrel) : State := s.modTenant t fun x => { x with sor := f x.sor }
def modDbg (s : State) (t : Nat) (f : Debug → Debug) : State := s.modTenant t fun x => { x with dbg := f x.dbg }
def modOps (s : State) (g : Nat) (f : Ops → Ops) : State := s.onGroup g fun x => { x with ops := f x.ops }
def modRegs (s : State) (g : Nat) (f : Regs → Regs) : State := s.onGroup g fun x => { x with regs := f x.regs }
def modFlow (s : State) (g : Nat) (f : Flow → Flow) : State := s.onGroup g fun x => { x with flow := f x.flow }
def modIss (s : State) (g : Nat) (f : Issuing → Issuing) : State := s.onGroup g fun x => { x with iss := f x.iss }

/-- The next number of the model's own counter. -/
def tick (s : State) : State × Nat := ({ s with serial := s.serial + 1 }, s.serial + 1)

/-- A free value (notes/assumptions/5.md), and the state that has taken it. -/
def free (s : State) : State × BitVec 64 := ({ s with freeCount := s.freeCount + 1 }, Config.freeBits s.freeCount)

/-- Before phase 4 of a reset sequence (R19, R23). -/
def beforeBoot (s : State) : Bool :=
  match s.pkg.phase with
  | .boot | .ready => false
  | _ => true

/-! ### Groups and units -/

/-- The core of a group entry (R153). -/
def coreOf (gid : Nat) : Nat := gid / 256

/-- The cluster of a core (R15, R91). -/
def clusterOf (c : Nat) : Nat := c / 8

/-- This device's peer number (R51). -/
def peer (s : State) : Nat := s.fab.row.toNat * 32 + s.fab.col.toNat

/-- A peer number that names a device of the pod (R51). -/
def inPod (s : State) (p : Nat) : Bool :=
  decide (p < 1024) && decide (p / 32 ≤ s.fab.rowsM1.toNat) && decide (p % 32 ≤ s.fab.colsM1.toNat)

/-- A device of the pod marked dead (R67). -/
def isDead (s : State) (p : Nat) : Bool := (Map.get 0 s.fab.dead (p / 64)).getLsbD (p % 64)

/-- The clusters that a tenant holds (R91). -/
def holdsCluster (s : State) (t k : Nat) : Bool := (s.tenant t).cfg.getLsbD k

/-- The tenant whose clusters hold a core and which is not DISABLED (R93). -/
def ownerOf (s : State) (c : Nat) : Option Nat :=
  (List.range 8).find? fun t => decide ((s.tenant t).st ≠ .disabled) && s.holdsCluster t (clusterOf c)

/-- A core retired by CORE_RETIRE (R35). -/
def retired (s : State) (c : Nat) : Bool := s.pkg.retire.getLsbD c

/-- The unretired cores of a tenant's clusters, ascending. -/
def coresOf (s : State) (t : Nat) : List Nat :=
  (List.range 64).filter fun c => s.holdsCluster t (clusterOf c) && !s.retired c

/-- The groups resident on a core. -/
def groupsOn (s : State) (c : Nat) : List Nat := (Map.keys s.groups).filter fun g => coreOf g == c

/-- The block parts resident on a core. -/
def blocksOn (s : State) (c : Nat) : List (Nat × Block) := s.blocks.filter fun b => b.2.core == c

/-- The block part of a group. -/
def blockOf (s : State) (g : Nat) : Option Block :=
  if (s.group g).role = .job then s.block? (s.group g).block else none

/-- %jobid of a group; 0 in resident code (R406). -/
def jobidOf (s : State) (g : Nat) : DWord :=
  match s.blockOf g with
  | none => 0
  | some b => (s.event b.job).jobid

end State

/-! ### Memory by place -/

/-- Host memory at a bus address. -/
def hostPlace (a : Nat) : Nat := 2 ^ 60 + a

/-- Scratchpad of a core at a byte offset. -/
def spadPlace (c o : Nat) : Nat := 2 ^ 61 + c * 2 ^ 21 + o

/-- Operand memory of a core: a byte of a tile slot (R372). -/
def tilePlace (c slot o : Nat) : Nat := 2 ^ 61 + 2 ^ 30 + c * 2 ^ 21 + slot * 65536 + o

/-- An accumulator element of a core (R373). -/
def accPlace (c q row col : Nat) : Nat := 2 ^ 61 + 2 ^ 31 + c * 2 ^ 21 + 4 * (q * 24576 + row * 192 + col)

/-- The resident image at an offset of its window (R148). -/
def imagePlace (o : Nat) : Nat := 2 ^ 62 + o

/-- What a byte that nothing has written reads as (notes/assumptions/1.md). -/
def blankByte : Byte := 0

/-- The memory is in canonical form. -/
abbrev Memory.wf (m : List Host.Cell) : Bool := Map.wf blankByte m

namespace State

/-- One byte. -/
def byteAt (s : State) (a : Nat) : Byte := Map.get blankByte s.mem a

/-- One byte written. -/
def setByte (s : State) (a : Nat) (b : Byte) : State := { s with mem := Map.set blankByte s.mem a b }

/-- `n` bytes from a place, in address order. -/
def bytesAt (s : State) (a n : Nat) : List Byte := (List.range n).map fun i => s.byteAt (a + i)

/-- Bytes written from a place upward. -/
def setBytes (s : State) (a : Nat) : List Byte → State
  | [] => s
  | b :: bs => State.setBytes (s.setByte a b) (a + 1) bs

/-- Bytes written from a place upward; `none` leaves a byte. -/
def setSome (s : State) (a : Nat) : List (Option Byte) → State
  | [] => s
  | none :: bs => State.setSome s (a + 1) bs
  | some b :: bs => State.setSome (s.setByte a b) (a + 1) bs

/-- A little-endian number of `n` bytes (R7). -/
def numAt (s : State) (a n : Nat) : Nat := natOfBytes (s.bytesAt a n)

/-- A little-endian number written. -/
def setNum (s : State) (a n x : Nat) : State := s.setBytes a (bytesOf n x)

/-- Zero in every byte of a range (R25). -/
def wipeRange (s : State) (lo hi : Nat) : State :=
  { s with mem := Map.keep (fun k => decide (k < lo) || decide (hi ≤ k)) s.mem
           poison := s.poison.filter fun k => decide (k < lo) || decide (hi ≤ k)
           poisonFrom := Map.keep (fun k => decide (k < lo) || decide (hi ≤ k)) s.poisonFrom }

/-- The unit of poison that holds a place (R264): an accumulator element of 4 bytes, an operand row of 256, else a line
of 64. -/
def poisonUnit (a : Nat) : Nat :=
  if 2 ^ 61 + 2 ^ 31 ≤ a ∧ a < 2 ^ 62 then a / 4 * 4
  else if 2 ^ 61 + 2 ^ 30 ≤ a ∧ a < 2 ^ 62 then a / 256 * 256
  else a / 64 * 64

/-- A byte of a poisoned unit. -/
def poisoned (s : State) (a : Nat) : Bool := s.poison.contains (poisonUnit a)

/-- Any byte of a range is poisoned. -/
def anyPoison (s : State) (a n : Nat) : Bool := (List.range n).any fun i => s.poisoned (a + i)

/-- The unit of a place marked poisoned. -/
def addPoison (s : State) (a : Nat) : State := { s with poison := insertNat (poisonUnit a) s.poison }

/-- The unit of a place cleared. -/
def clearPoison (s : State) (a : Nat) : State :=
  { s with poison := s.poison.filter fun k => k != poisonUnit a, poisonFrom := Map.del (poisonUnit a) s.poisonFrom }

end State

/-! ### Lanes -/

/-- The lane mask of a set of quads. -/
def quadLanes (q : BitVec 16) : Lanes :=
  (List.range 16).foldl (fun m i => if q.getLsbD i then m ||| quadMask i else m) 0

/-- Lanes of a mask, ascending. -/
def laneList (m : Lanes) : List Nat := lanesOf m 64

/-- The lowest lane of a mask. -/
def lowest (m : Lanes) : Option Nat := (laneList m).head?

namespace Flow

/-- The condition of a lane. -/
def lane (f : Flow) (l : Nat) : LaneCond := Map.get .active f.cond l

/-- The condition of a lane set. -/
def setLane (f : Flow) (l : Nat) (c : LaneCond) : Flow := { f with cond := Map.set .active f.cond l c }

/-- The conditions of several lanes set. -/
def setLanes (f : Flow) (m : Lanes) (c : LaneCond) : Flow := (laneList m).foldl (fun f l => f.setLane l c) f

/-- Lanes whose condition satisfies `p`, among the lanes of present quads. -/
def lanesWith (f : Flow) (p : LaneCond → Bool) : Lanes :=
  maskOf ((List.range f.width).filter fun l => !f.absent.getLsbD (l / 4) && p (f.lane l))

/-- Active lanes. -/
def active (f : Flow) : Lanes := f.lanesWith fun c => c == .active

/-- Lanes that have not exited. -/
def living (f : Flow) : Lanes := f.lanesWith fun c => !(c == .exited)

end Flow

/-! ### Registers -/

namespace Regs

/-- The key of one lane of a vector register or latch entry. -/
def key (n l : Nat) : Nat := 64 * n + l

/-- One lane of a vector register. -/
def getV (r : Regs) (n l : Nat) : Word := Map.get 0 r.v (key n l)

/-- One lane of a vector register written. -/
def setV (r : Regs) (n l : Nat) (x : Word) : Regs := { r with v := Map.set 0 r.v (key n l) x }

/-- A uniform register. -/
def getG (r : Regs) (n : Nat) : Word := Map.get 0 r.g n

/-- A uniform register written. -/
def setG (r : Regs) (n : Nat) (x : Word) : Regs := { r with g := Map.set 0 r.g n x }

/-- One lane of a predicate; p15 reads all ones (R166). -/
def getP (r : Regs) (n l : Nat) : Bool := if n = 15 then true else (Map.get 0 r.p n).getLsbD l

/-- One lane of a predicate written; a write to p15 is discarded (R166). -/
def setP (r : Regs) (n l : Nat) (b : Bool) : Regs :=
  if n = 15 then r
  else
    let old := Map.get 0 r.p n
    { r with p := Map.set 0 r.p n (if b then old ||| laneBit l else old &&& ~~~(laneBit l)) }

/-- A rejoin mask. -/
def getJ (r : Regs) (n : Nat) : Lanes := Map.get 0 r.j n

/-- A rejoin mask written. -/
def setJ (r : Regs) (n : Nat) (m : Lanes) : Regs := { r with j := Map.set 0 r.j n m }

/-- One lane of a latch entry. -/
def getL (r : Regs) (n l : Nat) : Word := Map.get 0 r.latch (key n l)

/-- A format slot. -/
def getFs (r : Regs) (n : Nat) : DWord := Map.get 0 r.fs n

/-- A lane's generator state. -/
def getZ (r : Regs) (l : Nat) : Word := Map.get 0 r.z l

/-- A lane's generator state written. -/
def setZ (r : Regs) (l : Nat) (x : Word) : Regs := { r with z := Map.set 0 r.z l x }

end Regs

end Sys2Proof.Machine
end

