-- ==== Sys2Proof/Machine/Flags.lean ====
section
/-! DEFINITION. The comparison conditions of R290, over integers and over what a floating comparison yields. -/

namespace Sys2Proof.Machine

/-- How two floating values stand: below, equal, above, or unordered because one is NaN (R290, R330). -/
inductive FOrder where
  | lt | eq | gt | unordered
  deriving DecidableEq, Repr

/-- The condition that a SUB code names; the codes above 7 name none (R290). -/
def condOf (sub : BitVec 5) : Option Cond :=
  match sub.toNat with
  | 0 => some .eq
  | 1 => some .ne
  | 2 => some .lt
  | 3 => some .le
  | 4 => some .gt
  | 5 => some .ge
  | 6 => some .num
  | 7 => some .nan
  | _ => none

/-- A condition on two integers; the two that ask for NaN find none (R290). -/
def condInt (c : Cond) (a b : Int) : Bool :=
  match c with
  | .eq => a == b
  | .ne => a != b
  | .lt => decide (a < b)
  | .le => decide (a ≤ b)
  | .gt => decide (b < a)
  | .ge => decide (b ≤ a)
  | .num => true
  | .nan => false

/-- A condition on a floating comparison, with the NaN outcomes of R290. -/
def condFloat (c : Cond) (o : FOrder) : Bool :=
  match c, o with
  | .eq, .eq => true
  | .ne, .lt | .ne, .gt | .ne, .unordered => true
  | .lt, .lt => true
  | .le, .lt | .le, .eq => true
  | .gt, .gt => true
  | .ge, .gt | .ge, .eq => true
  | .num, .lt | .num, .eq | .num, .gt => true
  | .nan, .unordered => true
  | _, _ => false

/-- The condition's result as a predicate bit. -/
def flagBit (b : Bool) : Nat := if b then 1 else 0

end Sys2Proof.Machine
end

