-- ==== Sys2Proof/Machine/Float.lean ====
section
/-! DEFINITION. Floating point (R226 to R239): exact values, the formats as grids of magnitude codes, one rounding, the
fate of an overflow, and the generator of stochastic rounding. -/

namespace Sys2Proof.Machine

/-- An exact value: (−1)^neg × m × 2^e, an infinity, or NaN. A zero keeps its sign. -/
inductive Fp where
  | nan
  | inf (neg : Bool)
  | fin (neg : Bool) (m : Nat) (e : Int)
  deriving DecidableEq, Repr

/-- A format: its width, the bits of its trailing significand, its bias, the magnitude code of its largest finite value,
whether it has a sign bit and infinities, its canonical NaN, and whether it is one of the binary formats (R226, R228,
R230). -/
structure Fmt where
  width : Nat
  frac : Nat
  bias : Nat
  maxCode : Nat
  signed : Bool
  hasInf : Bool
  nanCode : Nat
  binary : Bool
  deriving DecidableEq, Repr

/-- The rounding of one result: R235, the directions of R330 and R331, and a draw of R236. -/
inductive Round where
  | ne | rz | rm | rp
  | st (u : Nat)
  deriving DecidableEq, Repr

/-- The mode code of FRND and FCVT (R330, R331). -/
def Round.ofCode (c : Nat) : Round :=
  if c = 1 then .rz else if c = 2 then .rm else if c = 3 then .rp else .ne

def Fmt.f32 : Fmt :=
  { width := 32, frac := 23, bias := 127, maxCode := 0x7F7FFFFF, signed := true, hasInf := true, nanCode := 0x7FC00000,
    binary := true }
def Fmt.f16 : Fmt :=
  { width := 16, frac := 10, bias := 15, maxCode := 0x7BFF, signed := true, hasInf := true, nanCode := 0x7E00,
    binary := true }
def Fmt.bf16 : Fmt :=
  { width := 16, frac := 7, bias := 127, maxCode := 0x7F7F, signed := true, hasInf := true, nanCode := 0x7FC0,
    binary := true }

/-- The format of a floating type. -/
def fmtOf : Ty → Fmt
  | .f16 => Fmt.f16
  | .bf16 => Fmt.bf16
  | _ => Fmt.f32

/-- A narrow format of width K and precision P (R227, R228, R230). -/
def narrowFmt (k p : Nat) (sgn ext : Bool) : Fmt :=
  let top := if sgn then 2 ^ (k - 1) - 1 else 2 ^ k - 2
  { width := k, frac := p - 1, bias := if sgn then 2 ^ (k - p - 1) else 2 ^ (k - p)
    maxCode := if ext then top - 1 else top
    signed := sgn, hasInf := ext, nanCode := if sgn then 2 ^ (k - 1) else 2 ^ k - 1, binary := false }

namespace Fmt

/-- The exponent of the least significant bit of a subnormal. -/
def least (f : Fmt) : Int := 1 - (f.bias : Int) - f.frac

/-- The magnitude of a code: significand and exponent (R229). -/
def mag (f : Fmt) (c : Nat) : Nat × Int :=
  let e := c / 2 ^ f.frac
  let t := c % 2 ^ f.frac
  if e = 0 then (t, f.least) else (2 ^ f.frac + t, f.least + e - 1)

/-- The weight of the sign bit; 0 where there is none. -/
def signBit (f : Fmt) : Nat := if f.signed then 2 ^ (f.width - 1) else 0

/-- The value of a code (R226, R229, R230). -/
def decode (f : Fmt) (x : Nat) : Fp :=
  let x := x % 2 ^ f.width
  let neg := f.signed && decide (f.signBit ≤ x)
  let c := if neg then x - f.signBit else x
  if (if f.binary then decide (f.maxCode + 1 < c) else x == f.nanCode) then .nan
  else if f.hasInf && c == f.maxCode + 1 then .inf neg
  else .fin neg (f.mag c).1 (f.mag c).2

/-- A code with its sign. -/
def withSign (f : Fmt) (neg : Bool) (c : Nat) : Nat := if neg then f.signBit + c else c

/-- The exponent of the least significant bit of the grid at a magnitude (R234). -/
def lsb (f : Fmt) (m : Nat) (e : Int) : Int := max (Nat.log2 m + e - f.frac) f.least

/-- A magnitude rounded on the grid, which goes on above the largest finite value (R234 to R236): the magnitude code. -/
def gridCode (f : Fmt) (r : Round) (neg : Bool) (m : Nat) (e : Int) : Nat :=
  if m = 0 then 0
  else
    let lsb := f.lsb m e
    let den := 2 ^ (lsb - e).toNat
    let lo := if e < lsb then m / den else m * 2 ^ (e - lsb).toNat
    let rem := if e < lsb then m % den else 0
    let c := (lsb - f.least).toNat * 2 ^ f.frac + lo
    let up :=
      match r with
      | .ne => decide (den < 2 * rem) || (2 * rem == den && c % 2 == 1)
      | .rz => false
      | .rm => rem != 0 && neg
      | .rp => rem != 0 && !neg
      | .st u => decide (u < rem * 65536 / den)
    if up then c + 1 else c

/-- A value rounded to a binary format as IEEE 754 rounds it (R328, R331). -/
def encode (f : Fmt) (r : Round) : Fp → Nat
  | .nan => f.nanCode
  | .inf neg => f.withSign neg (f.maxCode + 1)
  | .fin neg m e =>
    let c := f.gridCode r neg m e
    let cut := match r with
      | .rz => true
      | .rm => !neg
      | .rp => neg
      | _ => false
    f.withSign neg (if f.maxCode < c then (if cut then f.maxCode else f.maxCode + 1) else c)

/-- The fate of an overflow (R238). -/
def overflow (f : Fmt) (sat : Nat) (neg : Bool) : Nat :=
  if sat = 0 then f.withSign neg f.maxCode
  else if sat = 1 ∧ f.hasInf then f.withSign neg (f.maxCode + 1)
  else f.nanCode

/-- A value converted to a slot's element format (R234 to R239). -/
def convert (f : Fmt) (r : Round) (sat : Nat) : Fp → Nat
  | .nan => f.nanCode
  | .inf neg =>
    if neg && !f.signed then (if sat = 0 then 0 else f.nanCode) else f.overflow sat neg
  | .fin neg m e =>
    if m = 0 then (if f.binary then f.withSign neg 0 else 0)
    else if neg && !f.signed then (if sat = 0 then 0 else f.nanCode)
    else
      let c := f.gridCode r neg m e
      if f.maxCode < c then (if r = .rz then f.withSign neg f.maxCode else f.overflow sat neg)
      else if c = 0 then (if f.binary then f.withSign neg 0 else 0)
      else f.withSign neg c

end Fmt

/-! ### Format-slot descriptors (R232, R233) -/

/-- Fields of a descriptor. -/
def fsRnd (d : DWord) : Nat := slice d 24 23
def fsSat (d : DWord) : Nat := slice d 22 21
def fsSpn (d : DWord) : Nat := slice d 20 15
def fsScl (d : DWord) : Nat := slice d 14 13
def fsBlk (d : DWord) : Nat := slice d 12 11
def fsKind (d : DWord) : Nat := slice d 3 0
def fsWid (d : DWord) : Nat := slice d 5 4
def fsPrec (d : DWord) : Nat := slice d 8 6

/-- The width K of a narrow format. -/
def narrowWidth (d : DWord) : Nat := if fsWid d = 0 then 8 else if fsWid d = 1 then 6 else 4

/-- The element format that a descriptor names. -/
def fsFmt (d : DWord) : Fmt :=
  match fsKind d with
  | 0 => Fmt.f32
  | 1 => Fmt.f16
  | 2 => Fmt.bf16
  | _ => narrowFmt (narrowWidth d) (fsPrec d) (bit d 9) (bit d 10)

/-- Elements in a block; 0 without block scales. -/
def fsBlock (d : DWord) : Nat := if fsBlk d = 0 then 0 else 8 * 2 ^ fsBlk d

/-- A descriptor that R232 and R233 allow. -/
def fsValid (d : DWord) : Bool :=
  let narrow := fsKind d == 3
  slice d 63 25 == 0 && decide (fsKind d ≤ 3) && fsRnd d != 3 && fsSat d != 3 && decide (fsSpn d ≤ 24) &&
    decide (fsScl d ≤ 1) && (fsBlk d != 0 || fsScl d == 0) &&
    (if narrow then fsWid d != 3 && decide (1 ≤ fsPrec d) &&
        decide (fsPrec d ≤ (if fsWid d = 0 then 7 else if fsWid d = 1 then 5 else 3))
      else slice d 14 4 == 0) &&
    (fsSpn d == 0 || decide (fsBlk d ≤ 1))

/-! ### The generator of stochastic rounding (R237) -/

/-- One step: the new state, and the 16 bits drawn. -/
def drawStep (z : Word) : Word × Nat :=
  let z := z ^^^ (z <<< 13)
  let z := z ^^^ (z >>> 17)
  let z := z ^^^ (z <<< 5)
  (z, slice z 31 16)

/-- Mix(s, f). -/
def mixSeed (s : Word) (f : Nat) : Word :=
  let z := s ^^^ BitVec.ofNat 32 (0x9E3779B9 * (f + 1))
  if z = 0 then 1 else z

/-- The rounding of a slot, given the draw. -/
def fsRound (d : DWord) (u : Nat) : Round :=
  match fsRnd d with
  | 1 => .rz
  | 2 => .st u
  | _ => .ne

/-! ### Exact arithmetic -/

namespace Fp

def isNan : Fp → Bool
  | .nan => true
  | _ => false

/-- The sign; NaN has none. -/
def sign : Fp → Bool
  | .nan => false
  | .inf n => n
  | .fin n _ _ => n

def negate : Fp → Fp
  | .nan => .nan
  | .inf n => .inf !n
  | .fin n m e => .fin (!n) m e

/-- An exact product; ∞ × 0 is NaN. -/
def mul : Fp → Fp → Fp
  | .nan, _ | _, .nan => .nan
  | .inf a, .inf b => .inf (a != b)
  | .inf a, .fin b m _ => if m = 0 then .nan else .inf (a != b)
  | .fin a m _, .inf b => if m = 0 then .nan else .inf (a != b)
  | .fin a m e, .fin b n f => .fin (a != b) (m * n) (e + f)

/-- A finite value scaled by 2^k. -/
def scale (k : Int) : Fp → Fp
  | .fin n m e => .fin n m (e + k)
  | x => x

/-- The least exponent among finite values. -/
def lowExp (xs : List Fp) : Int :=
  (xs.foldl (fun (r : Option Int) x =>
    match x with
    | .fin _ m e => if m = 0 then r else some (match r with | none => e | some k => min k e)
    | _ => r) none).getD 0

/-- A finite value as a multiple of 2^k, where k is at most its exponent. -/
def units (k : Int) : Fp → Int
  | .fin n m e => let a : Int := (m * 2 ^ (e - k).toNat : Nat); if n then -a else a
  | _ => 0

/-- An exact sum: NaN from a NaN or from infinities of both signs; a zero is −0 only where every term is −0 (R244, R245,
R329, and IEEE 754 for two terms). -/
def sum (xs : List Fp) : Fp :=
  if xs.any isNan then .nan
  else
    let pos := xs.any fun x => x == .inf false
    let neg := xs.any fun x => x == .inf true
    if pos && neg then .nan
    else if pos then .inf false
    else if neg then .inf true
    else
      let k := lowExp xs
      let t := (xs.map (units k)).sum
      if t = 0 then .fin (xs.all sign && xs != []) 0 0 else .fin (decide (t < 0)) t.natAbs k

def add (a b : Fp) : Fp := sum [a, b]

/-- How two values stand (R290, R330): −0 and +0 are equal. -/
def order : Fp → Fp → FOrder
  | .nan, _ | _, .nan => .unordered
  | a, b =>
    match sum [a, b.negate] with
    | .fin n m _ => if m = 0 then .eq else if n then .lt else .gt
    | .inf n => if n then .lt else .gt
    | .nan => .eq

/-- a is taken before b by FMIN, with −0 below +0 (R330). -/
def before (a b : Fp) : Bool :=
  match order a b with
  | .lt => true
  | .eq => a.sign || !b.sign
  | _ => false

/-- A rounded integral magnitude. -/
def integral (r : Round) (n : Bool) (m : Nat) (e : Int) : Nat :=
  if 0 ≤ e then m * 2 ^ e.toNat
  else
    let den := 2 ^ (-e).toNat
    let lo := m / den
    let rem := m % den
    let up :=
      match r with
      | .ne => decide (den < 2 * rem) || (2 * rem == den && lo % 2 == 1)
      | .rz => false
      | .rm => rem != 0 && n
      | .rp => rem != 0 && !n
      | .st u => decide (u < rem * 65536 / den)
    if up then lo + 1 else lo

/-- FRND's exact result: an integral value that keeps the sign of zero (R330). -/
def rounded (r : Round) : Fp → Fp
  | .fin n m e => .fin n (integral r n m e) 0
  | x => x

/-- A value rounded to an integer and saturated to a range; NaN gives 0 (R331). -/
def toInt (r : Round) (lo hi : Int) : Fp → Int
  | .nan => 0
  | .inf n => if n then lo else hi
  | .fin n m e =>
    let a : Int := (integral r n m e : Nat)
    clampInt (if n then -a else a) lo hi

/-- An exact integer. -/
def ofInt (x : Int) : Fp := .fin (decide (x < 0)) x.natAbs 0

/-- A zero of either sign. -/
def isZero : Fp → Bool
  | .fin _ m _ => m == 0
  | _ => false

end Fp

/-- floor(√n), by digits: `k` is at least half the bits of n. -/
def isqrt : Nat → Nat → Nat
  | 0, _ => 0
  | k + 1, n =>
    let r := 2 * isqrt k (n / 4)
    if (r + 1) * (r + 1) ≤ n then r + 1 else r

end Sys2Proof.Machine
end

