-- ==== Sys2Proof/Machine/Flow.lean ====
section
/-! DEFINITION. Divergence, parts, rejoin masks and loop ends of one group (R156 to R161, R164, R317 to R319). -/

namespace Sys2Proof.Machine

/-- Where a quad stands after its lanes have moved: in the same clause, at a counter, arrived at a loop's end, with no
lane left, or with only held lanes that cannot be released. -/
inductive Go where
  | same
  | at (pc : Nat)
  | arrived (lc : Nat)
  | gone
  | stuck
  deriving DecidableEq, Repr

/-- The lanes of a quad (R10). -/
def quadList (q : Nat) : List Nat := [4 * q, 4 * q + 1, 4 * q + 2, 4 * q + 3]

/-- The quads of a set, ascending. -/
def quadsOf (m : BitVec 16) : List Nat := (List.range 16).filter fun q => m.getLsbD q

/-- The smallest of a list. -/
def minNat : List Nat → Option Nat
  | [] => none
  | x :: xs =>
    match minNat xs with
    | none => some x
    | some y => some (if x ≤ y then x else y)

namespace Flow

/-- Lanes of a quad whose condition satisfies `p`. -/
def quadWith (f : Flow) (q : Nat) (p : LaneCond → Bool) : List Nat := (quadList q).filter fun l => p (f.lane l)

/-- The address at which a lane waits. -/
def waitAddr (f : Flow) (l : Nat) : Option Nat :=
  match f.lane l with
  | .waiting a => some a
  | _ => none

/-- Every lane of the quad that waits at an address becomes active (R156). -/
def arrive (f : Flow) (q pc : Nat) : Flow :=
  (f.quadWith q fun c => c == .waiting pc).foldl (fun f l => f.setLane l .active) f

/-- A quad whose active set may be empty: it keeps its counter, takes the lowest waiting address, has arrived at a loop's
end, has exited, or is stuck (R157, R318). -/
def switch (f : Flow) (q : Nat) (now : Go) : Flow × Go :=
  if (f.quadWith q fun c => c == .active) ≠ [] then (f, now)
  else
    match minNat ((quadList q).filterMap f.waitAddr) with
    | some a => (f.arrive q a, .at a)
    | none =>
      match f.quadWith q fun c => !(c == .exited) with
      | [] => (f, .gone)
      | l :: ls =>
        match f.lane l with
        | .atEnd lc => if ls.all fun m => f.lane m == .atEnd lc then (f, .arrived lc) else (f, .stuck)
        | _ => (f, .stuck)

/-- The innermost active loop whose body ends at a clause: the one started last (R318). -/
def endingAt (f : Flow) (clause : Nat) : Option Loop := (f.loops.filter fun l => l.active && l.last == clause).getLast?

/-- The active lanes of a quad leave a clause: a lane with a target takes the branch, every other one goes on in
sequence or waits at a loop's end (R156, R318). -/
def leaveQuad (f : Flow) (clause next : Nat) (tgt : Nat → Option Nat) (q : Nat) : Flow × Go :=
  let lanes := f.quadWith q fun c => c == .active
  let ended := f.endingAt clause
  let dest (l : Nat) : Option Nat :=
    match tgt l with
    | some a => some a
    | none => if ended.isSome then none else some next
  match minNat (lanes.filterMap dest) with
  | none => (lanes.foldl (fun f l => f.setLane l (.atEnd ((ended.map (·.lc)).getD 0))) f).switch q .same
  | some low =>
    let f := lanes.foldl (fun f l =>
      match dest l with
      | none => f.setLane l (.atEnd ((ended.map (·.lc)).getD 0))
      | some a => if a = low then f else f.setLane l (.waiting a)) f
    (f.arrive q low, .at low)

/-- Adds a quad to the part that stands where it does. -/
def joinPart (q : Nat) (proto : Part) : List Part → List Part
  | [] => [{ proto with quads := BitVec.ofNat 16 (2 ^ q) }]
  | p :: ps =>
    if p.pc = proto.pc ∧ p.hold = proto.hold ∧ p.clause = proto.clause then
      { p with quads := p.quads ||| BitVec.ofNat 16 (2 ^ q) } :: ps
    else p :: joinPart q proto ps

/-- The part that a quad's outcome puts it in: `old` is the part it was in. -/
def partFor (old : Part) : Go → Option Part
  | .same => some old
  | .at pc => some { quads := 0, pc, clause := none, hold := .run }
  | .arrived lc => some { quads := 0, pc := old.pc, clause := none, hold := .loopEnd lc }
  | .gone => none
  | .stuck => some old

/-- The parts after the quads of one part have moved: one part for each counter (R159). -/
def resplit (f : Flow) (old : Part) (outs : List (Nat × Go)) : Flow :=
  let fresh := outs.foldl (fun ps qo =>
    match partFor old qo.2 with
    | none => ps
    | some p => joinPart qo.1 p ps) []
  { f with parts := (f.parts.filter fun p => p.quads != old.quads) ++ fresh }

/-- Every quad of a part taken through `step`; the outcomes in order of quads. -/
def overQuads (f : Flow) (old : Part) (step : Flow → Nat → Flow × Go) : Flow × List (Nat × Go) :=
  (quadsOf old.quads).foldl (fun (fo : Flow × List (Nat × Go)) q =>
    let r := step fo.1 q
    (r.1, fo.2 ++ [(q, r.2)])) (f, [])

/-- Quads that are stuck (R157). -/
def stuckOf (outs : List (Nat × Go)) : List Nat := outs.filterMap fun o => if o.2 = .stuck then some o.1 else none

/-- The part that holds exactly these quads. -/
def partOf? (f : Flow) (quads : BitVec 16) : Option Part := f.parts.find? fun p => p.quads == quads

/-- A change of the part that holds exactly these quads. -/
def modPart (f : Flow) (quads : BitVec 16) (g : Part → Part) : Flow :=
  { f with parts := f.parts.map fun p => if p.quads == quads then g p else p }

/-- A part whose quads have left a marked clause: held at the regroup point with its counter as its target, one that has
arrived at an active loop's end as well (R162, R318). -/
def regroupHold (clause : Nat) (p : Part) : Part :=
  match p.hold with
  | .run | .loopEnd _ => { p with hold := .regroup clause }
  | _ => p

/-- A part leaves its clause (R156, R318); with `rg`, its quads are then held at the regroup point (R162). -/
def leave (f : Flow) (old : Part) (clause next : Nat) (rg : Bool) (tgt : Nat → Option Nat) : Flow × List Nat :=
  let r := f.overQuads old fun f q => f.leaveQuad clause next tgt q
  let f' := r.1.resplit old r.2
  let f'' :=
    if rg then
      { f' with parts := f'.parts.map fun p => if p.quads &&& old.quads ≠ 0 then regroupHold clause p else p }
    else f'
  (f'', stuckOf r.2)

/-! ### Rejoin masks (R158) -/

/-- The PARKs at which lanes of a quad are held: clause, mask and next header. -/
def parksIn (f : Flow) (q : Nat) : List (Nat × Nat × Nat) :=
  ((quadList q).filterMap fun l =>
    match f.lane l with
    | .held c j n => some (c, j, n)
    | _ => none).eraseDups

/-- The release test for one PARK in a quad: every lane of the quad's slice of the mask is held there. -/
def testPark (f : Flow) (mask : Lanes) (q : Nat) (park : Nat × Nat × Nat) : Bool :=
  (quadList q).all fun l => !mask.getLsbD l || f.lane l == .held park.1 park.2.1 park.2.2

/-- The lanes of a quad held at a PARK are released into a condition. -/
def releasePark (f : Flow) (q : Nat) (park : Nat × Nat × Nat) (c : LaneCond) : Flow :=
  (f.quadWith q fun x => x == .held park.1 park.2.1 park.2.2).foldl (fun f l => f.setLane l c) f

end Flow

/-- A mask without the lanes of a quad. -/
def clearQuad (m : Lanes) (q : Nat) : Lanes := m &&& ~~~(quadMask q)

/-- The release tests of a quad after a STRIKE or an EXIT: released lanes wait at the header after the PARK. `js` are
the masks whose PARKs are tested. -/
def retestQuad (js : List Nat) (q : Nat) (fr : Flow × Regs) : Flow × Regs :=
  (fr.1.parksIn q).foldl (fun (fr : Flow × Regs) park =>
    if js.contains park.2.1 && fr.1.testPark (fr.2.getJ park.2.1) q park then
      (fr.1.releasePark q park (.waiting park.2.2), fr.2.setJ park.2.1 (clearQuad (fr.2.getJ park.2.1) q))
    else fr) fr

/-- PARK jN in one quad: the active lanes become held, and the release test runs. Released lanes go on at the next
header, or wait at a loop's end when the PARK's clause ends a body (R158, R318). -/
def parkQuad (clause next j : Nat) (q : Nat) (fr : Flow × Regs) : (Flow × Regs) × Go :=
  let f := (fr.1.quadWith q fun c => c == .active).foldl (fun f l => f.setLane l (.held clause j next)) fr.1
  let park := (clause, j, next)
  if f.testPark (fr.2.getJ j) q park then
    let f := f.releasePark q park .active
    let r := fr.2.setJ j (clearQuad (fr.2.getJ j) q)
    let o := f.leaveQuad clause next (fun _ => none) q
    ((o.1, r), o.2)
  else
    let o := f.switch q .stuck
    ((o.1, fr.2), o.2)

/-- Lanes of one quad exit: they leave every mask, the helper lanes follow when no other lane of the quad remains, the
release tests run, and the quad switches if it must (R152, R157, R158, R164). -/
def exitQuad (lanes : Lanes) (q : Nat) (fr : Flow × Regs) : (Flow × Regs) × Go :=
  let out := (quadList q).filter fun l => lanes.getLsbD l
  let f := out.foldl (fun f l => f.setLane l .exited) fr.1
  let rest := (f.quadWith q fun c => !(c == .exited)).filter fun l => !f.helper.getLsbD l
  let f := if rest = [] then (quadList q).foldl (fun f l => f.setLane l .exited) f else f
  let gone := maskOf (f.quadWith q fun c => c == .exited)
  let r := (List.range 8).foldl (fun (r : Regs) n => r.setJ n (r.getJ n &&& ~~~gone)) fr.2
  let fr := retestQuad (List.range 8) q (f, r)
  let o := fr.1.switch q .same
  ((o.1, fr.2), o.2)

namespace Flow

/-- Quads of the group that have not exited. -/
def livingQuads (f : Flow) : List Nat := f.parts.flatMap fun p => quadsOf p.quads

/-- The group's quads form one part, or none are left. -/
def whole (f : Flow) : Bool := f.parts.length ≤ 1

/-- Several parts replaced by one. -/
def mergeParts (f : Flow) (sel : Part → Bool) (into : Part) : Flow :=
  let quads := f.parts.foldl (fun (m : BitVec 16) p => if sel p then m ||| p.quads else m) 0
  { f with parts := (f.parts.filter fun p => !sel p) ++ [{ into with quads }] }

/-- The address of a REGANG or LOOP at which a part is parked. -/
def rendezvousAddr (p : Part) : Option Nat :=
  match p.hold with
  | .regang c _ => some c
  | .loop c => some c
  | _ => none

/-- The rendezvous of R161 and R317: when every part is parked at a REGANG or a LOOP, those at the lowest address
merge. The part goes on at the next clause header, or is ready for the LOOP's checks. Answers the quads that a loop's end
leaves with held lanes alone (R157, R318). -/
def rendezvous (f : Flow) : Flow × List Nat :=
  if f.parts = [] ∨ f.parts.any (fun p => (rendezvousAddr p).isNone) then (f, [])
  else
    match minNat (f.parts.filterMap rendezvousAddr) with
    | none => (f, [])
    | some low =>
      match f.parts.find? fun p => rendezvousAddr p == some low with
      | none => (f, [])
      | some p =>
        match p.hold with
        | .regang c next =>
          let old : Part := { p with quads := f.parts.foldl (fun (m : BitVec 16) x =>
            if rendezvousAddr x == some low then m ||| x.quads else m) 0 }
          let f := f.mergeParts (fun x => rendezvousAddr x == some low) old
          match f.endingAt c with
          | some _ => f.leave old c next false fun _ => none
          | none =>
            let f := (quadsOf old.quads).foldl (fun f q => f.arrive q next) f
            (f.modPart old.quads fun x => { x with pc := next, clause := none, hold := .run }, [])
        | _ => (f.mergeParts (fun x => rendezvousAddr x == some low) { p with hold := .loopReady }, [])

/-- The group step at a loop's end (R318): when every part has arrived, the count falls and the lanes go on at the body
start, or at the exit when it reaches zero; loops that end at the same clause follow from the inside out. `fuel` bounds
the loops. -/
def loopStep : Nat → Flow → Flow
  | 0, f => f
  | fuel + 1, f =>
    match f.parts with
    | [] => f
    | p :: _ =>
      match p.hold with
      | .loopEnd lc =>
        if f.parts.all fun x => x.hold == .loopEnd lc then
          match f.loops.find? fun l => l.active && l.lc == lc with
          | none => f
          | some l =>
            let lanes := f.lanesWith fun c => c == .atEnd lc
            let n := l.count - 1
            let upd (act : Bool) := f.loops.map fun x => if x.lc == lc then { x with count := n, active := act } else x
            if n ≠ 0 then
              let f := { f with loops := upd true }
              (f.setLanes lanes .active).mergeParts (fun _ => true) { p with pc := l.start, clause := none, hold := .run }
            else
              let f := { f with loops := upd false }
              match f.endingAt l.last with
              | some outer =>
                loopStep fuel ((f.setLanes lanes (.atEnd outer.lc)).mergeParts (fun _ => true)
                  { p with hold := .loopEnd outer.lc })
              | none =>
                (f.setLanes lanes .active).mergeParts (fun _ => true) { p with pc := l.exit, clause := none, hold := .run }
        else f
      | _ => f

/-- What a change of the parts may complete: loop ends, a rendezvous, and the loop end that the rendezvous reaches. Answers
the quads that cannot go on. -/
def settle (f : Flow) : Flow × List Nat :=
  let r := (f.loopStep 4).rendezvous
  (r.1.loopStep 4, r.2)

end Flow

end Sys2Proof.Machine
end

