-- ==== Sys2Proof/Machine/Send.lean ====
section
/-! DEFINITION. The router die seen from this device: ports, routing, streams, injection, error notices, tags, MSI-X
(R52 to R72, R90, R103). A packet that this device sends to itself enters its own arrival queue. -/

namespace Sys2Proof.Machine

/-! ### MSI-X vectors (R90) -/

namespace State

/-- The function exists: the physical function, or an enabled virtual function (R88). -/
def fnEnabled (s : State) (fn : Nat) : Bool := fn == 0 || (s.host.vfEnable && decide (fn ≤ s.host.numVfs))

/-- A vector is signalled; while it is masked the event stays pending (R90). -/
def signal (s : State) (fn vec : Nat) : State :=
  if !s.fnEnabled fn then s
  else if Map.get true s.host.masked (16 * fn + vec) then
    s.modHost fun h => { h with pendingVec := Map.put (16 * fn + vec) true h.pendingVec }
  else s.modHost fun h => { h with vectors := (fn, vec) :: h.vectors }

/-- A cause of a vector that stands or falls: the vector is signalled on the rising edge (R90). -/
def level (s : State) (cause fn vec : Nat) (now : Bool) : State :=
  let before := Map.get false s.host.cause cause
  let s := s.modHost fun h => { h with cause := Map.put cause now h.cause }
  if now && !before then s.signal fn vec else s

/-! ### Geometry and ports (R51, R52) -/

/-- Row and column of a peer number (R51). -/
def rowOf (p : Nat) : Nat := p / 32 % 32
def colOf (p : Nat) : Nat := p % 32

/-- The row port toward a column, or the column port toward a row (R52). -/
def rowPort (s : State) (x : Nat) : Nat := if x < s.fab.col.toNat then x else x - 1
def colPort (s : State) (y : Nat) : Nat := 31 + (if y < s.fab.row.toNat then y else y - 1)

/-- The position that port k's far end has in its dimension (R52). -/
def farOf (s : State) (k : Nat) : Nat :=
  if k < 31 then (if k < s.fab.col.toNat then k else k + 1)
  else (if k - 31 < s.fab.row.toNat then k - 31 else k - 31 + 1)

/-- The far position lies outside the pod (R52). -/
def farOutside (s : State) (k : Nat) : Bool :=
  if k < 31 then decide (s.fab.colsM1.toNat < s.farOf k) else decide (s.fab.rowsM1.toNat < s.farOf k)

/-- The device at the far end of an in-pod port. -/
def farPeer (s : State) (k : Nat) : Nat :=
  if k < 31 then s.fab.row.toNat * 32 + s.farOf k else s.farOf k * 32 + s.fab.col.toNat

/-- A port whose far position lies outside the pod and that is no uplink is held down (R52). -/
def heldDown (s : State) (k : Nat) : Bool := s.farOutside k && !s.fab.portRole.getLsbD k

/-- The port is in service. -/
def portUp (s : State) (k : Nat) : Bool := (s.port k).up && !(s.port k).disable

/-- The lowest-numbered uplink in service (R56). -/
def uplink (s : State) : Option Nat :=
  (List.range 62).find? fun k => s.fab.portRole.getLsbD k && s.farOutside k && s.portUp k

/-! ### Routing (R65, R66) -/

/-- The port of a hop in the row (`dim` true) or column dimension toward a coordinate. -/
def hopPort (s : State) (dim : Bool) (x : Nat) : Nat := if dim then s.rowPort x else s.colPort x

/-- The device that such a hop reaches. -/
def hopPeer (s : State) (dim : Bool) (x : Nat) : Nat :=
  if dim then s.fab.row.toNat * 32 + x else x * 32 + s.fab.col.toNat

/-- The first detour position of one dimension: ascending from one past the own coordinate, wrapping round, skipping
the own coordinate and the destination's (R66). -/
def detourIn (s : State) (dim : Bool) (dest : Nat) : Option Nat :=
  let own := if dim then s.fab.col.toNat else s.fab.row.toNat
  let n := (if dim then s.fab.colsM1.toNat else s.fab.rowsM1.toNat) + 1
  ((List.range n).map fun i => (own + 1 + i) % n).find? fun x =>
    decide (x ≠ own) && decide (x ≠ dest) && !s.isDead (s.hopPeer dim x) && s.portUp (s.hopPort dim x)

/-- The next hop toward an in-pod destination other than this device (R65, R66): a port, or none (UNREACH). -/
def nextHop (s : State) (dst hops : Nat) : Option Nat :=
  let dy := rowOf dst
  let dx := colOf dst
  let y := s.fab.row.toNat
  let x := s.fab.col.toNat
  if 4 ≤ hops then none
  else if dx ≠ x ∧ dy ≠ y then
    if s.portUp (s.rowPort dx) && !s.isDead (y * 32 + dx) then some (s.rowPort dx)
    else if s.portUp (s.colPort dy) && !s.isDead (dy * 32 + x) then some (s.colPort dy)
    else
      match s.detourIn true dx with
      | some c => some (s.rowPort c)
      | none => (s.detourIn false dy).map s.colPort
  else if dx ≠ x then
    if s.portUp (s.rowPort dx) then some (s.rowPort dx) else (s.detourIn true dx).map s.rowPort
  else if s.portUp (s.colPort dy) then some (s.colPort dy)
  else (s.detourIn false dy).map s.colPort

/-! ### Streams, tags and charges -/

/-- The stream key of a packet that this device sends (R62): of an off-pod stream the gateway is no part (R58). -/
def outKey (p : Packet) : StreamKey :=
  { peer := if p.ext.isSome then 0 else p.dst, vcn := p.vcn, cls := p.cls, inbound := false,
    off := p.ext.map fun e => (e.dpod, e.ddev) }

/-- The stream key of a packet that arrives here. -/
def inKey (p : Packet) : StreamKey :=
  { peer := p.src, vcn := p.vcn, cls := p.cls, inbound := true, off := p.ext.map fun e => (e.spod, e.ddev) }

/-- ERR, GAP and MGMT codes 1 and 2 stand outside every stream (R63, R64). -/
def unnumbered (p : Packet) : Bool :=
  p.typ == 18 || p.typ == 19 || (p.typ == 20 && (p.payload.headD 0 == 1 || p.payload.headD 0 == 2))

/-- The next sequence number of a stream, and the numbering after it. -/
def nextSeq (k : StreamKey) : List (StreamKey × Nat) → Nat × List (StreamKey × Nat)
  | [] => (0, [(k, 1)])
  | (k', n) :: m =>
    if k' = k then (n, (k', (n + 1) % 65536) :: m)
    else
      let r := nextSeq k m
      (r.1, (k', n) :: r.2)

/-- The 64-byte units that a packet is charged (R103). -/
def unitsOf (p : Packet) : Nat := (16 + (if p.ext.isSome then 8 else 0) + p.len.toNat + 63) / 64

/-- Whether a packet may wait for budget: requests and system packets; responses, error notices and GAPs never wait. -/
def mayWait (p : Packet) : Bool := !(p.cls == 1)

/-- The first tag from `t` on that is neither in use nor retired (R72); `fuel` bounds the search. -/
def seekTag (s : State) : Nat → Nat → Nat
  | 0, t => t
  | fuel + 1, t =>
    if (Map.find s.fab.tags t).isNone && !(s.fab.retired.any fun r => r.1 == t) then t
    else seekTag s fuel ((t + 1) % 65536)

/-- No tag is free: each is in use or retired (R72). -/
def tagsSpent (s : State) : Bool :=
  decide (65536 ≤ (s.fab.tags.filter fun t => decide (t.1 < 65536)).length + s.fab.retired.length)

/-- A tag not in use and not retired (R72); a number of 65,536 or more, which is no tag, where none is free. -/
def freshTag (s : State) : Nat :=
  if s.tagsSpent then ((Map.keys s.fab.tags).foldl max 65535) + 1 else s.seekTag 65536 s.fab.nextTag

/-- A tag taken for an errand (R72). -/
def takeTag (s : State) (k : Tag) : State × Nat :=
  let t := s.freshTag
  (s.modFab fun f => { f with tags := Map.put t k f.tags, nextTag := if t < 65536 then (t + 1) % 65536 else f.nextTag }, t)

/-- A tag retired, not to be reused for 2 × FAB_TMO (R72); a request that still waits for a tag is given up. -/
def retireTag (s : State) (t : Nat) : State :=
  s.modFab fun f =>
    { f with tags := Map.del t f.tags, retired := if t < 65536 then (t, true) :: f.retired else f.retired
             untagged := f.untagged.filter fun u => u.tag != t }

/-- A tag whose response has arrived: it may be used again. -/
def dropTag (s : State) (t : Nat) : State := s.modFab fun f => { f with tags := Map.del t f.tags }

/-! ### The receiving side of streams (R62, R63) -/

/-- A packet delivered to this device's endpoint. -/
def toInbox (s : State) (p : Packet) : State := s.modFab fun f => { f with inbox := f.inbox ++ [p] }

/-- The receiving side of a stream. -/
def rxOf (s : State) (k : StreamKey) : RxStream :=
  match s.fab.rx.find? fun e => e.1 == k with
  | some e => e.2
  | none => { expect := 0, early := [], skipped := [] }

/-- The receiving side of a stream replaced. -/
def setRx (s : State) (k : StreamKey) (r : RxStream) : State :=
  s.modFab fun f => { f with rx := (f.rx.filter fun e => e.1 != k) ++ [(k, r)] }

/-- Packets that are next in order are delivered, and skipped numbers passed over; `fuel` bounds them (R62). -/
def advanceRx (s : State) (k : StreamKey) : Nat → State
  | 0 => s
  | fuel + 1 =>
    let r := s.rxOf k
    match r.early.find? fun p => p.seq.toNat == r.expect with
    | some p =>
      ((s.setRx k { expect := (r.expect + 1) % 65536, early := r.early.filter fun q => q.seq != p.seq,
                    skipped := r.skipped }).toInbox p).advanceRx k fuel
    | none =>
      if r.skipped.contains r.expect then
        (s.setRx k { r with expect := (r.expect + 1) % 65536, skipped := r.skipped.erase r.expect }).advanceRx k fuel
      else s

/-- How far a number lies past the next expected one. -/
def seqAhead (r : RxStream) (seq : Nat) : Nat := (seq + 65536 - r.expect) % 65536

/-- A number is abandoned: the next expected one is passed over; a later one is marked skipped, and a packet held under it
is discarded (R63). -/
def skipSeq (s : State) (k : StreamKey) (seq : Nat) : State :=
  let r := s.rxOf k
  if 32768 ≤ seqAhead r seq || r.skipped.contains seq then s
  else
    let r := { r with skipped := r.skipped ++ [seq], early := r.early.filter fun q => q.seq.toNat != seq }
    (s.setRx k r).advanceRx k (r.early.length + r.skipped.length + 1)

/-! ### Custody and delivery -/

/-- Bytes that a packet takes in a custody buffer (R59). -/
def packetSize (p : Packet) : Nat := 16 + (if p.ext.isSome then 8 else 0) + p.payload.length

/-- The class of buffer space that a packet takes: CLS, HOPS and INB (R58, R61, R68). -/
def bufferClass (p : Packet) : BitVec 2 × BitVec 3 × Bool := (p.cls, p.hops, (p.ext.map (·.inb)).getD false)

/-- A port's custody buffer has room for a packet in its VCN's share (R61): requests take one half of the share, responses
and system packets the other, so that neither waits for the other (R68), and each class that holds nothing keeps room
for one packet (notes/assumptions/56.md). -/
def custodyRoom (s : State) (port : Nat) (p : Packet) : Bool :=
  let mine := s.fab.custody.filter fun k => k.port == port && k.pkt.vcn == p.vcn && (k.pkt.cls == 0) == (p.cls == 0)
  let held := ((mine.map fun k => bufferClass k.pkt).filter fun c => c != bufferClass p).eraseDups.length
  let classes := if p.cls = 0 then 10 else 20
  decide ((mine.map fun k => packetSize k.pkt).sum + packetSize p + Config.packetRoom * (classes - 1 - held) ≤
    Config.custodyShare / 2)

/-- A packet that the router takes into custody and sends out on a port (R66, R69). -/
def sendOn (s : State) (port : Nat) (p : Packet) (hop : Bool) : State :=
  s.modFab fun f => { f with custody := f.custody ++ [{ port, pkt := p, hop }], outbox := (some port, p) :: f.outbox }

/-- The payload of an error notice (R71). -/
def errPayload (s : State) (code : BitVec 4) (p : Packet) : List Byte :=
  bytesOf 8 (code.toNat + 16 * s.peer + 2 ^ 16 * p.typ.toNat + 2 ^ 21 * p.hops.toNat)

/-- The extension of a reply to an off-pod originator (R58). -/
def replyExt (p : Packet) : Option UplinkExt :=
  p.ext.map fun e => { dpod := e.spod, spod := e.dpod, ddev := p.src.setWidth 10, inb := false, rst := false }

/-- The gateway that this device uses toward a pod (R57): the device index chosen modulo the gateway count, then the
next ones in order. One that is dead, has no uplink in service, or names no device of the pod is passed over (the last is
the model's: notes/assumptions/56.md). -/
def gatewayFor (s : State) (pod : Nat) (ddev : Nat) : Option Nat :=
  let e := Map.get 0 s.fab.podRoute pod
  let n := slice e 49 48 + 1
  if !e.getLsbD 63 then none
  else
    (((List.range n).map fun i => (ddev + i) % n).map fun g => slice e (12 * g + 11) (12 * g)).find? fun p =>
      s.inPod p && !s.isDead p && !s.fab.noUplink.contains p && (p != s.peer || s.uplink.isSome)

/-- Types that may cross an uplink (R56). -/
def crossesUplink (p : Packet) : Bool :=
  p.typ == 8 || p.typ == 9 || p.typ == 10 || p.typ == 11 || p.typ == 18

/-- RESTART and RESTART-ACK (R64). -/
def restartMsg (p : Packet) : Bool := p.typ == 20 && (p.payload.headD 0 == 1 || p.payload.headD 0 == 2)

/-- Where a router sends a packet: to this device's endpoint, out on a port, or nowhere, with an error code. -/
inductive Way where
  | here
  | out (port : Nat) (p : Packet) (hop : Bool)
  | stop (code : BitVec 4)
  deriving DecidableEq, Repr

/-- A hop toward another device of the pod (R65 to R67, R423). A RESTART-ACK goes to a device marked dead too (R64). -/
def hopWay (s : State) (p : Packet) : Way :=
  if !s.inPod p.dst.toNat then .stop 1
  else if s.isDead p.dst.toNat && !restartMsg p then .stop 2
  else
    match s.nextHop p.dst.toNat p.hops.toNat with
    | none => .stop 1
    | some k => .out k { p with hops := p.hops + 1 } true

/-- The way of a packet: to its device, or out on an uplink when this device is its gateway (R56, R58). -/
def way (s : State) (p : Packet) : Way :=
  if p.dst.toNat ≠ s.peer then s.hopWay p
  else
    match p.ext with
    | none => .here
    | some e =>
      if e.dpod = s.fab.pod then .here
      else if !crossesUplink p then .stop 6
      else
        match s.uplink with
        | none => .stop 3
        | some k => .out k p false

/-- A VCN's budget lets a packet leave: it covers the packet, or it is full and the packet exceeds the cap (R103). -/
def affords (s : State) (vcn units : Nat) : Bool :=
  decide (((min units (s.boundary vcn).capFab.toNat : Nat) : Int) ≤ Map.get (0 : Int) s.fab.budget vcn)

/-- A charge against a VCN's budget (R103). -/
def charge (s : State) (vcn : Nat) (units : Nat) : State :=
  s.modFab fun f => { f with budget := Map.put vcn (Map.get (0 : Int) f.budget vcn - (units : Int)) f.budget }

/-- A packet for another pod is aimed at its gateway (R58); none where no gateway qualifies (R57). -/
def aim (s : State) (p : Packet) : Option Packet :=
  match p.ext with
  | none => some p
  | some e =>
    if e.dpod = s.fab.pod then some p
    else (s.gatewayFor e.dpod.toNat e.ddev.toNat).map fun g => { p with dst := BitVec.ofNat 12 g }

/-- An error notice or GAP made by this device: outside the streams, sent at once (R63, R103), but for a device whose
RESTART-ACK is due (R64) and a port without room, which `cleared` says that every port has. One that has no way is lost
(notes/assumptions/56.md). -/
def sendNoticeBy (cleared : Bool) (s : State) (p : Packet) : State :=
  match s.aim p with
  | none => s
  | some p =>
    let wait (s : State) : State := s.modFab fun f => { f with injected := f.injected ++ [p] }
    match s.way p with
    | .here => s.toInbox p
    | .stop _ => s
    | .out k q hop =>
      if s.fab.restartWait.contains p.dst.toNat || !(cleared || s.custodyRoom k q) then wait s
      else (s.charge p.vcn.toNat (unitsOf p)).sendOn k q hop

/-- Such a packet while the ports may lack room. -/
def sendNotice (s : State) (p : Packet) : State := sendNoticeBy false s p

/-- The error notice that ends a packet (R63, R71). -/
def notice (s : State) (p : Packet) (code : BitVec 4) : Packet :=
  { typ := 18, vcn := p.vcn, cls := 1, hops := 0, dst := p.src, src := BitVec.ofNat 12 s.peer, seq := p.seq,
    tag := p.tag, len := 8, rsv := 0, addr := p.addr, ext := replyExt p, payload := s.errPayload code p }

/-- The GAP that abandons a packet's number (R62, R63). -/
def gapFor (s : State) (p : Packet) : Packet :=
  { typ := 19, vcn := p.vcn, cls := 1, hops := 0, dst := p.dst, src := BitVec.ofNat 12 s.peer, seq := p.seq, tag := 0,
    len := 8, rsv := 0, addr := 0, ext := p.ext, payload := bytesOf 8 (p.src.toNat + 2 ^ 12 * p.cls.toNat) }

/-- The number of an ended packet is given up at its destination: here at once, elsewhere by a GAP (R62, R63). A GAP does
not cross an uplink (R56; notes/assumptions/47.md). -/
def abandonSeq (cleared : Bool) (s : State) (p : Packet) : State :=
  if unnumbered p || p.ext.any fun e => e.dpod != s.fab.pod then s
  else if p.dst.toNat = s.peer then s.skipSeq (inKey p) p.seq.toNat
  else sendNoticeBy cleared s (s.gapFor p)

/-! ### Copies of a multicast (R77) -/

/-- The rows that a multicast is replicated to, with the tag and the number of each copy (notes/assumptions/36.md): four
bytes of rows after the byte mask and the line, four unused ones, and four for each row, ascending. -/
def castRows (p : Packet) : List (Nat × BitVec 16 × BitVec 16) :=
  let rows := natOfBytes ((p.payload.drop 72).take 4)
  let ys := (List.range 32).filter fun y => rows / 2 ^ y % 2 = 1
  (List.range ys.length).map fun i =>
    (ys.getD i 0, BitVec.ofNat 16 (natOfBytes ((p.payload.drop (80 + 4 * i)).take 2)),
      BitVec.ofNat 16 (natOfBytes ((p.payload.drop (82 + 4 * i)).take 2)))

/-- Such a payload: the byte mask and the line, and the rows with their tags and numbers. -/
def castPayload (data : List Byte) (rows : List (Nat × BitVec 16 × BitVec 16)) : List Byte :=
  data ++ bytesOf 8 (rows.map fun r => 2 ^ r.1).sum ++ rows.flatMap fun r => bytesOf 2 r.2.1.toNat ++ bytesOf 2 r.2.2.toNat

/-- The copies that a router makes of a multicast in its column (R77). -/
def castCopies (p : Packet) : List Packet :=
  (castRows p).map fun r =>
    { p with dst := BitVec.ofNat 12 (32 * r.1 + colOf p.dst.toNat), tag := r.2.1, seq := r.2.2, len := 72,
             payload := p.payload.take 72 }

/-- A packet ends with an error notice to its source, and its number is given up at its destination (R62, R70, R71); a
multicast that still stands for copies ends for each of them (R77). -/
def endPacketBy (cleared : Bool) (s : State) (p : Packet) (code : BitVec 4) : State :=
  let copies := if p.typ = 6 then castCopies p else []
  let s := copies.foldl (fun s q =>
    let s := sendNoticeBy cleared s (s.notice q code)
    if q.dst = p.dst then s else s.abandonSeq cleared q) s
  (if copies = [] then sendNoticeBy cleared s (s.notice p code) else s).abandonSeq cleared p

/-- A packet ends while the ports may lack room. -/
def endPacket (s : State) (p : Packet) (code : BitVec 4) : State := endPacketBy false s p code

/-- A packet is delivered, sent on, or ended; none where its port has no room for it. -/
def place (s : State) (p : Packet) : Option State :=
  match s.way p with
  | .here => some (s.toInbox p)
  | .stop c => some (s.endPacket p c)
  | .out k q hop => if s.custodyRoom k q then some (s.sendOn k q hop) else none

/-- The row and column range of a tenant's outbound window (R102, R103). -/
def fabAllows (s : State) (vcn peer : Nat) : Bool :=
  let o := (s.boundary vcn).fabOut
  decide (slice o 4 0 ≤ colOf peer) && decide (colOf peer ≤ slice o 9 5) &&
    decide (slice o 14 10 ≤ rowOf peer) && decide (rowOf peer ≤ slice o 19 15) &&
    decide ((s.boundary vcn).capFab ≠ 0)

/-- Remote copies and collectives of a tenant may leave the pod (R102). -/
def offPodOk (s : State) (vcn : Nat) : Bool := (s.boundary vcn).fabOut.getLsbD 20

/-- Types that carry a tag of their originator's (R72): RD, WR, AT, MC, RCP, RED, SDELTA and SRBLD. -/
def takesTag (p : Packet) : Bool := [0, 2, 4, 6, 8, 10, 14, 16].contains p.typ.toNat

/-- Packets of a stream that this device has sent and that are not acknowledged (R62): a request until its response has
come, another packet until the next hop has custody (notes/assumptions/56.md). -/
def unacked (s : State) (k : StreamKey) : Nat :=
  let tags := s.fab.tags.filter fun t => t.2.sent == some k
  let held := s.fab.custody.filter fun c =>
    c.pkt.src.toNat == s.peer && outKey c.pkt == k && !unnumbered c.pkt &&
      !(takesTag c.pkt && (Map.find s.fab.tags c.pkt.tag.toNat).isSome)
  tags.length + held.length

/-- The first packet of a restarted off-pod stream is not yet answered (R64); one that has no answer is waited for until
the next hop has custody (notes/assumptions/56.md). -/
def restarting (s : State) (k : StreamKey) : Bool :=
  (s.fab.tags.any fun t => t.2.first == some k) ||
    s.fab.custody.any fun c =>
      c.pkt.src.toNat == s.peer && c.pkt.cls == 1 && outKey c.pkt == k && (c.pkt.ext.map (·.rst)).getD false

/-- What makes a packet of this device wait: a RESTART-ACK that is due or an off-pod stream's first packet (R64), its
stream's window (R62), its budget (R103), an earlier packet of its stream, or of its channel and class, that waits for
one, or room in the port's buffer (R61). -/
def mustWait (s : State) (p : Packet) : Bool :=
  let full := match s.way p with
    | .out k q _ => !s.custodyRoom k q
    | _ => false
  if restartMsg p then full
  else
    full || s.fab.restartWait.contains p.dst.toNat || (mayWait p && !s.affords p.vcn.toNat (unitsOf p)) ||
      (!unnumbered p &&
        (decide (Config.streamWindow ≤ s.unacked (outKey p)) || s.restarting (outKey p) ||
          s.fab.injected.any fun q => !unnumbered q && (outKey q == outKey p || (mayWait p && q.vcn == p.vcn && q.cls == p.cls))))

/-- The copies that a multicast of this device stands for take their numbers, each in the stream to its member; the one
for the packet's own destination goes without (R62, R77). -/
def numberCopies (p : Packet) (tx : List (StreamKey × Nat)) : Packet × List (StreamKey × Nat) :=
  if p.typ ≠ 6 ∨ castRows p = [] then (p, tx)
  else
    let r := ((castRows p).zip (castCopies p)).foldl
      (fun (r : List (Nat × BitVec 16 × BitVec 16) × List (StreamKey × Nat)) e =>
        if e.2.dst = p.dst then (r.1 ++ [e.1], r.2)
        else
          let n := nextSeq (outKey e.2) r.2
          (r.1 ++ [(e.1.1, e.1.2.1, BitVec.ofNat 16 n.1)], n.2)) ([], tx)
    ({ p with payload := castPayload (p.payload.take 72) r.1 }, r.2)

/-- A packet of this device takes its number and leaves; the first of an off-pod stream carries RST (R62, R64, R103). -/
def leave (s : State) (p : Packet) : State :=
  let k := outKey p
  let first := p.ext.isSome && !unnumbered p && !(s.fab.txSeq.any fun e => e.1 == k)
  let r := if unnumbered p then (p.seq.toNat, s.fab.txSeq) else nextSeq k s.fab.txSeq
  let c := numberCopies { p with seq := BitVec.ofNat 16 r.1, ext := p.ext.map fun e => { e with rst := first } } r.2
  let p := c.1
  let sent := if takesTag p then (p.tag.toNat, k) :: (if p.typ = 6 then castCopies p else []).map fun q => (q.tag.toNat, outKey q) else []
  let s := s.modFab fun f =>
    { f with txSeq := c.2, tags := f.tags.map fun (t : Nat × Tag) =>
        match (sent.find? fun e => e.1 == t.1).map (·.2) with
        | none => t
        | some k => (t.1, { t.2 with sent := some k, first := if first && p.cls == 0 then some k else t.2.first }) }
  let s := s.charge p.vcn.toNat (unitsOf p)
  (s.place p).getD s

/-- A new packet of this device: at once to itself, else it leaves or waits (R62, R64, R103). -/
def inject (s : State) (p : Packet) : State :=
  if p.dst.toNat = s.peer ∧ p.ext.isNone then s.toInbox p
  else if s.mustWait p then s.modFab fun f => { f with injected := f.injected ++ [p] }
  else s.leave p

/-- Packets that wait leave while they may, oldest first; `fuel` is how many are tried. -/
def release : Nat → List Packet → State → State
  | 0, _, s => s
  | _, [], s => s
  | fuel + 1, p :: rest, s =>
    match s.aim p with
    | none => release fuel rest (s.endPacket p 3)
    | some p =>
      if s.mustWait p then release fuel rest (s.modFab fun f => { f with injected := f.injected ++ [p] })
      else release fuel rest (s.leave p)

/-- Every waiting packet tried once (R103). -/
def releaseAll (s : State) : State :=
  let w := s.fab.injected
  release w.length w (s.modFab fun f => { f with injected := [] })

/-- A packet of this device with the common fields filled in. -/
def mkPacket (s : State) (typ cls vcn dst tag addr : Nat) (payload : List Byte) (ext : Option UplinkExt) : Packet :=
  { typ := BitVec.ofNat 5 typ, vcn := BitVec.ofNat 4 vcn, cls := BitVec.ofNat 2 cls, hops := 0,
    dst := BitVec.ofNat 12 dst, src := BitVec.ofNat 12 s.peer, seq := 0, tag := BitVec.ofNat 16 tag,
    len := BitVec.ofNat 9 (min payload.length 256), rsv := 0, addr := BitVec.ofNat 45 addr, ext, payload }

/-- A request of this device that ends locally with an error code, without a packet (R54, R103, R423). -/
def failLocal (s : State) (typ vcn tag addr : Nat) (code : BitVec 4) : State :=
  let p := s.mkPacket typ 0 vcn s.peer tag addr [] none
  s.toInbox (s.notice p code)

/-- A request to an in-pod peer on a tenant's channel, after the checks of R54, R103 and R423; without a tag it waits for
one (R72). What this device does for itself is under the same rules (R392), but for its own copy of a multicast (R77) and its
own contribution (R397), which are local. -/
def request (s : State) (typ cls vcn dst tag addr : Nat) (payload : List Byte) : State :=
  if 65536 ≤ tag then s.modFab fun f =>
    { f with untagged := f.untagged ++ [{ typ, cls, vcn, dst, pod := none, tag, addr, payload }] }
  else if !s.inPod dst then s.failLocal typ vcn tag addr 1
  else if dst = s.peer then
    if typ ≠ 6 ∧ typ ≠ 10 ∧ !s.fabAllows vcn dst then s.failLocal typ vcn tag addr 4
    else s.toInbox (s.mkPacket typ cls vcn dst tag addr payload none)
  else if s.isDead dst then s.failLocal typ vcn tag addr 2
  else if !s.fabAllows vcn dst then s.failLocal typ vcn tag addr 4
  else s.inject (s.mkPacket typ cls vcn dst tag addr payload none)

/-- A request to a device of another pod (R57, R58, R103): `ddev` is its device index there. -/
def requestOff (s : State) (typ vcn pod ddev tag addr : Nat) (payload : List Byte) : State :=
  if 65536 ≤ tag then s.modFab fun f =>
    { f with untagged := f.untagged ++ [{ typ, cls := 0, vcn, dst := ddev, pod := some pod, tag, addr, payload }] }
  else if !s.offPodOk vcn || decide ((s.boundary vcn).capFab = 0) then s.failLocal typ vcn tag addr 4
  else
    match s.gatewayFor pod ddev with
    | none => s.failLocal typ vcn tag addr 3
    | some g =>
      s.inject (s.mkPacket typ 0 vcn g tag addr payload
        (some { dpod := BitVec.ofNat 10 pod, spod := s.fab.pod, ddev := BitVec.ofNat 10 ddev, inb := false,
                rst := false }))

/-- A request that has waited leaves under its tag. -/
def reissue (s : State) (u : Untagged) (tag : Nat) : State :=
  match u.pod with
  | none => s.request u.typ u.cls u.vcn u.dst tag u.addr u.payload
  | some pod => s.requestOff u.typ u.vcn pod u.dst tag u.addr u.payload

/-- A tag that has become free goes to the oldest request that waits for one, which then leaves (R72). -/
def giveTag (s : State) (u : Untagged) (k : Tag) : State :=
  let t := s.freshTag
  let s := s.modFab fun f =>
    { f with tags := Map.put t k (Map.del u.tag f.tags), nextTag := (t + 1) % 65536
             untagged := (f.untagged.drop 1).map fun x => if x.tag = u.tag then { x with tag := t } else x }
  let s := { s with groups := s.groups.map fun (g : Nat × Group) =>
    (g.1, { g.2 with ops := { g.2.ops with tagged := g.2.ops.tagged.map fun x => if x = u.tag then t else x } }) }
  s.reissue u t

/-- Waiting requests take tags while there are any; `fuel` bounds them. -/
def giveTags (s : State) : Nat → State
  | 0 => s
  | fuel + 1 =>
    match s.fab.untagged with
    | [] => s
    | u :: _ =>
      match Map.find s.fab.tags u.tag with
      | none => (s.modFab fun f => { f with untagged := f.untagged.drop 1 }).giveTags fuel
      | some k =>
        if u.tag < 65536 then ((s.modFab fun f => { f with untagged := f.untagged.drop 1 }).reissue u u.tag).giveTags fuel
        else if s.tagsSpent then s
        else (s.giveTag u k).giveTags fuel

/-- A response to a packet (R58, R60): same channel and tag, back to its source; SDACK alone is of the system class. -/
def respond (s : State) (p : Packet) (typ : Nat) (payload : List Byte) : State :=
  let cls := if typ = 15 then 2 else 1
  match replyExt p with
  | none => s.inject (s.mkPacket typ cls p.vcn.toNat p.src.toNat p.tag.toNat p.addr.toNat payload none)
  | some e =>
    match s.gatewayFor e.dpod.toNat e.ddev.toNat with
    | none => s
    | some g => s.inject (s.mkPacket typ cls p.vcn.toNat g p.tag.toNat p.addr.toNat payload (some e))

/-- A request refused at its destination (R71). -/
def refuse (s : State) (p : Packet) (code : BitVec 4) : State := s.sendNotice (s.notice p code)

end State

end Sys2Proof.Machine
end

