-- ==== Sys2Proof/Machine/Jobs.lean ====
section
/-! DEFINITION. The event table's own actions: names, decrements, firing, the ready pool and subscriptions (R119 to
R124). -/

namespace Sys2Proof.Machine

/-- The tenant whose share holds an event-table index (R110). -/
def shareOf (i : Nat) : Nat := i / 32768

/-- An index of the share's flag entries (R110). -/
def isFlag (i : Nat) : Bool := decide (i % 32768 < 8192) && decide (i < 262144)

/-- The none value of a name field (R112). -/
def noName : Word := 0xFFFFFFFF

/-- Index and peer fields of a name (R119). -/
def nameIndex (w : Word) : Nat := slice w 17 0
def namePeer (w : Word) : Nat := slice w 31 20
def nameZero (w : Word) : Bool := slice w 19 18 == 0

namespace State

/-- A valid name of the pod (R119). -/
def validName (s : State) (w : Word) : Bool := nameZero w && s.inPod (namePeer w)

/-- A local name (R119). -/
def localName (s : State) (w : Word) : Bool := nameZero w && namePeer w == s.peer

/-- A local flag of a tenant (R110, R119). -/
def localFlag (s : State) (t : Nat) (w : Word) : Bool :=
  s.localName w && isFlag (nameIndex w) && shareOf (nameIndex w) == t

/-- A record of a job or an event, with no group (class J of R251). -/
def bareRecord (cause : BitVec 8) (job detail : DWord) : Record :=
  { cause, write := false, fetch := false, twinHi := false, remote := false, gid := 0, part := 0, job, va := 0,
    clause := 0, idx := 0, lanes := 0, done := 0, entry := 0, level := 7, detail, parks := false, group := false }

/-- A fault record that the tenant's queue owes (R98). -/
def owe (s : State) (t : Nat) (r : Record) : State := s.modFq t fun q => { q with owed := q.owed ++ [r] }

/-- LOSTDEC, saturating (R120, R132). -/
def lostDec (s : State) (t n : Nat) : State :=
  s.modSched t fun k => { k with lostdec := clampNat (k.lostdec + n) 0 (2 ^ 32 - 1) }

/-- The queue number in a job identifier (R115). -/
def queueOf (jobid : DWord) : Nat := slice jobid 53 50

/-- Jobs of a tenant in the pool. -/
def poolOf (s : State) (t : Nat) : List Nat := s.pool.filter fun e => shareOf e == t

/-- A READY job takes its place: in the pool while the tenant's share has room, outside it otherwise (R110, R124). -/
def enterPool (s : State) (e : Nat) : State :=
  if (s.poolOf (shareOf e)).length < 1024 then { s with pool := s.pool ++ [e] }
  else { s with outside := s.outside ++ [e] }

/-- A job newly READY: EPRIO from its queue, AGE 0 (R120, R124). -/
def makeReady (s : State) (e : Nat) : State :=
  let t := shareOf e
  let k := s.event e
  (s.setEvent e
    { k with st := .ready, eprio := (s.queue t (queueOf k.jobid)).prio.toNat, age := 0, runs := [], left := 0,
             released := false, reads := [] }).enterPool e

/-- The first job that waits outside the pool enters it, with its queue's priority and AGE 0 (R124). -/
def refillPool (s : State) (t : Nat) : State :=
  match s.outside.find? fun e => shareOf e == t with
  | none => s
  | some e =>
    if (s.poolOf t).length < 1024 then
      let s := { s with outside := s.outside.erase e }
      let k := s.event e
      let s := s.setEvent e { k with eprio := (s.queue t (queueOf k.jobid)).prio.toNat, age := 0 }
      { s with pool := s.pool ++ [e] }
    else s

/-- A job leaves the pool. -/
def leavePool (s : State) (e : Nat) : State :=
  { s with pool := s.pool.erase e, outside := s.outside.erase e }.refillPool (shareOf e)

/-- A decrement of a waiting job (R120). -/
def decJob (s : State) (e : Nat) : State :=
  let k := s.event e
  if k.st = .waiting then
    if k.count ≤ 1 then (s.setEvent e { k with count := 0 }).makeReady e else s.setEvent e { k with count := k.count - 1 }
  else s

/-- An event signal for a name (R82, R122); one with LOST 1 is kept until it is done (R123). -/
def sendSignal (s : State) (vcn : Nat) (peer : BitVec 12) (name : Word) (lost : Bool) : State :=
  let k : LostSig := { vcn, peer, name }
  let s := if lost then s.modSvc fun v => { v with lost := v.lost.filter (· != k) ++ [k] } else s
  s.inject (s.mkPacket 13 2 vcn peer.toNat 0 name.toNat (bytesOf 8 (name.toNat + if lost then 2 ^ 32 else 0)) none)

/-- One event signal of a flag of this device to a subscriber (R82, R122). -/
def sendEvsig (s : State) (flag : Nat) (peer : BitVec 12) (lost : Bool) : State :=
  s.sendSignal (shareOf flag) peer (BitVec.ofNat 32 (s.peer * 2 ^ 20 + flag)) lost

/-- A flag fires: its registered jobs first, in order, then one EVSIG to each subscriber (R121). -/
def fire (s : State) (i : Nat) : State :=
  let k := s.event i
  let s := s.setEvent i { k with st := .fired, count := 0, regs := [] }
  let s := k.regs.foldl (fun s e => s.decJob e) s
  let due := s.inSubs.filter fun r => r.flag == i && !r.sent
  let s := { s with inSubs := s.inSubs.map fun r => if r.flag == i then { r with sent := true } else r }
  due.foldl (fun s r => s.sendEvsig i r.peer false) s

/-- `n` decrements of a flag as one serialised action (R120, R404). -/
def decFlag (s : State) (i n : Nat) : State :=
  let k := s.event i
  let t := shareOf i
  if n = 0 then s
  else if k.st = .armed then
    if n < k.count then s.setEvent i { k with count := k.count - n } else (s.lostDec t (n - k.count)).fire i
  else s.lostDec t n

/-- ARM of a flag that is FREE or FIRED (R120). -/
def armFlag (s : State) (i n : Nat) : State :=
  let k := s.event i
  if n = 0 then s.fire i else s.setEvent i { k with st := .armed, count := n }

/-- A subscription is lost: one LOSTEVENT record, the jobs stay WAITING (R123). -/
def loseSub (s : State) (t : Nat) (name : Word) : State :=
  match s.outSubs.find? fun o => o.tenant == t && o.name == name with
  | none => s
  | some o =>
    if o.lost then s
    else
      let s := { s with outSubs := s.outSubs.map fun (x : OutSub) =>
        if x.tenant == t && x.name == name then { x with lost := true } else x }
      s.owe t (bareRecord 0x41 0 (name.setWidth 64))

/-- One EVSUB for a name (R82, R122). -/
def sendEvsub (s : State) (t : Nat) (name : Word) : State :=
  s.request 12 2 t (namePeer name) 0 name.toNat (bytesOf 8 name.toNat)

/-- A job registers with a remote name; the first registration sends the EVSUB (R122). -/
def subscribe (s : State) (t : Nat) (name : Word) (e : Nat) : State :=
  match s.outSubs.find? fun o => o.tenant == t && o.name == name with
  | some _ =>
    { s with outSubs := s.outSubs.map fun (x : OutSub) =>
        if x.tenant == t && x.name == name then { x with jobs := x.jobs ++ [e] } else x }
  | none =>
    ({ s with outSubs := s.outSubs ++ [({ tenant := t, name, lost := false, jobs := [e] } : OutSub)] } : State).sendEvsub t name

/-- A job of a cohort that is killed: back to READY when it is idempotent and ATTEMPT is below 7, otherwise FAILED
(R120). With `program`, ATTEMPT becomes 7 first (R262). -/
def killJob (s : State) (e : Nat) (program : Bool) : State :=
  let k := s.event e
  if k.st = .running ∨ k.st = .mailed then
    let att := if program then 7 else k.attempt
    if k.idem ∧ att < 7 then (s.setEvent e { k with attempt := att + 1 }).makeReady e
    else s.setEvent e { k with st := .failed, attempt := att, runs := [], left := 0 }
  else s

/-! ### The communication reserve (R126) -/

/-- The effective largest and smallest reserve (R125). -/
def cmaxOf (s : State) (t : Nat) : Nat := min (s.tenant t).sched.cmax.toNat ((s.coresOf t).length - 1)
def cminOf (s : State) (t : Nat) : Nat := min (s.tenant t).sched.cmin.toNat (s.cmaxOf t)

/-- The reserve, always leaving one core (R126). -/
def reserveOf (s : State) (t : Nat) : Nat := min (s.tenant t).sched.res ((s.coresOf t).length - 1)

/-- The reserve with the effective minimum, which a changed value makes from the next evaluation on (R125, R126). -/
def leastReserve (s : State) (t : Nat) : Nat := max (s.cminOf t) (s.reserveOf t)

/-- The core receives communication jobs: it is one of the RES highest-numbered unretired cores (R126). -/
def isCommCore (s : State) (t c : Nat) : Bool :=
  let cs := s.coresOf t
  (cs.drop (cs.length - s.reserveOf t)).contains c

/-- Cores whose role has changed wait for their moment (R191). -/
def noteRoles (s : State) (t : Nat) : State :=
  (s.coresOf t).foldl (fun s c =>
    let now := s.isCommCore t c
    s.modCore c fun k => { k with roleChange := k.comm != now }) s

end State

end Sys2Proof.Machine
end

