-- ==== Sys2Proof/Machine/Translate.lean ====
section
/-! DEFINITION. From a generic address to a place: windows (R182, R183), alignment (R184), page tables and TLBs (R246 to
R250), and the checks of R253 in their order. -/

namespace Sys2Proof.Machine

/-- Where a translated byte lives (R182, R185, R186). -/
inductive Home where
  | hbm | pewter | vault | spad | host | image
  | peer (p : Nat)
  deriving DecidableEq, Repr

/-- A translated byte: its place, or its peer-local address at a peer. -/
structure Loc where
  place : Nat
  home : Home
  strict : Bool
  deriving DecidableEq, Repr

/-- The place of byte `i` of a run that begins at `l`. -/
def Loc.plus (l : Loc) (i : Nat) : Loc := { l with place := l.place + i }

/-- Homes that an operation cannot reach, so that a page there takes PAGEATTR (R347, R354, R356). -/
inductive Ban where
  | none
  | host                 -- atomics
  | peer                 -- the engines
  | odd                  -- MCAST: everything but HBM, Pewter and peers
  deriving DecidableEq, Repr

/-- A home is beyond an operation's reach. -/
def Ban.bars (b : Ban) (h : Home) : Bool :=
  match b, h with
  | .none, _ | .odd, .hbm | .odd, .pewter | .odd, .peer _ => false
  | .host, .host | .peer, .peer _ | .odd, _ => true
  | _, _ => false

/-- What an access asks of its pages. -/
structure Want where
  write : Bool
  fetch : Bool
  ban : Ban := .none
  deriving DecidableEq, Repr

/-- Who makes an access: the core, the tenant, and the block part (none for resident code). -/
structure Who where
  core : Nat
  tenant : Nat
  block : Option Block
  deriving DecidableEq, Repr

/-- A failed check of R253: its step, its cause, the faulting byte and the page-table entry that decided. -/
structure Snag where
  rank : Nat
  cause : BitVec 8
  va : Nat
  entry : Nat
  level : Nat
  detail : DWord := 0
  stripe : Nat := 8      -- the stripe that froze the access (R221); 8 for none
  remote : Bool := false -- an error notice raised it (R254)
  deriving DecidableEq, Repr

/-- The place of a failed check in R253's order, causes within a step in the order named there. -/
def Snag.order (g : Snag) : Nat :=
  16 * g.rank + match g.cause.toNat with
    | 0x11 | 0x13 | 0x03 => 1
    | 0x14 => 2
    | 0x15 => 3
    | 0x17 => 4
    | _ => 0

/-- A check that no page-table entry decided. -/
def Snag.plain (rank : Nat) (cause : BitVec 8) (va : Nat) : Snag := { rank, cause, va, entry := 0, level := 7 }

/-- Class V causes (R251). -/
def recoverable (c : BitVec 8) : Bool := 1 ≤ c.toNat && c.toNat ≤ 4

/-- The windows of R182. -/
inductive Window where
  | global | vault | cohort | spad | reserved | resident
  deriving DecidableEq, Repr

/-- First addresses of the windows (R182). -/
def vaultBase : Nat := 0x01FFFFFF00000000
def cohortBase : Nat := 0x01FFFFFF80000000
def spadBase : Nat := 0x01FFFFFF81000000
def reservedBase : Nat := 0x01FFFFFF81200000
def residentBase : Nat := 0x01FFFFFFC0000000

/-- The window that holds an address below 2^57, and the first address past it (R182). -/
def windowOf (a : Nat) : Window × Nat :=
  if a < vaultBase then (.global, vaultBase)
  else if a < cohortBase then (.vault, cohortBase)
  else if a < spadBase then (.cohort, spadBase)
  else if a < reservedBase then (.spad, reservedBase)
  else if a < residentBase then (.reserved, residentBase)
  else (.resident, 2 ^ 57)

/-- An egress window's first and last page as the registers read (R102). -/
def Boundary.hostRange (b : Boundary) (i : Nat) : Nat × Nat :=
  ((Map.get 0xFFFFFFFFFFFFF000 b.hostBase i).toNat / 4096, (Map.get 0 b.hostLim i).toNat / 4096)

/-- An inbound window's first and last page (R102). -/
def Boundary.inRange (b : Boundary) (i : Nat) : Nat × Nat :=
  (slice (Map.get (0x1FFFFFFFF000 : DWord) b.inBase i) 44 12, slice (Map.get (0 : DWord) b.inLim i) 44 12)

namespace State

/-- `n` bytes of host memory at `a` lie wholly within one egress window of index `t`, whose HOST cap is not zero
(R103). -/
def hostAllowed (s : State) (t a n : Nat) : Bool :=
  let b := s.boundary t
  decide (b.capHost ≠ 0) && (List.range 4).any fun i =>
    decide ((b.hostRange i).1 ≤ a / 4096) && decide ((a + n - 1) / 4096 ≤ (b.hostRange i).2)

/-- `n` peer-local bytes at `a` lie wholly within one inbound window of index `t` (R103). -/
def inAllowed (s : State) (t a n : Nat) : Bool :=
  let b := s.boundary t
  (List.range 4).any fun i =>
    decide ((b.inRange i).1 ≤ a / 4096) && decide ((a + n - 1) / 4096 ≤ (b.inRange i).2)

/-- `n` bytes at `a` lie in HBM frames of a tenant's pseudo-channel groups (R93, R185). -/
def tenantHbm (s : State) (t a n : Nat) : Bool :=
  decide (a + n ≤ 2 ^ 39) && (s.tenant t).pch.getLsbD (a / 2 ^ 33) && (s.tenant t).pch.getLsbD ((a + n - 1) / 2 ^ 33)

/-- First byte of Pewter (R185). -/
def pewBase : Nat := 0x100000000000

/-- A range lies in the peer-local map, outside the management area (R185). -/
def inMap (a n : Nat) : Bool :=
  decide (a + n ≤ 2 ^ 39) || (decide (2 ^ 40 ≤ a) && decide (a + n ≤ 2 ^ 40 + 2 ^ 31)) ||
    (decide (pewBase ≤ a) && decide (a + n ≤ pewBase + 4095 * 2 ^ 30))

/-- A tenant's partition: first GiB and size (R91). -/
def partition (s : State) (t : Nat) : Nat × Nat := (slice (s.tenant t).cfg 19 8, slice (s.tenant t).cfg 31 20)

/-- `n` bytes at `a` lie in a tenant's Pewter partition (R93). -/
def tenantPewter (s : State) (t a n : Nat) : Bool :=
  let p := s.partition t
  decide (pewBase + p.1 * 2 ^ 30 ≤ a) && decide (a + n ≤ pewBase + (p.1 + p.2) * 2 ^ 30)

/-! ### Page tables (R246, R247) -/

/-- Index bits of a level (R246). -/
def levelShift (level : Nat) : Nat := if level = 0 then 16 else 12 + 9 * level
def levelIndex (level va : Nat) : Nat := if level = 0 then va / 2 ^ 16 % 32 else va / 2 ^ (12 + 9 * level) % 512

/-- Bytes that a leaf of a level maps. -/
def leafSize (level : Nat) : Nat := 2 ^ levelShift level

/-- Fields of an entry (R247). -/
def pteAddr (e : DWord) : Nat := slice e 56 12 * 4096
def pteTgt (e : DWord) : Nat := slice e 3 2

/-- The target after R247's rule for a peer frame that names this device. -/
def pteTarget (s : State) (e : DWord) : Nat :=
  if pteTgt e = 1 ∧ pteAddr e / 2 ^ 45 = s.peer then 0 else pteTgt e

/-- The peer-local address in a frame. -/
def pteLocal (e : DWord) : Nat := pteAddr e % 2 ^ 45

/-- The frame is Pewter. -/
def pewterFrame (a : Nat) : Bool := decide (pewBase ≤ a) && decide (a < pewBase + 2 ^ 42)

/-- The fault of a valid entry at a level, if any (R246, R247, R21). -/
def pteFault (s : State) (t level : Nat) (e : DWord) : Option (BitVec 8) :=
  let leaf := e.getLsbD 1
  let strict := e.getLsbD 6
  if slice e 63 57 ≠ 0 ∨ slice e 11 7 ≠ 0 ∨ pteTgt e = 3 then some 0x13
  else if !leaf then
    if level = 0 ∨ pteTgt e = 1 ∨ strict ∨ e.getLsbD 5 ∨ e.getLsbD 4 then some 0x13
    else if pteTgt e = 0 ∧ (slice e 56 45 ≠ 0 ∨ !s.tenantHbm t (pteLocal e) 4096) then some 0x13
    else none
  else if 3 ≤ level ∨ pteAddr e % leafSize level ≠ 0 then some 0x13
  else if pteTgt e = 2 then (if strict then some 0x13 else none)
  else if pteTgt e = 1 ∧ !inMap (pteLocal e) (leafSize level) then some 0x13
  else if pteTgt e = 1 ∧ !s.inPod (pteAddr e / 2 ^ 45) then some 0x14
  else if s.pteTarget e = 1 then none
  else if pteTgt e = 0 ∧ slice e 56 45 ≠ 0 then some 0x13
  else
    let a := pteLocal e
    let size := leafSize level
    if s.tenantHbm t a size then (if strict && pteTgt e == 0 then some 0x13 else none)
    else if s.tenantPewter t a size then (if !strict && !s.pkg.holdup then some 0x15 else none)
    else some 0x13

/-- The walk from a table downward: the leaf and its level, or the fault (R246, R103). A poisoned entry is read as it
stands (notes/assumptions/59.md). -/
def walkFrom (s : State) (t va : Nat) : Nat → Nat → Bool → Except Snag (DWord × Nat)
  | level, table, host =>
    let at_ := table + 8 * levelIndex level va
    let stop (c : BitVec 8) : Except Snag (DWord × Nat) := .error { rank := 3, cause := c, va, entry := at_, level }
    if host && !s.hostAllowed t at_ 8 then stop 0x17
    else
      let e : DWord := BitVec.ofNat 64 (s.numAt (if host then hostPlace at_ else at_) 8)
      if !e.getLsbD 0 then stop 0x01
      else
        match s.pteFault t level e with
        | some c => stop c
        | none =>
          if e.getLsbD 1 then .ok (e, level)
          else
            match level with
            | 0 => stop 0x13
            | l + 1 => walkFrom s t va l (pteAddr e) (decide (pteTgt e = 2))

/-- A walk from PTROOT (R246, R248). -/
def walk (s : State) (t va : Nat) : Except Snag (DWord × Nat) :=
  let r := (s.tenant t).ptroot
  let host := r.getLsbD 1
  let table := slice r 56 12 * 4096
  if !r.getLsbD 0 then .error (Snag.plain 3 0x01 va)
  else if !host && (decide (2 ^ 45 ≤ table) || !s.tenantHbm t table 4096) then
    .error { rank := 3, cause := 0x13, va, entry := table, level := 4 }
  else s.walkFrom t va 4 table host

/-- The address of the entry at which a walk from a table ends (R254). -/
def endEntry (s : State) (va : Nat) : Nat → Nat → Bool → Nat
  | level, table, host =>
    let at_ := table + 8 * levelIndex level va
    let e : DWord := BitVec.ofNat 64 (s.numAt (if host then hostPlace at_ else at_) 8)
    if !e.getLsbD 0 || e.getLsbD 1 then at_
    else
      match level with
      | 0 => at_
      | l + 1 => endEntry s va l (pteAddr e) (decide (pteTgt e = 2))

/-- How many entries of host memory a walk reads from a table downward (R103). -/
def hostReads (s : State) (t va : Nat) : Nat → Nat → Bool → Nat
  | level, table, host =>
    let at_ := table + 8 * levelIndex level va
    if host && !s.hostAllowed t at_ 8 then 0
    else
      let e : DWord := BitVec.ofNat 64 (s.numAt (if host then hostPlace at_ else at_) 8)
      let here := if host then 1 else 0
      if !e.getLsbD 0 || (s.pteFault t level e).isSome || e.getLsbD 1 then here
      else
        match level with
        | 0 => here
        | l + 1 => here + hostReads s t va l (pteAddr e) (decide (pteTgt e = 2))

/-- How many entries of host memory a walk from PTROOT reads. -/
def walkUnits (s : State) (t va : Nat) : Nat :=
  let r := (s.tenant t).ptroot
  if r.getLsbD 0 then s.hostReads t va 4 (slice r 56 12 * 4096) (r.getLsbD 1) else 0

/-- Units charged to a tenant's HOST budget (R103). -/
def chargeUnits (s : State) (t n : Nat) : State :=
  if n = 0 then s
  else s.modFab fun f => { f with hostBudget := Map.put t (Map.get (0 : Int) f.hostBudget t - (n : Int)) f.hostBudget }

/-- Units that a tenant's HOST budget has been charged between two states. -/
def hostSpent (s u : State) (t : Nat) : Nat :=
  (Map.get (0 : Int) s.fab.hostBudget t - Map.get (0 : Int) u.fab.hostBudget t).toNat

/-- The budget covers `n` units, or it is full and the request exceeds the cap (R103). -/
def affordsHost (s : State) (t n : Nat) : Bool :=
  decide (((min n (s.boundary t).capHost.toNat : Nat) : Int) ≤ Map.get (0 : Int) s.fab.hostBudget t)

/-- The address of the leaf entry of a walk from PTROOT (R254). -/
def leafEntry (s : State) (t va : Nat) : Nat :=
  let r := (s.tenant t).ptroot
  s.endEntry va 4 (slice r 56 12 * 4096) (r.getLsbD 1)

/-! ### TLBs (R249) -/

/-- A cached leaf covers an address. -/
def tlbHit (t va : Nat) (e : Tlb) : Bool := e.tenant == t && va / leafSize e.level == e.va / leafSize e.level

/-- The cached leaf of a core or its cluster. -/
def tlbFind (s : State) (c t va : Nat) : Option Tlb :=
  match (s.core c).tlb.find? (tlbHit t va) with
  | some e => some e
  | none => (Map.get [] s.tlb2 (clusterOf c)).find? (tlbHit t va)

/-- A leaf cached in both levels, the oldest entries giving way. -/
def tlbFill (s : State) (c : Nat) (e : Tlb) : State :=
  let s := s.modCore c fun k => { k with tlb := (e :: k.tlb).take 512 }
  { s with tlb2 := Map.put (clusterOf c) ((e :: Map.get [] s.tlb2 (clusterOf c)).take 16384) s.tlb2 }

/-- A translation removed from a core's TLB and its cluster's. -/
def tlbDrop (s : State) (c t va : Nat) : State :=
  let s := s.modCore c fun k => { k with tlb := k.tlb.filter fun e => !tlbHit t va e }
  { s with tlb2 := Map.put (clusterOf c) ((Map.get [] s.tlb2 (clusterOf c)).filter fun e => !tlbHit t va e) s.tlb2 }

/-- The permission check of a leaf (R253 step 4). -/
def leafDenied (w : Want) (e : DWord) : Option (BitVec 8) :=
  if w.write && !e.getLsbD 4 then some 0x02 else if w.fetch && !e.getLsbD 5 then some 0x16 else none

/-- The place of an address under a leaf (R247). -/
def locOf (s : State) (e : DWord) (level va : Nat) : Loc :=
  let off := va % leafSize level
  match s.pteTarget e with
  | 2 => { place := hostPlace (pteAddr e + off), home := .host, strict := false }
  | 1 => { place := pteLocal e + off, home := .peer (pteAddr e / 2 ^ 45), strict := false }
  | _ =>
    let a := pteLocal e + off
    if pewterFrame a then { place := a, home := .pewter, strict := e.getLsbD 6 }
    else { place := a, home := .hbm, strict := false }

/-- The leaf for an address on a core, cached or walked, with the checks of the frame's home and of permission (R249, R253
steps 3 and 4). A walk takes place within the access that needs it (notes/assumptions/59.md), and its reads of host memory
are charged (R103). -/
def leafFor (s : State) (c t va : Nat) (w : Want) : State × Except Snag (DWord × Nat) :=
  match s.tlbFind c t va with
  | some e =>
    let stop (rank : Nat) (cause : BitVec 8) : Except Snag (DWord × Nat) :=
      .error { rank, cause, va, entry := e.entry, level := e.level }
    if w.ban.bars (s.locOf e.pte e.level va).home then (s, stop 3 0x15)
    else
      match leafDenied w e.pte with
      | none => (s, .ok (e.pte, e.level))
      | some cause => (s.tlbDrop c t va, stop 4 cause)
  | none =>
    let s := s.chargeUnits t (s.walkUnits t va)
    match s.walk t va with
    | .error g => (s, .error g)
    | .ok (e, level) =>
      let stop (rank : Nat) (cause : BitVec 8) : Except Snag (DWord × Nat) :=
        .error { rank, cause, va, entry := s.leafEntry t va, level }
      if w.ban.bars (s.locOf e level va).home then (s, stop 3 0x15)
      else
        match leafDenied w e with
        | none => (s.tlbFill c { tenant := t, level, va, pte := e, entry := s.leafEntry t va }, .ok (e, level))
        | some cause => (s, stop 4 cause)

/-- The host bus address of a host place. -/
def hostAddr (p : Nat) : Nat := p - 2 ^ 60

/-- Step 5 of R253: egress windows and the fabric outbound window (R103). -/
def boundaryFault (s : State) (t : Nat) (l : Loc) (n : Nat) : Bool :=
  match l.home with
  | .host => !s.hostAllowed t (hostAddr l.place) n
  | .peer p => !s.fabAllows t p
  | _ => false

/-- The first of `n` bytes at which step 5 of R253 fails: the first that no egress window holds, or, where each lies in some
window, the first of all. -/
def boundaryByte (s : State) (t : Nat) (l : Loc) (n : Nat) : Nat :=
  match l.home with
  | .host =>
    let a := hostAddr l.place
    let starts := 0 :: (List.range (n / 4096 + 1)).map fun i => 4096 * (a / 4096 + i + 1) - a
    ((starts.filter fun i => decide (i < n)).find? fun i => !s.hostAllowed t (a + i) 1).getD 0
  | _ => 0

/-! ### Guarded regions (R216, R218, R221) -/

/-- Lines of a stripe's region. -/
def stripeLines (k : Stripe) : Nat := 1024 * k.len.toNat

/-- First byte of a stripe's region. -/
def stripeBase (k : Stripe) : Nat := k.base.toNat * 4096

/-- A line of a valid stripe: its row, counted in lines. -/
def stripeRow (k : Stripe) (a : Nat) : Option Nat :=
  if k.valid ∧ stripeBase k ≤ a ∧ (a - stripeBase k) / 64 < stripeLines k then some ((a - stripeBase k) / 64) else none

/-- The valid stripe of a tenant that guards a local address, with the row (R218). -/
def guardOf (s : State) (t a : Nat) : Option (Nat × Nat) :=
  (List.range 8).findSome? fun i => (stripeRow (s.stripe t i) a).map fun row => (i, row)

/-- The member that holds a row's parity (R218). -/
def parityOf (k : Stripe) (row : Nat) : Nat := row % (k.nm1.toNat + 1)

/-- Peer number of a member. -/
def memberPeer (k : Stripe) (m : Nat) : Nat := (k.mem.getD m 0).toNat

/-- A spare whose region is not yet rebuilt (R221). -/
def spareClosed (k : Stripe) : Bool := k.rebuild && k.rstate != 4

/-- The error code of a write that reaches a guarded line from another device (R218, R221): a frozen region first. -/
def guardCode (s : State) (t a : Nat) (write : Bool) : Option (BitVec 4) :=
  match s.guardOf t a with
  | none => none
  | some (i, row) =>
    let k := s.stripe t i
    if spareClosed k then some 10
    else if !write then none
    else if parityOf k row = k.myidx.toNat then some 11
    else if k.lostv then some 10
    else none

/-- Step 6 of R253, for an access by a lane of this device: GUARDPAR before GUARDFRZ, with the stripe. -/
def guardFault (s : State) (t : Nat) (l : Loc) (write : Bool) : Option (BitVec 8 × Nat) :=
  if l.home ≠ .hbm then none
  else
    match s.guardOf t l.place with
    | none => none
    | some (i, row) =>
      let k := s.stripe t i
      if write && parityOf k row == k.myidx.toNat then some (0x19, i)
      else if spareClosed k || (write && k.lostv) then some (0x03, i)
      else none

/-- The failed guard check of `n` bytes that comes first in R253's order: GUARDPAR of any byte before GUARDFRZ. -/
def guardSnag (s : State) (t a n : Nat) (l : Loc) (write : Bool) : Option Snag :=
  let fs := (List.range n).filterMap fun i => (s.guardFault t (l.plus i) write).map fun f =>
    ({ Snag.plain 6 f.1 (a + i) with stripe := f.2 } : Snag)
  (fs.find? fun g => g.cause == 0x19).or fs.head?

/-! ### Lane checks (R253) -/

/-- The accessor of a group. -/
def whoOf (s : State) (g : Nat) : Who := { core := coreOf g, tenant := (s.group g).tenant, block := s.blockOf g }

/-- Threads of a job's block, from its record (R116). -/
def threadsOf (r : List Byte) : Nat :=
  let w := natOfBytes ((r.drop 16).take 8)
  nslice w 15 0 * nslice w 31 16 * nslice w 47 32

/-- Cores per block (R116). -/
def coresPerBlock (threads : Nat) : Nat := (threads + 8191) / 8192

/-- Bytes of scratchpad that a part holds. -/
def spadBytes (b : Block) : Nat := 16384 * b.spad.length

/-- The place of an offset in a part's scratchpad (R180). -/
def spadLoc (b : Block) (o : Nat) : Loc :=
  { place := spadPlace b.core (16384 * b.spad.getD (o / 16384) 0 + o % 16384), home := .spad, strict := false }

/-- The block part in slot k of a cohort (R182). -/
def cohortPart (s : State) (b : Block) (k : Nat) : Option Block :=
  let n := coresPerBlock (threadsOf (s.event b.job).record)
  ((s.blocks.map (·.2)).find? fun x => x.job == b.job && x.run == b.run && !x.dead && x.rank * n + x.part == k)

/-- The first-step checks and the place of a byte in a window other than the global one (R182, R183). -/
def windowLoc (s : State) (w : Who) (a : Nat) : Except (BitVec 8) Loc :=
  match (windowOf a).1 with
  | .global => .error 0x10
  | .vault =>
    let c := (a - vaultBase) / 0x2000000
    if w.block.isSome && !s.holdsCluster w.tenant (clusterOf c) then .error 0x10
    else .ok { place := 0x010000000000 + (a - vaultBase), home := .vault, strict := false }
  | .cohort =>
    match w.block with
    | none => .error 0x10
    | some b =>
      let o := a - cohortBase
      match s.cohortPart b (o / 0x200000) with
      | none => .error 0x10
      | some p => if o % 0x200000 < spadBytes p then .ok (spadLoc p (o % 0x200000)) else .error 0x10
  | .spad =>
    match w.block with
    | none => .error 0x10
    | some b => if a - spadBase < spadBytes b then .ok (spadLoc b (a - spadBase)) else .error 0x10
  | .reserved => .error 0x10
  | .resident =>
    if w.block.isSome then .error 0x10 else .ok { place := imagePlace (a - residentBase), home := .image, strict := false }

/-- Step 1 of R253: WINDOW and then STRADDLE for `n` bytes at `a` (R183). -/
def addressFault (s : State) (w : Who) (a n : Nat) : Option Snag :=
  if 2 ^ 57 ≤ a then some (Snag.plain 1 0x10 (a % 2 ^ 57))
  else
    let k := windowOf a
    let inside := min n (k.2 - a)
    let out (i : Nat) : Bool := match s.windowLoc w (a + i) with | .error _ => true | .ok _ => false
    if k.1 = .reserved then some (Snag.plain 1 0x10 a)
    else
      match (if k.1 = .global then none else (List.range inside).find? out) with
      | some i => some (Snag.plain 1 0x10 (a + i))
      | none => if inside < n then some (Snag.plain 1 0x11 a) else none

/-- Steps 3 to 6 of R253 for the bytes [a, a + n) that lie in one 64 KiB page of the global window. -/
def pageCheck (s : State) (w : Who) (a n : Nat) (want : Want) (guard : Bool) : State × Except Snag Loc :=
  let r := s.leafFor w.core w.tenant a want
  match r.2 with
  | .error g => (r.1, .error g)
  | .ok (e, level) =>
    let l := s.locOf e level a
    if r.1.boundaryFault w.tenant l n then (r.1, .error (Snag.plain 5 0x17 (a + r.1.boundaryByte w.tenant l n)))
    else if guard then
      match r.1.guardSnag w.tenant a n l want.write with
      | none => (r.1, .ok l)
      | some g => (r.1, .error g)
    else (r.1, .ok l)

/-- Every check of R253 for one lane's access of at most 16 bytes, and the place of each byte. -/
def access (s : State) (w : Who) (a n : Nat) (aligned : Bool) (want : Want) : State × Except Snag (List Loc) :=
  match s.addressFault w a n with
  | some g => (s, .error g)
  | none =>
    if aligned && a % n != 0 then (s, .error (Snag.plain 2 0x12 a))
    else if (windowOf a).1 ≠ .global then
      if want.ban = .odd then (s, .error (Snag.plain 3 0x15 a))
      else
        (s, .ok ((List.range n).filterMap fun i =>
          match s.windowLoc w (a + i) with
          | .ok l => some l
          | .error _ => none))
    else
      let n1 := min n (65536 - a % 65536)
      let r1 := s.pageCheck w a n1 want true
      if n1 = n then
        (r1.1, r1.2.map fun l => (List.range n).map l.plus)
      else
        let r2 := r1.1.pageCheck w (a + n1) (n - n1) want true
        match r1.2, r2.2 with
        | .ok l, .ok m => (r2.1, .ok ((List.range n1).map l.plus ++ (List.range (n - n1)).map m.plus))
        | .ok _, .error g => (r2.1, .error g)
        | .error g, .ok _ => (r2.1, .error g)
        | .error g, .error h => (r2.1, .error (if h.order < g.order then h else g))

/-- The whole-range checks of an engine operation (R356, R357): every page of [a, a + n), in address order; `fuel` is
how many pages may lie ahead. The result is one run of bytes for each page, or for each granule of another window. -/
def rangePages (s : State) (w : Who) (want : Want) : Nat → Nat → Nat → State × List (Nat × Nat × Except Snag Loc)
  | 0, _, _ => (s, [])
  | fuel + 1, a, n =>
    if n = 0 then (s, [])
    else
      let size := if (windowOf a).1 = .global then 65536 else 16384
      let m := min n (size - a % size)
      let r :=
        if (windowOf a).1 = .global then s.pageCheck w a m want true
        else
          (s, match s.windowLoc w a with
            | .ok l => .ok l
            | .error c => .error (Snag.plain 1 c a))
      let rest := r.1.rangePages w want fuel (a + m) (n - m)
      (rest.1, (a, m, r.2) :: rest.2)

/-- The line of a prefetch or cache control: R253 steps 1 and 3 only (R352). -/
def lineLoc (s : State) (w : Who) (a : Nat) : State × Except Snag Loc :=
  match s.addressFault w a 1 with
  | some g => (s, .error g)
  | none =>
    if (windowOf a).1 ≠ .global then
      (s, match s.windowLoc w a with
        | .ok l => .ok l
        | .error c => .error (Snag.plain 1 c a))
    else
      let r := s.leafFor w.core w.tenant a { write := false, fetch := false }
      match r.2 with
      | .ok (e, level) => (r.1, .ok (s.locOf e level a))
      | .error g => (r.1, .error g)

/-- The home of the page that an address lies in, where it translates. -/
def pageHome (s : State) (t a : Nat) : Option Home :=
  (s.walk t a).toOption.map fun r => (s.locOf r.1 r.2 a).home

/-- A physical place that holds tenant data reached without a lane: engine and Tarragon accesses under a tenant's
translation at the home (R98, R117, R139, R146). -/
def tenantLoc (s : State) (t a n : Nat) (write : Bool) : Except Snag Loc :=
  let w : Who := { core := 0, tenant := t, block := none }
  if 2 ^ 57 ≤ a ∨ (windowOf a).1 ≠ .global then .error (Snag.plain 1 0x10 a)
  else
    match s.walk t a with
    | .error g => .error g
    | .ok (e, level) =>
      match leafDenied { write, fetch := false } e with
      | some cause => .error { rank := 4, cause, va := a, entry := 0, level := 7 }
      | none =>
        let l := s.locOf e level a
        if s.boundaryFault t l n then .error (Snag.plain 5 0x17 (a + s.boundaryByte t l n))
        else
          match s.guardSnag w.tenant a n l write with
          | some g => .error g
          | none => .ok l

end State

end Sys2Proof.Machine
end

