-- ==== Sys2Proof/Machine/Records.lean ====
section
/-! DEFINITION. The fault record (R254) and its write to the tenant's fault record queue (R98, R103). -/

namespace Sys2Proof.Machine

/-- The 64 bytes of a fault record (R254). -/
def recordBytes (r : Record) (seq : Word) : List Byte :=
  let unit := if r.group then 2 ^ 16 * (State.coreOf r.gid % 64) + 2 ^ 22 * (r.gid % 256) + 2 ^ 30 * (r.part % 4) else 0
  let bit (b : Bool) (i : Nat) : Nat := if b then 2 ^ i else 0
  bytesOf 8 (r.cause.toNat + bit (recoverable r.cause) 8 + bit r.write 9 + bit r.fetch 10 + bit r.twinHi 11 +
      bit r.remote 12 + unit + 2 ^ 32 * seq.toNat) ++
    bytesOf 8 r.job.toNat ++ bytesOf 8 (r.va % 2 ^ 57) ++
    bytesOf 8 (r.clause % 2 ^ 57 / 4 * 4 + 2 ^ 60 * (r.idx % 16)) ++
    bytesOf 8 r.lanes.toNat ++ bytesOf 8 r.done.toNat ++
    bytesOf 8 (r.entry % 2 ^ 57 / 8 * 8 + r.level % 8) ++ bytesOf 8 r.detail.toNat

namespace State

/-- The ring of a fault queue has room, and EN is 1 (R98). -/
def recordRoom (q : FaultQueue) : Bool := q.en && decide ((q.tail - q.head).toNat < 2 ^ q.log2n.toNat)

/-- Where the next record of a tenant goes, or the ERR with which its write is not made (R98, R103): 6 for host memory
outside the egress windows, be it the ring's or a table entry of its walk (notes/assumptions/31.md), else 7. -/
def recordPlace (s : State) (t : Nat) : Except (BitVec 4) Nat :=
  let q := (s.tenant t).fq
  let a := slice q.base 56 12 * 4096 + 64 * (q.tail.toNat % 2 ^ q.log2n.toNat)
  if (windowOf a).1 ≠ .global then .error 7
  else
    match s.walk t a with
    | .error e => .error (if e.cause = 0x17 then 6 else 7)
    | .ok (e, level) =>
      let l := s.locOf e level a
      if (leafDenied { write := true, fetch := false } e).isSome || l.home != .host then .error 7
      else if !s.hostAllowed t (hostAddr l.place) 64 then .error 6
      else .ok l.place

/-- Units of host memory that the write of a tenant's next record costs: the record and its walk (R103). -/
def recordUnits (s : State) (t : Nat) : Nat :=
  let q := (s.tenant t).fq
  1 + s.walkUnits t (slice q.base 56 12 * 4096 + 64 * (q.tail.toNat % 2 ^ q.log2n.toNat))

/-- Where a record can be written now: the ring has room, its page can be written, and the HOST budget covers it (R98,
R103). -/
def recordReady (s : State) (t : Nat) : Option Nat :=
  if recordRoom (s.tenant t).fq && s.affordsHost t (s.recordUnits t) then (s.recordPlace t).toOption else none

/-- A record written at a place of the ring: the record, FQTAIL, vector 0 (R98). -/
def storeRecord (s : State) (t p : Nat) (r : Record) : State :=
  let s := (s.chargeUnits t (s.recordUnits t)).setBytes p (recordBytes r (s.tenant t).fq.tail)
  (s.modFq t fun q => { q with tail := q.tail + 1, blocked := false, outside := false }).signal (t + 1) 0

end State

end Sys2Proof.Machine
end

