-- ==== Sys2Proof/Machine/Memory.lean ====
section
/-! DEFINITION. Store buffers, L1 lines, the dirty-line FIFO, homes, engine ownership, guarded writes, releases and
acquires of one core (R186 to R189, R195, R201, R207, R211, R219, R265). A group's loads see its own buffered and held
stores first. -/

namespace Sys2Proof.Machine

/-- The group identifier of accesses that no group makes: those of packets and of Tarragon. -/
def noGroup : Nat := 2 ^ 20

/-- A byte at a peer, as a place of its own: hold buffers keep local and remote stores together. -/
def peerPlace (p a : Nat) : Nat := 2 ^ 63 + p * 2 ^ 46 + a

/-- The place that names a translated byte among local and remote ones. -/
def Loc.key (l : Loc) : Nat :=
  match l.home with
  | .peer p => peerPlace p l.place
  | _ => l.place

/-- Where a place lives (R185). -/
def placeHome (p : Nat) : Home :=
  if 2 ^ 63 ≤ p then .peer ((p - 2 ^ 63) / 2 ^ 46)
  else if 2 ^ 62 ≤ p then .image
  else if 2 ^ 61 ≤ p then .spad
  else if 2 ^ 60 ≤ p then .host
  else if State.pewBase ≤ p then .pewter
  else if 2 ^ 40 ≤ p then .vault
  else .hbm

/-- A place's own address at its home. -/
def placeAddr (p : Nat) : Nat := if 2 ^ 63 ≤ p then (p - 2 ^ 63) % 2 ^ 46 else p

/-- A line that an L1 may cache (R186). -/
def cacheable (h : Home) : Bool := h == .hbm || h == .pewter

/-- A line with nothing valid. -/
def Line.empty : Line := { data := 0, valid := 0, dirty := 0 }

/-- Byte `i` of a line. -/
def Line.byte (l : Line) (i : Nat) : Byte := BitVec.ofNat 8 (l.data.toNat / 2 ^ (8 * i))

/-- Byte `i` of a line replaced. -/
def Line.setByte (l : Line) (i : Nat) (b : Byte) : Line :=
  let keep := l.data &&& ~~~(BitVec.ofNat 512 (255 * 2 ^ (8 * i)))
  { l with data := keep ||| BitVec.ofNat 512 (b.toNat * 2 ^ (8 * i)), valid := l.valid ||| laneBit i }

/-- Scopes at which a strong access is performed at the home (R195): `multi` says that the block has several parts. -/
def scopeWide (multi : Bool) : Scope → Bool
  | .blk => multi
  | .coh | .dev | .pod => true
  | _ => false

/-- Runs of consecutive places within one line, from bytes in address order. -/
def runsOf : List (Loc × Byte) → List (Loc × List Byte)
  | [] => []
  | (l, b) :: rest =>
    match runsOf rest with
    | [] => [(l, [b])]
    | (m, bs) :: more =>
      if m.place = l.place + 1 ∧ m.home = l.home ∧ m.place % 64 ≠ 0 then (l, b :: bs) :: more
      else (l, [b]) :: (m, bs) :: more

namespace State

/-! ### Bank roles (R189, R190) -/

/-- The bank roles are set (R189). -/
def rolesSet (s : State) (c : Nat) : Bool := (s.core c).comm && (s.core c).bankrole != 0

/-- Role of a bank under %bankrole (R190). -/
def roleOf (v : DWord) (k : Nat) : Nat := slice v (2 * k + 1) (2 * k)

/-- Scratchpad granules of a core that resident parts hold. -/
def heldGranules (s : State) (c : Nat) : List Nat := (s.blocksOn c).flatMap fun b => b.2.spad

/-- Banks that serve the L1 (R189). -/
def cacheBanks (s : State) (c : Nat) : List Nat :=
  if s.rolesSet c then (List.range 32).filter fun k => roleOf (s.core c).bankrole k == 0
  else (List.range 32).filter fun k => !(s.heldGranules c).any fun g => g / 4 == k

/-- The core's L1 holds lines (R187). -/
def hasCache (s : State) (c : Nat) : Bool := s.cacheBanks c != []

/-! ### Homes -/

/-- The key of a Pewter line is the reader's current one, or none was recorded (R108, R109); while a rotation runs nothing
written before is readable (R29). -/
def keyFits (s : State) (t line : Nat) : Bool :=
  match Map.find s.pewKey line with
  | none => true
  | some k => !(s.tenant t).erasing && k.1 == t && k.2 == (s.tenant t).epoch.toNat

/-- `n` free bytes. -/
def freeBytes : Nat → State → State × List Byte
  | 0, s => (s, [])
  | n + 1, s =>
    let r := s.free
    let q := freeBytes n r.1
    (q.1, r.2.setWidth 8 :: q.2)

/-- The 64 bytes of a line at its home, as a tenant reads them. -/
def homeLine (s : State) (t line : Nat) : State × List Byte :=
  if s.keyFits t line then (s, s.bytesAt (64 * line) 64) else freeBytes 64 s

/-- A Pewter line that is about to be written under a tenant's current key (R108). -/
def rekey (s : State) (t line : Nat) : State :=
  if pewterFrame (64 * line) then
    let s := if s.keyFits t line then s else (let r := freeBytes 64 s; r.1.setBytes (64 * line) r.2)
    { s with pewKey := Map.put line (t, (s.tenant t).epoch.toNat) s.pewKey }
  else s

/-- Bytes of the unit of poison that holds a place (R264). -/
def unitSize (a : Nat) : Nat :=
  if 2 ^ 61 + 2 ^ 31 ≤ a ∧ a < 2 ^ 62 then 4 else if 2 ^ 61 + 2 ^ 30 ≤ a ∧ a < 2 ^ 62 then 256 else 64

/-- A write of bytes that lie in one unit, at the home, by tenant `t`: a write of the whole unit clears its poison
(R265). -/
def homeWrite (s : State) (t a : Nat) (bs : List (Option Byte)) : State :=
  let s := (s.rekey t (a / 64)).setSome a bs
  if decide (unitSize a ≤ bs.length) && bs.all (·.isSome) then s.clearPoison a else s

/-- Bytes that lie in one unit of poison written where no tenant's key applies (R265). -/
def putUnit (s : State) (a : Nat) (bs : List Byte) : State :=
  let s := s.setBytes a bs
  if unitSize a ≤ bs.length then s.clearPoison a else s

/-! ### Own stores -/

/-- The byte that a group's latest store to a place left in the store buffer or the hold buffer. -/
def ownByte (s : State) (g : Nat) (key : Nat) : Option Byte :=
  let hit (p : Nat) (bs : List (Option Byte)) : Option Byte :=
    if p ≤ key ∧ key < p + bs.length then (bs.getD (key - p) none) else none
  let fromBuf := (s.core (coreOf g)).store.foldl (fun (acc : Option Byte) e =>
    if e.gid = g then (hit e.place (e.bytes.map some)).or acc else acc) none
  let fromHold := (s.group g).iss.held.foldl (fun (acc : Option Byte) e => (hit e.place e.bytes).or acc) none
  fromBuf.or fromHold

/-- The byte that an engine acting for a group reads: the group's own stores, the core's dirty bytes, the home. -/
def engineByte (s : State) (g t : Nat) (p : Nat) : State × Byte :=
  match s.ownByte g p with
  | some b => (s, b)
  | none =>
    let l := Map.get Line.empty (s.core (coreOf g)).l1 (p / 64)
    if l.dirty.getLsbD (p % 64) then (s, l.byte (p % 64))
    else if s.keyFits t (p / 64) then (s, s.byteAt p)
    else (let r := freeBytes 1 s; (r.1, r.2.headD 0))

/-- Several bytes as an engine reads them. -/
def engineBytes (s : State) (g t : Nat) : Nat → Nat → State × List Byte
  | _, 0 => (s, [])
  | p, n + 1 =>
    let r := s.engineByte g t p
    let q := r.1.engineBytes g t (p + 1) n
    (q.1, r.2 :: q.2)

/-! ### Guarded lines (R219) -/

/-- The bytewise XOR of two byte strings. -/
def xorBytes (x y : List Byte) : List Byte := List.zipWith (fun a b => a ^^^ b) x y

/-- A group's write of a guarded row is one whose parity member SFENCE looks at (R220). -/
def coverParity (s : State) (g t i row : Nat) : State :=
  s.modOps g fun o => { o with covered := ((i, parityOf (s.stripe t i) row) :: o.covered).eraseDups }

/-- A write to a guarded data line at its home: the line is written, and its delta goes to the row's parity holder. The
delta's answer goes to a group, or to a waiting reply (R219, R83). A write that finds its line frozen since its checks is
not performed, which SFENCE reports (R220). -/
def guardedStore (s : State) (t i row : Nat) (a : Nat) (bs : List (Option Byte)) (gid : Nat)
    (reply : Option (Packet × Nat)) : State :=
  let line := a / 64
  let k := s.stripe t i
  if k.lostv || spareClosed k || parityOf k row == k.myidx.toNat then
    s.modOps gid fun o => { o with sfence := o.sfence ||| 2 }
  else
  let old := s.bytesAt (64 * line) 64
  let s := s.homeWrite t a bs
  let new := s.bytesAt (64 * line) 64
  let holder := memberPeer k (parityOf k row)
  let r := s.takeTag { typ := 14, dst := BitVec.ofNat 12 holder, vcn := t, addr := 64 * line,
                       errand := .delta t i gid reply, first := none }
  let s := r.1.request 14 2 t holder r.2 (64 * line) (xorBytes old new)
  if reply.isSome then s
  else (s.modOps gid fun o => { o with deltas := o.deltas + 1 }).coverParity gid t i row

/-- The stripe and row of a place that a write by tenant `t` reaches, where it is guarded (R218). -/
def guardAt (s : State) (t a : Nat) : Option (Nat × Nat) := if placeHome a = .hbm then s.guardOf t a else none

/-- A group writes a line at other devices: where it is guarded, by this device's own descriptors, its row is covered by the
group's SFENCE (R220, R350). -/
def coverRow (s : State) (g a : Nat) : State :=
  let t := (s.group g).tenant
  match s.guardAt t a with
  | some (i, row) => s.coverParity g t i row
  | none => s

/-! ### Engine ownership (R207, R208) -/

/-- A line leaves a core's L1. -/
def dropLine (s : State) (c line : Nat) : State :=
  s.modCore c fun k => { k with l1 := Map.del line k.l1, fifo := k.fifo.erase line }

/-- A line of which a core holds a poisoned copy, or whose home is poisoned (R264). -/
def spoiltFor (s : State) (c p n : Nat) : Bool :=
  s.anyPoison p n || (Map.get Line.empty (s.core c).l1 (p / 64)).bad

/-- A place of which the engines read whole lines (R208). -/
def lineSource (p : Nat) : Bool := match placeHome p with | .spad | .image => false | _ => true

/-- One piece of a copy with its bytes read now; `src` then names a poisoned unit among them, or is 0. -/
def readSeg (s : State) (c : Nat) (k : Copy) (seg : CopySeg) : State × CopySeg :=
  match seg.lit with
  | some _ => (s, seg)
  | none =>
    let r := s.engineBytes k.gid (s.group k.gid).tenant seg.src seg.len
    (r.1, { seg with lit := some r.2, src := if s.spoiltFor c seg.src seg.len then seg.src else 0 })

/-- Every piece of a copy that comes from one of some source lines is read at this instant: a line read from a home is
read whole (R208). -/
def latchSources (s : State) (c id : Nat) (lines : List Nat) : State :=
  match (s.core c).copies.find? fun k => k.id == id with
  | none => s
  | some k =>
    let r := k.segs.foldl (fun (r : State × List CopySeg) g =>
      if g.lit.isNone && lineSource g.src && lines.contains (g.src / 64) then
        let q := r.1.readSeg c k g
        (q.1, r.2 ++ [q.2])
      else (r.1, r.2 ++ [g])) (s, [])
    r.1.modCore c fun x => { x with copies := x.copies.map fun (y : Copy) => if y.id = id then { y with segs := r.2 } else y }

/-- The engine writes one piece of a copy; poison travels with the data (R265), and a guarded line's delta follows it
(R219). -/
def writeSeg (s : State) (c : Nat) (k : Copy) (seg : CopySeg) : State :=
  let t := (s.group k.gid).tenant
  let r := s.readSeg c k seg
  let bs := r.2.lit.getD []
  let s := match r.1.guardAt t seg.dst with
    | some (i, row) => r.1.guardedStore t i row seg.dst (bs.map some) k.gid none
    | none => r.1.homeWrite t seg.dst (bs.map some)
  let s := if r.2.src != 0 then s.addPoison seg.dst else s
  if cacheable (placeHome seg.dst) then s.dropLine c (seg.dst / 64) else s

/-- The completion check of an async barrier object (R362). -/
def barCheck (s : State) (p : Nat) : State :=
  if s.numAt (p + 8) 2 = 0 ∧ s.numAt p 8 = 0 then
    (s.setNum (p + 12) 4 (s.numAt (p + 12) 4 + 1)).setNum (p + 8) 2 (s.numAt (p + 10) 2)
  else s

/-- A change of TCOUNT, and the check (R193, R362). -/
def barAdd (s : State) (p : Nat) (d : Int) : State :=
  (s.setNum p 8 (wrapInt 64 (signedOf 64 (s.numAt p 8) + d))).barCheck p

/-- `n` bytes delivered against a barrier, one by one: a phase that they complete part way ends there (R193, R362). -/
def barBytes (s : State) (p n : Nat) : State :=
  let t := signedOf 64 (s.numAt p 8)
  if s.numAt (p + 8) 2 = 0 ∧ 0 < t ∧ t < n then (s.barAdd p (-t)).barAdd p (t - n) else s.barAdd p (-(n : Int))

/-- The pieces of copy `id` in `line` are gone, and a copy with nothing left with them, but for one that has failed. -/
def dropPieces (id line : Nat) (ks : List Copy) : List Copy :=
  let one := fun (y : Copy) =>
    if y.id = id then { y with segs := y.segs.filter fun g => g.dst / 64 != line, lines := y.lines.erase line } else y
  (ks.map one).filter fun y => y.failed || y.segs != []

/-- Source lines of the pieces of a copy that lie in one destination line. -/
def sourcesOf (k : Copy) (line : Nat) : List Nat :=
  ((k.segs.filter fun g => g.dst / 64 == line && g.lit.isNone && lineSource g.src).map fun g => g.src / 64).eraseDups

/-- The engine writes every piece of a copy in one destination line, releases the line, and counts the bytes; a copy
with nothing left is complete (R192, R207, R362). Source lines that other operations own are recalled first, by
`fetch`. -/
def writeLineBy (fetch : State → Nat → State) (s : State) (c id line : Nat) : State :=
  match (s.core c).copies.find? fun k => k.id == id with
  | none => s
  | some k =>
    let ls := sourcesOf k line
    let s := (ls.filter fun l => !k.lines.contains l).foldl fetch s
    let s := s.latchSources c id ls
    match (s.core c).copies.find? fun k => k.id == id with
    | none => s
    | some k =>
      let now := k.segs.filter fun g => g.dst / 64 == line
      let s := now.foldl (fun s g => s.writeSeg c k g) s
      let s := s.modCore c fun x => { x with copies := dropPieces id line x.copies }
      let s := if k.lines.contains line then { s with owned := s.owned.erase line } else s
      match k.barrier with
      | some p => s.barBytes p (now.map (·.len)).sum
      | none => s

/-- Every engine that owns a line completes it, and ownership is released (R207); `fuel` bounds chains of owners that read
each other's lines (notes/assumptions/48.md). -/
def recallBy : Nat → State → Nat → State
  | 0, s, _ => s
  | fuel + 1, s, line =>
    if s.owned.contains line then
      let s := (Map.keys s.cores).foldl (fun s c =>
        (s.core c).copies.foldl (fun s k => if k.lines.contains line then s.writeLineBy (recallBy fuel) c k.id line else s) s) s
      { s with owned := s.owned.erase line }
    else s

/-- The recall of an owned line (R207). -/
def recallLine (s : State) (line : Nat) : State := recallBy 8 s line

/-- One destination line of a copy written. -/
def writeLine (s : State) (c id line : Nat) : State := s.writeLineBy (recallBy 8) c id line

/-! ### Races with the engines (R208, R340) -/

/-- The pieces of a copy before, at and after the aligned word at `w`. -/
def splitSeg (g : CopySeg) (w : Nat) : List CopySeg × List CopySeg :=
  let cutTo (a b : Nat) : List CopySeg :=
    if b ≤ a then []
    else
      [{ src := if g.lit.isSome then g.src else g.src + (a - g.dst), lit := g.lit.map fun bs => (bs.drop (a - g.dst)).take (b - a),
         dst := a, len := b - a }]
  let lo := max g.dst w
  let hi := min (g.dst + g.len) (w + 4)
  (cutTo g.dst lo ++ cutTo hi (g.dst + g.len), cutTo lo hi)

/-- A piece touches the aligned word at `w`. -/
def touchesWord (w : Nat) (g : CopySeg) : Bool := decide (g.dst < w + 4) && decide (w < g.dst + g.len)

/-- The engine writes the pieces of a copy in one aligned word before the rest; source lines that other operations own are
recalled first (R207). -/
def writeWord (s : State) (c id w : Nat) : State :=
  match (s.core c).copies.find? fun k => k.id == id with
  | none => s
  | some k =>
    let ls := ((k.segs.filter fun g => touchesWord w g && g.lit.isNone && lineSource g.src).map fun g => g.src / 64).eraseDups
    let s := (ls.filter fun l => !k.lines.contains l).foldl recallLine s
    let s := s.latchSources c id ls
    match (s.core c).copies.find? fun k => k.id == id with
    | none => s
    | some k =>
      let cuts := (k.segs.filter (touchesWord w)).map fun g => splitSeg g w
      let now := cuts.flatMap (·.2)
      let rest := (k.segs.filter fun g => !touchesWord w g) ++ cuts.flatMap (·.1)
      let s := now.foldl (fun s g => s.writeSeg c k g) s
      let s := s.modCore c fun x =>
        { x with copies := (x.copies.map fun (y : Copy) => if y.id = id then { y with segs := rest } else y).filter fun y =>
            y.failed || y.segs != [] }
      match k.barrier with
      | some p => s.barBytes p (now.map (·.len)).sum
      | none => s

/-- Copies that have still to write bytes of an aligned word that no engine owns: core and identifier. -/
def racers (s : State) (w : Nat) : List (Nat × Nat) :=
  s.cores.flatMap fun c => (c.2.copies.filter fun k => !k.lines.contains (w / 64) && k.segs.any (touchesWord w)).map fun k =>
    (c.1, k.id)

/-- A thread accesses a place that no engine owns: whether a copy under way has written the aligned 4 bytes yet is a free
value (R208). -/
def raceWord (s : State) (w : Nat) : State :=
  (s.racers w).foldl (fun s k =>
    let r := s.free
    if r.2.getLsbD 0 then r.1.writeWord k.1 k.2 w else r.1) s

/-- Races of the aligned words that some places lie in. -/
def raceAt (s : State) (places : List Nat) : State :=
  if s.cores.all fun c => c.2.copies == [] then s
  else ((places.map fun p => p / 4 * 4).eraseDups).foldl (fun s w => s.raceWord w) s

/-- Races of the aligned words of an operand slot that copies under way write (R340). -/
def raceSlot (s : State) (core slot : Nat) : State :=
  let lo := tilePlace core slot 0
  let words (g : CopySeg) : List Nat :=
    if decide (lo ≤ g.dst) && decide (g.dst < lo + 65536) then
      (List.range ((g.dst % 4 + g.len + 3) / 4)).map fun i => g.dst / 4 * 4 + 4 * i
    else []
  ((s.cores.flatMap fun c => c.2.copies.flatMap fun k => k.segs.flatMap words).eraseDups).foldl (fun s w => s.raceWord w) s

/-! ### Races between groups (R340) -/

/-- Groups of a part that have not exited are several: one may read what another writes without a barrier. -/
def shared (s : State) (b : Block) : Bool := decide (1 < (b.groups.filter fun h => (s.group h).park != .draining).length)

/-- A write of `len` bytes of a slot or quarter-tile of a block part is noted, before it is made; of the writes of one place by
one writer the last counts (notes/assumptions/64.md). -/
def noteSlot (s : State) (key place len gid : Nat) (op : Option Nat) : State :=
  let e : SlotWrite := { place, old := s.bytesAt place len, gid, op }
  s.modBlock key fun b =>
    { b with recent := e :: b.recent.filter fun x =>
        !(x.place == place && x.old.length == len && x.gid == gid && x.op == op) }

/-- A group is about to write `len` bytes of a slot or quarter-tile: other groups of its part read old or new there until a
barrier (R340). -/
def noteWrite (s : State) (g place len : Nat) : State :=
  match s.blockOf g with
  | none => s
  | some b => if s.shared b then s.noteSlot (s.group g).block place len g none else s

/-- An engine operation is about to write a row of a slot: every group reads old or new there until the operation is complete
(R340, R392, R397). -/
def noteEngine (s : State) (core slot op place len : Nat) : State :=
  match s.blocks.find? fun b => b.2.core == core && b.2.tiles.contains slot with
  | none => s
  | some b => s.noteSlot b.1 place len 0 (some op)

/-- An engine operation is complete: what it wrote is seen. -/
def forgetOp (s : State) (op : Nat) : State :=
  { s with blocks := s.blocks.map fun (b : Nat × Block) => (b.1, { b.2 with recent := b.2.recent.filter fun e => e.op != some op }) }

/-- Groups have met at a block barrier: each sees what the others wrote (R340, R364). -/
def meetSlots (s : State) (g : Nat) : State :=
  s.modBlock (s.group g).block fun b => { b with recent := b.recent.filter fun e => e.op.isSome }

/-- Aligned words of a noted write. -/
def notedWords (e : SlotWrite) : List Nat := (List.range (e.old.length / 4)).map fun i => e.place + 4 * i

/-- The bytes of a part's slots as a group may see them: in each aligned word that another wrote since the group's own last
write there, what stood before or what stands (R340). The first state takes the free values, the second holds the view. -/
def viewBy (g : Nat) (inside : Nat → Bool) : List SlotWrite → List (Nat × Nat) → State × State → State × State
  | [], _, r => r
  | e :: es, own, r =>
    if e.op.isNone && e.gid == g then viewBy g inside es ((e.place, e.old.length) :: own) r
    else
      viewBy g inside es own ((notedWords e).foldl (fun (r : State × State) w =>
        if inside w && !own.any fun k => decide (k.1 ≤ w) && decide (w < k.1 + k.2) then
          let f := r.1.free
          (f.1, if f.2.getLsbD 0 then r.2.setBytes w ((e.old.drop (w - e.place)).take 4) else r.2)
        else r) r)

/-- The state with free values taken, and the state as a group sees the words of its slots that a test names (R340). -/
def viewFor (s : State) (g : Nat) (inside : Nat → Bool) : State × State :=
  match s.blockOf g with
  | none => (s, s)
  | some b =>
    if b.recent = [] then (s, s)
    else
      let r := viewBy g inside b.recent [] (s, s)
      (r.1, { r.1 with mem := r.2.mem })

/-- A place lies in an operand slot of a core. -/
def inSlot (core slot p : Nat) : Bool := decide (tilePlace core slot 0 ≤ p) && decide (p < tilePlace core (slot + 1) 0)

/-- A place lies in a quarter-tile of a core. -/
def inAcc (core q p : Nat) : Bool := decide (accPlace core q 0 0 ≤ p) && decide (p < accPlace core (q + 1) 0 0)

/-- A slot as a group sees it while engines and other groups write it (R208, R340). -/
def slotView (s : State) (g core slot : Nat) : State × State := (s.raceSlot core slot).viewFor g (inSlot core slot)

/-! ### L1 and the dirty-line FIFO (R186, R187) -/

/-- The bytes of a line that are dirty, as a masked write. -/
def dirtyBytes (l : Line) : List (Option Byte) :=
  (List.range 64).map fun i => if l.dirty.getLsbD i then some (l.byte i) else none

/-- A line's dirty bytes written back to the home, with their delta where the line has come to be guarded (R219); the line
stays, clean (R186). Poison goes with them (R265). -/
def writeBack (s : State) (c line : Nat) : State :=
  match Map.find (s.core c).l1 line with
  | none => s
  | some l =>
    if l.dirty = 0 then s
    else
      let t := (s.ownerOf c).getD 0
      let s := s.recallLine line
      let s := match s.guardAt t (64 * line) with
        | some (i, row) => s.guardedStore t i row (64 * line) (dirtyBytes l) noGroup none
        | none => s.homeWrite t (64 * line) (dirtyBytes l)
      let s := if l.bad then s.addPoison (64 * line) else s
      s.modCore c fun k =>
        { k with l1 := (Map.modify Line.empty (fun (x : Line) => { x with dirty := 0 }) k.l1 line),
                 fifo := k.fifo.erase line }

/-- The whole FIFO drained (R195). -/
def drainFifo (s : State) (c : Nat) : State := (s.core c).fifo.foldl (fun s line => s.writeBack c line) s

/-- Every clean byte of global-window lines invalidated (R195). -/
def invalidate (s : State) (c : Nat) : State :=
  s.modCore c fun k =>
    { k with l1 := (k.l1.filter fun e => e.2.dirty != 0).map fun e => (e.1, { e.2 with valid := e.2.dirty }) }

/-- A line fetched from the home: bytes not valid are filled (R186). -/
def fill (s : State) (c t line : Nat) : State :=
  let s := s.recallLine line
  let r := s.homeLine t line
  r.1.modCore c fun k =>
    let old := Map.get Line.empty k.l1 line
    let new := (List.range 64).foldl (fun (l : Line) i =>
      if old.valid.getLsbD i then l else l.setByte i (r.2.getD i 0)) old
    let bad := (old.bad && old.valid != 0) || (s.keyFits t line && s.poisoned (64 * line))
    { k with l1 := Map.put line { new with bad } k.l1 }

/-- The L1 copy of bytes just performed at the home is updated and clean (R186, R195). -/
def updateCopy (s : State) (c a : Nat) (bs : List Byte) : State :=
  match Map.find (s.core c).l1 (a / 64) with
  | none => s
  | some l =>
    let new := (List.range bs.length).foldl (fun (l : Line) i =>
      let l := l.setByte (a % 64 + i) (bs.getD i 0)
      { l with dirty := l.dirty &&& ~~~(laneBit (a % 64 + i)), bad := l.bad && bs.length != 64 }) l
    s.modCore c fun k =>
      { k with l1 := Map.put (a / 64) new k.l1, fifo := if new.dirty = 0 then k.fifo.erase (a / 64) else k.fifo }

/-- A store into the L1: the line becomes dirty and enters the FIFO, whose head gives way when it is full (R187). -/
def writeL1 (s : State) (c t a : Nat) (bs : List Byte) : State :=
  let line := a / 64
  let s := if (Map.find (s.core c).l1 line).isNone then s.fill c t line else s
  let l := Map.get Line.empty (s.core c).l1 line
  let s :=
    if l.dirty = 0 then
      let s :=
        if Config.fifoDepth ≤ (s.core c).fifo.length then
          match (s.core c).fifo with
          | [] => s
          | h :: _ => s.writeBack c h
        else s
      s.modCore c fun k => { k with fifo := k.fifo ++ [line] }
    else s
  let new := (List.range bs.length).foldl (fun (l : Line) i =>
    let l := l.setByte (a % 64 + i) (bs.getD i 0)
    { l with dirty := l.dirty ||| laneBit (a % 64 + i), bad := l.bad && bs.length != 64 }) (Map.get Line.empty (s.core c).l1 line)
  s.modCore c fun k => { k with l1 := Map.put line new k.l1 }

/-! ### Writes at the home (R219) -/

/-- A local write performed at its home, guarded or not. -/
def performHome (s : State) (t a : Nat) (bs : List Byte) (gid : Nat) : State :=
  let s := s.recallLine (a / 64)
  match s.guardAt t a with
  | some (i, row) => s.guardedStore t i row a (bs.map some) gid none
  | none => s.homeWrite t a (bs.map some)

/-! ### The store buffer (R186, R195) -/

/-- A store leaves the store buffer. -/
def performStore (s : State) (c : Nat) (e : BufStore) : State :=
  let t := (s.group e.gid).tenant
  if e.home || (s.guardAt t e.place).isSome || !cacheable (placeHome e.place) || !s.hasCache c then
    (s.performHome t e.place e.bytes e.gid).updateCopy c e.place e.bytes
  else s.writeL1 c t e.place e.bytes

/-- Two byte ranges overlap. -/
def overlaps (a n b m : Nat) : Bool := decide (a < b + m) && decide (b < a + n)

/-- A store of a buffer goes before a later one of its group: to the same line (R197), strict before strict (R214), and in
the order of pushes to one store queue (R171). -/
def goesBefore (x y : BufStore) : Bool :=
  x.gid == y.gid && (x.place / 64 == y.place / 64 || (x.strict && y.strict) || (x.queue != 0 && x.queue == y.queue))

/-- The stores of a buffer, each with whether it leaves with those that satisfy a test: itself one of them, or to go
before one that leaves. -/
def leaving (p : BufStore → Bool) : List BufStore → List (BufStore × Bool)
  | [] => []
  | x :: xs =>
    let rest := leaving p xs
    (x, p x || rest.any fun y => y.2 && goesBefore x y.1) :: rest

/-- The stores of a buffer that a list of choices lets go leave it, in order. -/
def drainChosen (s : State) (c : Nat) (xs : List (BufStore × Bool)) : State :=
  let s := s.modCore c fun k => { k with store := (xs.filter fun x => !x.2).map (·.1) }
  ((xs.filter (·.2)).map (·.1)).foldl (fun s e => s.performStore c e) s

/-- The entries of a store buffer that satisfy a test leave it, in order, and with them those that go before them. -/
def drainWhere (s : State) (c : Nat) (p : BufStore → Bool) : State := s.drainChosen c (leaving p (s.core c).store)

/-- Every store of a group leaves the store buffer (R195). -/
def drainGroup (s : State) (g : Nat) : State := s.drainWhere (coreOf g) fun e => e.gid == g

/-- The stores of a group that touch a line leave the store buffer. -/
def drainLine (s : State) (g line : Nat) : State :=
  s.drainWhere (coreOf g) fun e => e.gid == g && e.place / 64 == line

/-- The k-th store of a core leaves its buffer, and with it those that go before it (R171, R197, R214). -/
def drainNth (s : State) (c k : Nat) : State :=
  match (s.core c).store[k]? with
  | none => s
  | some e =>
    let xs := (s.core c).store
    s.drainChosen c (leaving (fun x => x == e) (xs.take (k + 1)) ++ (xs.drop (k + 1)).map fun x => (x, false))

/-- Before a strict store that is performed at once: the group's earlier strict stores (R214). -/
def drainStrict (s : State) (g : Nat) (strict : Bool) : State :=
  if strict then s.drainWhere (coreOf g) fun e => e.gid == g && e.strict else s

/-- Before a push that is performed at once: the group's earlier pushes to the same store queue (R171). -/
def drainPushes (s : State) (g queue : Nat) : State :=
  if queue = 0 then s else s.drainWhere (coreOf g) fun e => e.gid == g && e.queue == queue

/-- A store of a run of bytes in one line by a group: at once in windows without a cache, through the store buffer
otherwise; `wide` performs it at the home at once (R186, R195). `queue` names the store queue that it was pushed to. -/
def storeRun (s : State) (g : Nat) (l : Loc) (bs : List Byte) (wide : Bool) (queue : Nat := 0) : State :=
  let c := coreOf g
  let t := (s.group g).tenant
  let s := match l.home with
    | .spad | .vault => s.raceAt ((List.range bs.length).map fun i => l.place + i)
    | _ => s
  match l.home with
  | .spad | .image => (s.drainPushes g queue).putUnit l.place bs
  | _ =>
    let guarded := if l.home = .hbm then s.guardOf t l.place else none
    if wide then
      let s := ((s.drainLine g (l.place / 64)).drainStrict g l.strict).drainPushes g queue
      let s := s.writeBack c (l.place / 64)
      (s.performHome t l.place bs g).updateCopy c l.place bs
    else
      s.modCore c fun k =>
        { k with store := k.store ++ [{ gid := g, place := l.place, bytes := bs,
                                        home := guarded.isSome || l.strict || !cacheable l.home, strict := l.strict,
                                        guarded := guarded.map fun x => (t, x.1), queue }] }

/-! ### Loads -/

/-- A line made ready for a strong access at the home: the group's stores to it and the core's dirty bytes go home
first. -/
def settleLine (s : State) (g line : Nat) : State :=
  ((s.drainLine g line).writeBack (coreOf g) line).recallLine line

/-- One byte as a group's load sees it, and whether it is poisoned. The line has been fetched. -/
def seenByte (s : State) (g : Nat) (l : Loc) : Byte × Bool :=
  match s.ownByte g l.key with
  | some b => (b, false)
  | none =>
    if cacheable l.home then
      let k := Map.get Line.empty (s.core (coreOf g)).l1 (l.place / 64)
      if k.valid.getLsbD (l.place % 64) then (k.byte (l.place % 64), k.bad)
      else (s.byteAt l.place, s.poisoned l.place)
    else (s.byteAt l.place, s.poisoned l.place)

/-- The lines of a list of bytes that an L1 may hold. -/
def cacheLines (ls : List Loc) : List Nat := ((ls.filter fun l => cacheable l.home).map fun l => l.place / 64).eraseDups

/-- The lines of a list of bytes that no L1 caches and that a store buffer may hold stores to: vault and host lines. -/
def plainLines (ls : List Loc) : List Nat :=
  ((ls.filter fun l => l.home == .vault || l.home == .host).map fun l => l.place / 64).eraseDups

/-- What a load does before its bytes are read: a wide strong load reads the home and refreshes the L1 copy; another
one fetches the lines it misses. Lines that an engine owns are recalled (R207). -/
def fetchFor (s : State) (g : Nat) (ls : List Loc) (wide : Bool) : State :=
  let c := coreOf g
  let t := (s.group g).tenant
  let s := s.raceAt ((ls.filter fun l => l.home == .spad || l.home == .vault).map (·.place))
  let s := (plainLines ls).foldl (fun s line => (if wide then s.drainLine g line else s).recallLine line) s
  (cacheLines ls).foldl (fun s line =>
    if wide then
      let s := (s.settleLine g line).dropLine c line
      s.fill c t line
    else
      let k := Map.get Line.empty (s.core c).l1 line
      if ls.all fun l => l.place / 64 != line || k.valid.getLsbD (l.place % 64) || (s.ownByte g l.key).isSome then s
      else s.fill c t line) s

/-- Without a bank in cache role, the L1 keeps nothing (R187). -/
def shedCache (s : State) (g : Nat) (ls : List Loc) : State :=
  if s.hasCache (coreOf g) then s
  else (cacheLines ls).foldl (fun s line => (s.writeBack (coreOf g) line).dropLine (coreOf g) line) s

/-- The value of local bytes as a group's load reads them, and whether any byte read is poisoned. -/
def loadBytes (s : State) (g : Nat) (ls : List Loc) (wide : Bool) : State × List Byte × Bool :=
  let s := s.fetchFor g ls wide
  let vs := ls.map fun l => s.seenByte g l
  (s.shedCache g ls, vs.map (·.1), vs.any (·.2))

/-! ### Atomics (R205) -/

/-- An atomic on local bytes: the bytes read, through the L1 or at the home, and poison. -/
def atomicRead (s : State) (g : Nat) (ls : List Loc) (wide : Bool) : State × List Byte × Bool :=
  let s := (cacheLines ls ++ plainLines ls).foldl (fun s line => s.drainLine g line) s
  let s := s.drainStrict g (ls.any (·.strict))
  let guarded := ls.any fun l => l.home == .hbm && (s.guardOf (s.group g).tenant l.place).isSome
  s.loadBytes g ls (wide || guarded || ls.any (·.strict))

/-- An atomic's new value stored where it was read (R205). -/
def atomicWrite (s : State) (g : Nat) (ls : List Loc) (bs : List Byte) (wide : Bool) : State :=
  let c := coreOf g
  let t := (s.group g).tenant
  (runsOf (ls.zip bs)).foldl (fun s r =>
    if r.1.home = .spad ∨ r.1.home = .image then s.putUnit r.1.place r.2
    else
      let guarded := r.1.home == .hbm && (s.guardOf t r.1.place).isSome
      if wide || guarded || r.1.strict || !cacheable r.1.home || !s.hasCache c then
        (s.performHome t r.1.place r.2 g).updateCopy c r.1.place r.2
      else s.writeL1 c t r.1.place r.2) s

/-! ### Releases and acquires (R195) -/

/-- The block of a group has several parts. -/
def multiPart (s : State) (g : Nat) : Bool :=
  match s.blockOf g with
  | none => false
  | some b => decide (1 < coresPerBlock (threadsOf (s.event b.job).record))

/-- The local part of a release (R195). -/
def releaseLocal (s : State) (g : Nat) (sc : Scope) : State :=
  match sc with
  | .none | .grp => s
  | .cor => s.drainGroup g
  | .blk => if s.multiPart g then (s.drainGroup g).drainFifo (coreOf g) else s.drainGroup g
  | _ => (s.drainGroup g).drainFifo (coreOf g)

/-- Values of loads and atomics have still to come from peers. -/
def loadsDue (s : State) (g : Nat) : Bool := (s.group g).ops.pend.any fun p => p.kind == .ld && p.missing != 0

/-- No packet of the group is outstanding, and no lane of it waits to be performed; a replay `own` that is issuing waits
for neither itself nor later instructions (R259). -/
def remoteClear (s : State) (g : Nat) (own : Option Nat) : Bool :=
  (s.group g).ops.tagged == [] && (s.group g).ops.captures.all fun k => own.any fun o => decide (o ≤ k.id)

/-- What a release still waits for after its local part: earlier loads (R196), deltas of guarded stores, and for .pod the
responses of remote operations (R195); with `every`, those responses at any scope (R201). `own` is the replay that is
issuing. -/
def releaseWait (s : State) (g : Nat) (sc : Scope) (every : Bool) (own : Option Nat) : Option Wait :=
  let o := (s.group g).ops
  if sc != .none && s.loadsDue g then some (.kinds 0x20)
  else if scopeWide (s.multiPart g) sc then
    if o.deltas ≠ 0 then some .guarded
    else if (sc = .pod ∨ every) ∧ !s.remoteClear g own then some .remote
    else none
  else none

/-- An acquire (R195). -/
def acquire (s : State) (g : Nat) (sc : Scope) : State :=
  if scopeWide (s.multiPart g) sc then s.invalidate (coreOf g) else s

/-! ### Host budget (R103) -/

/-- Units of a host request. -/
def hostUnits (n : Nat) : Nat := (n + 63) / 64

/-- A host request charged to a tenant's HOST budget. -/
def chargeHost (s : State) (t n : Nat) : State := s.chargeUnits t (hostUnits n)

/-- The budget covers a request, or it is full and the request exceeds the cap (R103). -/
def hostReady (s : State) (t n : Nat) : Bool := s.affordsHost t (hostUnits n)

end State

end Sys2Proof.Machine
end

