-- ==== Sys2Proof/Machine/Sage.lean ====
section
/-! DEFINITION. Sage's accounts: what block parts hold and may claim, safety, and the units a grant takes (R173 to R180,
R189). -/

namespace Sys2Proof.Machine

/-- One amount of each class (R173). -/
structure Units where
  v : Nat
  s : Nat
  t : Nat
  a : Nat
  deriving DecidableEq, Repr

def Units.add (x y : Units) : Units := { v := x.v + y.v, s := x.s + y.s, t := x.t + y.t, a := x.a + y.a }
def Units.sub (x y : Units) : Units := { v := x.v - y.v, s := x.s - y.s, t := x.t - y.t, a := x.a - y.a }
def Units.le (x y : Units) : Bool := decide (x.v ≤ y.v) && decide (x.s ≤ y.s) && decide (x.t ≤ y.t) && decide (x.a ≤ y.a)
def Units.zero : Units := { v := 0, s := 0, t := 0, a := 0 }

/-- The amount of a class. -/
def Units.get (x : Units) : ResClass → Nat
  | .vreg => x.v
  | .spad => x.s
  | .tile => x.t
  | .acc => x.a

/-- `n` units of one class. -/
def Units.of : ResClass → Nat → Units
  | .vreg, n => { Units.zero with v := n }
  | .spad, n => { Units.zero with s := n }
  | .tile, n => { Units.zero with t := n }
  | .acc, n => { Units.zero with a := n }

/-- What Sage compares of one part: its key, Hold, Max and order of admission. -/
structure Account where
  key : Nat
  hold : Units
  max : Units
  order : Nat
  deriving DecidableEq, Repr

/-- Numbers below `n` that a list does not hold, ascending. -/
def freeBelow (n : Nat) (used : List Nat) : List Nat := (List.range n).filter fun i => !used.contains i

/-- The safe sequence of R174 from the accounts still left; none if the state is not safe. -/
def safeSeq : Nat → Units → List Account → Option (List Nat)
  | _, _, [] => some []
  | 0, _, _ => none
  | fuel + 1, work, left =>
    let cand := left.filter fun b => (b.max.sub b.hold).le work
    match minNat (cand.map (·.order)) with
    | none => none
    | some o =>
      match left.find? fun b => b.order == o with
      | none => none
      | some b =>
        (safeSeq fuel (work.add b.hold) (left.filter fun x => x.order != o)).map fun r => b.key :: r
where
  minNat : List Nat → Option Nat
    | [] => none
    | x :: xs =>
      match minNat xs with
      | none => some x
      | some y => some (if x ≤ y then x else y)

namespace State

/-- Sage's capacity on a core (R173). -/
def capacity (s : State) (c : Nat) : Units :=
  { v := Config.vecCapacity
    s := if s.rolesSet c then 4 * ((List.range 32).filter fun k => roleOf (s.core c).bankrole k == 1).length else 128
    t := Config.tileCapacity
    a := Config.accCapacity }

/-- What a part holds (R173, R174). -/
def holdOf (s : State) (b : Block) : Units :=
  { v := (b.groups.map fun g => (s.group g).granules * b.width).sum
    s := b.spad.length
    t := b.tiles.length
    a := b.accs.length }

/-- A part's maximum (R173, R175). -/
def maxOf (s : State) (b : Block) : Units :=
  if b.ended then s.holdOf b
  else { v := b.ngroups * b.width * b.vmax - b.vdrop, s := b.smax, t := b.tmax, a := b.amax }

/-- The account of a part: a reserved part counts its Max as held (R176). -/
def account (s : State) (key : Nat) (b : Block) : Account :=
  let m := s.maxOf b
  { key, hold := if b.reserved then m else s.holdOf b, max := m, order := b.order }

/-- The accounts of a core's parts. -/
def accounts (s : State) (c : Nat) : List Account := (s.blocksOn c).map fun b => s.account b.1 b.2

/-- Avail (R174). -/
def avail (s : State) (c : Nat) : Units :=
  (s.capacity c).sub ((s.accounts c).foldl (fun u b => u.add b.hold) Units.zero)

/-- The safe sequence of a core's present state. -/
def safeOrder (s : State) (c : Nat) : List Nat := ((safeSeq 300 (s.avail c) (s.accounts c))).getD []

/-- The state stays safe when `more` is added to a part's Hold (R174, R178). -/
def safeWith (s : State) (c key : Nat) (more : Units) : Bool :=
  let as := (s.accounts c).map fun b => if b.key = key then { b with hold := b.hold.add more } else b
  (safeSeq 300 ((s.avail c).sub more) as).isSome

/-- The state stays safe when a part is admitted (R177). -/
def safeAdmit (s : State) (c : Nat) (b : Account) : Bool :=
  b.hold.le (s.avail c) && (safeSeq 300 ((s.avail c).sub b.hold) (s.accounts c ++ [b])).isSome

/-- The outcome of the tests of R178 that follow the claim check. -/
inductive Verdict where
  | granted | unavailable | unsafe_
  deriving DecidableEq, Repr

/-- Units of Sage's account that `n` units of a request are: a vector granule counts once for each lane. -/
def unitsFor (s : State) (g : Nat) (cls : ResClass) (n : Nat) : Units :=
  Units.of cls (if cls = .vreg then n * (s.group g).flow.width else n)

/-- R178's tests of one request; a reserved part is granted at once (R176). -/
def verdict (s : State) (g : Nat) (cls : ResClass) (n : Nat) : Verdict :=
  let key := (s.group g).block
  match s.block? key with
  | none => .unavailable
  | some b =>
    let more := s.unitsFor g cls n
    if b.reserved then .granted
    else if !more.le (s.avail b.core) then .unavailable
    else if !s.safeWith b.core key more then .unsafe_
    else .granted

/-- The request would pass the group's or the part's maximum (R178). -/
def overClaim (s : State) (g : Nat) (cls : ResClass) (n : Nat) : Bool :=
  match s.blockOf g with
  | none => true
  | some b =>
    match cls with
    | .vreg => decide (b.vmax < (s.group g).granules + n)
    | .spad => decide (b.smax < b.spad.length + n)
    | .tile => decide (b.tmax < b.tiles.length + n)
    | .acc => decide (b.amax < b.accs.length + n)

/-! ### Which units a grant takes (R180, R189, R370) -/

/-- Scratchpad granules in the order in which Sage takes them: those of banks already in scratchpad role, then those of
the highest-numbered bank in cache role (R189). -/
def spadOrder (s : State) (c : Nat) : List Nat :=
  let held := s.heldGranules c
  let free := freeBelow 128 held
  if s.rolesSet c then free.filter fun g => roleOf (s.core c).bankrole (g / 4) == 1
  else
    let lent := free.filter fun g => held.any fun h => h / 4 == g / 4
    let rest := free.filter fun g => !held.any fun h => h / 4 == g / 4
    lent ++ (List.range 32).reverse.flatMap fun k => rest.filter fun g => g / 4 == k

/-- Every line of a core's L1 written back and dropped: what a bank's reclaim may do (R189). -/
def shedL1 (s : State) (c : Nat) : State :=
  (Map.keys (s.core c).l1).foldl (fun s line => (s.writeBack c line).dropLine c line) s

/-- Scratchpad granules given to a part, zeroed, after the reclaim of a bank taken from the L1 (R180, R189). -/
def giveSpad (s : State) (key n : Nat) : State :=
  match s.block? key with
  | none => s
  | some b =>
    let gs := (s.spadOrder b.core).take n
    let newBank := gs.any fun g => !(s.heldGranules b.core).any fun h => h / 4 == g / 4
    let s := if newBank && !s.rolesSet b.core then s.shedL1 b.core else s
    let s := gs.foldl (fun s g => s.wipeRange (spadPlace b.core (16384 * g)) (spadPlace b.core (16384 * (g + 1)))) s
    s.setBlock key { b with spad := b.spad ++ gs }

/-- A quarter-tile among the units that a copy names, beside tile slots 0 to 31 (R370). -/
def accUnit (q : Nat) : Nat := 64 + q

/-- Tile slots of a core that no part holds. -/
def freeTiles (s : State) (c : Nat) : List Nat := freeBelow 32 ((s.blocksOn c).flatMap fun b => b.2.tiles)

/-- Quarter-tiles of a core that no part holds. -/
def freeAccs (s : State) (c : Nat) : List Nat := freeBelow 16 ((s.blocksOn c).flatMap fun b => b.2.accs)

/-- A tile slot zeroed. -/
def zeroTile (s : State) (c q : Nat) : State := s.wipeRange (tilePlace c q 0) (tilePlace c (q + 1) 0)

/-- A quarter-tile zeroed. -/
def zeroAcc (s : State) (c q : Nat) : State := s.wipeRange (accPlace c q 0 0) (accPlace c (q + 1) 0 0)

/-- Tile slots given to a part, zeroed, bound to no name (R370). -/
def giveTiles (s : State) (key n : Nat) : State :=
  match s.block? key with
  | none => s
  | some b =>
    let ts := (s.freeTiles b.core).take n
    let s := ts.foldl (fun s q => s.zeroTile b.core q) s
    let kept := b.recent.filter fun e => !ts.any fun q => inSlot b.core q e.place
    s.setBlock key { b with tiles := b.tiles ++ ts, recent := kept }

/-- Quarter-tiles given to a part, zeroed (R180). -/
def giveAccs (s : State) (key n : Nat) : State × List Nat :=
  match s.block? key with
  | none => (s, [])
  | some b =>
    let qs := (s.freeAccs b.core).take n
    let s := qs.foldl (fun s q => s.zeroAcc b.core q) s
    let kept := b.recent.filter fun e => !qs.any fun q => inAcc b.core q e.place
    (s.setBlock key { b with accs := b.accs ++ qs, recent := kept }, qs)

/-- Vector registers from number `lo` up to below `hi` cleared in a register file. -/
def clearVecs (r : Regs) (lo hi : Nat) : Regs :=
  let out (k : Nat) : Bool := decide (k / 64 < lo) || decide (hi ≤ k / 64)
  { r with v := Map.keep out r.v, bad := r.bad.filter out }

/-- A grant made to a group or its part (R370); names of accumulators are bound in ascending order. -/
def giveUnits (s : State) (g : Nat) (cls : ResClass) (n first : Nat) : State :=
  let key := (s.group g).block
  match cls with
  | .vreg =>
    let k := (s.group g).granules
    s.onGroup g fun x => { x with granules := k + n, regs := clearVecs x.regs (8 * k) (8 * (k + n)) }
  | .spad => s.giveSpad key n
  | .tile => s.giveTiles key n
  | .acc =>
    let r := s.giveAccs key n
    (List.range n).foldl (fun s i => s.modRegs g fun x => { x with acc := Map.put (first + i) (r.2.getD i 0) x.acc }) r.1

end State

end Sys2Proof.Machine
end

