-- ==== Sys2Proof/Machine/Ops.lean ====
section
/-! DEFINITION. The shared operations on groups: writing registers in program order, moving on to the next instruction,
taking an exception (R251, R254, R262, R263), draining and ending groups and block parts (R149, R164, R165), workers,
and the pass of Sage (R179). -/

namespace Sys2Proof.Machine

/-! ### Register destinations -/

/-- The registers that one value per lane is written to: the key of R294's order, the lane whose value it takes, and
which 32 bits of that value. Keys are 64 × number + lane, with g0 as number 128 and p0 as number 192. A uniform register
takes the value of lane `low` (R311). -/
def destKeys (o : Opnd) (n : Nat) (lanes : List Nat) (low : Nat) : List (Nat × Nat × Nat) :=
  match o with
  | .v k => lanes.flatMap fun l => (List.range n).map fun i => (64 * (k.toNat + i) + l, l, i)
  | .g k => (List.range n).map fun i => (64 * (128 + k.toNat + i), low, i)
  | .p k => lanes.map fun l => (64 * (192 + k.toNat) + l, l, 0)
  | _ => []

/-- One key written; a predicate takes bit 0 (R283). -/
def putKey (r : Regs) (key : Nat) (x : Nat) : Regs :=
  if key / 64 < 128 then r.setV (key / 64) (key % 64) (BitVec.ofNat 32 x)
  else if key / 64 < 192 then r.setG (key / 64 - 128) (BitVec.ofNat 32 x)
  else r.setP (key / 64 - 192) (key % 64) (x % 2 == 1)

/-- Several keys written with the value of each lane; poison of what is written ends (R265). -/
def putKeys (r : Regs) (ks : List (Nat × Nat × Nat)) (f : Nat → Nat) : Regs :=
  let r := ks.foldl (fun r k => putKey r k.1 (f k.2.1 / 2 ^ (32 * k.2.2))) r
  { r with bad := r.bad.filter fun b => !ks.any fun k => k.1 == b }

/-- The destinations of a pending result. -/
def Pend.keys (p : Pend) : List (Nat × Nat × Nat) := destKeys p.dst p.nregs (Map.keys p.vals) p.low

/-- Destinations of a pending result that are neither written nor overwritten. -/
def Pend.due (p : Pend) : List (Nat × Nat × Nat) := p.keys.filter fun k => !p.drop.contains k.1

/-- The result is wholly written (R291). -/
def Pend.done (p : Pend) : Bool := p.missing == 0 && p.due == []

/-- The pending results that a write of some keys overtakes (R294). -/
def dropKeys (ks : List Nat) (ps : List Pend) : List Pend := ps.map fun (p : Pend) => { p with drop := p.drop ++ ks }

namespace State

/-- A fixed-latency write: it overtakes every pending result of the group (R294). -/
def writeNow (s : State) (g : Nat) (o : Opnd) (n : Nat) (lanes : Lanes) (f : Nat → Nat) : State :=
  match lowest lanes with
  | none => s
  | some low =>
    let ks := destKeys o n (laneList lanes) low
    s.onGroup g fun x =>
      { x with regs := putKeys x.regs ks f, ops := { x.ops with pend := dropKeys (ks.map (·.1)) x.ops.pend } }

/-- A pending result in a group's list. -/
def pushPend (s : State) (g : Nat) (p : Pend) : State := s.modOps g fun x => { x with pend := x.pend ++ [p] }

/-- The group of the other copy of a twin job that does the same work (R266). -/
def twinOf (s : State) (g : Nat) : Option Nat :=
  match s.blockOf g with
  | none => none
  | some b =>
    if !b.twin then none
    else
      match (s.blocks.map (·.2)).find? fun x =>
          x.job == b.job && x.run != b.run && x.rank == b.rank && x.part == b.part && !x.dead with
      | none => none
      | some x => x.groups.find? fun h => (s.group h).index == (s.group g).index

/-- A variable-latency result enters the group's outstanding results (R291); `missing` are lanes whose value has still
to come, and `sx` says how it is extended. A result of an operation that the lower twin copy performs for both goes to
both (R210). The number of the result is answered. -/
def addPend (s : State) (g : Nat) (kind : Kind) (o : Opnd) (n sx : Nat) (lanes missing : Lanes) (f : Nat → Nat) :
    State × Nat :=
  match lowest lanes with
  | none => (s, 0)
  | some low =>
    let r := s.tick
    let vals := (laneList lanes).map fun l => (l, f l)
    let twin := if (s.group g).iss.forced = 1 then s.twinOf g else none
    let p : Pend := { id := r.2, kind, dst := o, nregs := n, low, vals, missing, sx, drop := [],
                      mirror := match twin with | none => 0 | some h => h + 1 }
    let s := r.1.pushPend g p
    match twin with
    | none => (s, r.2)
    | some h => (s.pushPend h { p with mirror := 0 }, r.2)

/-- A change of one pending result, and of its copy in the twin group. -/
def modPend (s : State) (g id : Nat) (f : Pend → Pend) : State :=
  let upd (o : Ops) : Ops := { o with pend := o.pend.map fun (p : Pend) => if p.id = id then f p else p }
  let twin := ((s.group g).ops.pend.find? fun p => p.id == id).map (·.mirror)
  let s := s.modOps g upd
  match twin with
  | some (h + 1) => s.modOps h upd
  | _ => s

/-- Values that a response or a replay brings for some lanes of a pending result. -/
def fillPend (s : State) (g id : Nat) (lanes : Lanes) (f : Nat → Nat) : State :=
  s.modPend g id fun p =>
    { p with vals := p.vals.map fun v => if lanes.getLsbD v.1 then (v.1, f v.1) else v, missing := p.missing &&& ~~~lanes }

/-- A byte that a response brings: byte `k` of one lane's value. -/
def orPend (s : State) (g id lane k : Nat) (b : Byte) : State :=
  s.modPend g id fun p =>
    { p with vals := p.vals.map fun v => if v.1 = lane then (v.1, v.2 + b.toNat * 2 ^ (8 * k)) else v }

/-- A loaded value extended to its registers (R310). -/
def extendTo (sx bits x : Nat) : Nat := if sx = 0 then x else wrapInt bits (signedOf sx x)

/-- Lanes whose every byte has come: their values are extended (R310). -/
def closePend (s : State) (g id : Nat) (lanes : Lanes) : State :=
  s.modPend g id fun p =>
    let now := lanes &&& p.missing
    { p with vals := p.vals.map fun v => if now.getLsbD v.1 then (v.1, extendTo p.sx 32 v.2) else v,
             missing := p.missing &&& ~~~lanes }

/-- The lanes of a pending result whose values have come are written (R291, R294): they overtake earlier results. -/
def writePend (s : State) (g id : Nat) (lanes : Lanes) : State :=
  match (s.group g).ops.pend.find? fun p => p.id == id with
  | none => s
  | some p =>
    let now := p.due.filter fun k => lanes.getLsbD k.2.1 && !p.missing.getLsbD k.2.1
    let ks := now.map (·.1)
    let f (l : Nat) : Nat := Map.get 0 p.vals l
    s.onGroup g fun x =>
      { x with
        regs := putKeys x.regs now f
        ops := { x.ops with pend := x.ops.pend.map fun (q : Pend) =>
          if q.id ≤ id then { q with drop := q.drop ++ ks } else q } }

/-- Every result of a group whose values have come is written, in order. -/
def flushPend (s : State) (g : Nat) : State :=
  (s.group g).ops.pend.foldl (fun s p => s.writePend g p.id (fullMask 64)) s

/-- Results that are wholly written leave the list, where a wait has covered them (R292, R293). -/
def dropDone (s : State) (g : Nat) : State := s.modOps g fun x => { x with pend := x.pend.filter fun p => !p.done }

/-! ### Records of faults -/

/-- A condition that stops an instruction (R251, R254): its cause, the lanes it covers, the lanes that a replay does not
perform, the address, and the page-table entry. -/
structure Trap where
  cause : BitVec 8
  lanes : Lanes
  done : Lanes
  va : Nat
  entry : Nat
  level : Nat
  detail : DWord
  write : Bool
  fetch : Bool
  clause : Nat
  idx : Nat
  stripe : Nat := 8
  deriving DecidableEq, Repr

/-- Class P (R251). -/
def programCause (c : BitVec 8) : Bool := 0x10 ≤ c.toNat && c.toNat ≤ 0x2E

/-- Class E (R251). -/
def environCause (c : BitVec 8) : Bool := 0x30 ≤ c.toNat && c.toNat ≤ 0x34

/-- Causes that end the job (R262). -/
def fatalCause (c : BitVec 8) : Bool := programCause c || environCause c

/-- The lanes below W that a mask does not hold (R424). -/
def restOf (s : State) (g : Nat) (m : Lanes) : Lanes := fullMask (s.group g).flow.width &&& ~~~m

/-- A condition that no memory lane raised: the masks of R424. -/
def plainTrap (s : State) (g : Nat) (cause : BitVec 8) (lanes : Lanes) (clause idx : Nat) (detail : DWord) : Trap :=
  { cause, lanes, done := s.restOf g lanes, va := 0, entry := 0, level := 7, detail, write := false, fetch := false,
    clause, idx }

/-- The record of a condition (R254). -/
def recordOf (s : State) (g : Nat) (t : Trap) (parks remote : Bool) : Record :=
  let b := s.blockOf g
  { cause := t.cause, write := t.write, fetch := t.fetch, twinHi := (b.map (·.twinHi)).getD false, remote, gid := g,
    part := (b.map (·.part)).getD 0, job := s.jobidOf g, va := t.va, clause := t.clause, idx := t.idx, lanes := t.lanes,
    done := t.done, entry := t.entry, level := t.level, detail := t.detail, parks, group := true, stripe := t.stripe }

/-- A record owed to the queue of a group's tenant; a core of no tenant has none. -/
def oweGroup (s : State) (g : Nat) (t : Trap) (parks remote : Bool) : State :=
  if (s.group g).tenant < 8 then s.owe (s.group g).tenant (s.recordOf g t parks remote) else s

/-! ### Ending groups (R164, R165, R263) -/

/-- The issuing part, if it belongs to group `g`, moves no further in this step. -/
def unissue (s : State) (g : Nat) : State :=
  { s with cur := s.cur.map fun (c : Issue) => if c.gid = g then { c with adv := .moved } else c }

/-- Every lane of a group has exited. -/
def allExited (f : Flow) : Flow :=
  { f with parts := [], cond := (List.range f.width).map fun l => (l, LaneCond.exited), loops := [] }

/-- Nothing waits any more for the resolution of a group's records, or for their writing (R257). -/
def forgetRecords (s : State) (g : Nat) : State :=
  let t := (s.group g).tenant
  s.modFq t fun q =>
    { q with waiting := q.waiting.filter fun w => w.gid != g
             owed := q.owed.map fun (r : Record) =>
               if r.gid = g ∧ r.group then { r with parks := false, ends := false } else r }

/-- A group gives up what it has not issued, and drains (R263 steps 1 to 3). -/
def killGroup (s : State) (g : Nat) : State :=
  let s := s.onGroup g fun x =>
    { x with park := .draining, flow := allExited x.flow, ops := { x.ops with pend := [], captures := [] },
             iss := { x.iss with held := [], stopped := none, passed := x.iss.compares } }
  let s := s.modCore (coreOf g) fun k => { k with sageQueue := k.sageQueue.erase g }
  let s := { s with cores := s.cores.map fun (c : Nat × Core) =>
    (c.1, { c.2 with waiters := c.2.waiters.filter fun w => w.gid != g }) }
  (s.forgetRecords g).unissue g

/-- Every group of every run of a job is killed, its parts and mailbox entries with them (R120, R263). -/
def killParts (s : State) (job : Nat) : State :=
  let mine := s.blocks.filter fun b => b.2.job == job && !b.2.dead
  let s := mine.foldl (fun s b => b.2.groups.foldl (fun s g => s.killGroup g) s) s
  let s := mine.foldl (fun s b => s.modBlock b.1 fun k => { k with dead := true, ended := true, exited := k.ngroups }) s
  let s := { s with cores := s.cores.map fun (c : Nat × Core) => (c.1, { c.2 with mailbox := c.2.mailbox.filter fun m => m.1 != job }) }
  s.modSvc fun v => { v with colls := v.colls.filter fun c => c.job != job || c.started }

/-- A cohort kill (R120, R262): `program` makes ATTEMPT 7 first. -/
def killCohort (s : State) (job : Nat) (program : Bool) : State := (s.killParts job).killJob job program

/-- A resident group ends: it drains, and a fresh worker follows (R149, R256). -/
def endResident (s : State) (g : Nat) : State :=
  ((s.onGroup g fun x =>
    { x with park := .draining, flow := allExited x.flow,
             ops := { x.ops with pend := [], captures := [] } }).forgetRecords g).unissue g

/-! ### Taking an exception (R251, R262) -/

/-- A trap's record written at once where it can be, else owed, with nothing that waits for it. -/
def recordNow (s : State) (g : Nat) (t : Trap) : State :=
  let k := (s.group g).tenant
  let r := s.recordOf g t false false
  if 8 ≤ k then s
  else
    match (if (s.tenant k).fq.owed = [] then s.recordReady k else none) with
    | some p => s.storeRecord k p r
    | none => s.owe k r

/-- The cohort of a group that has trapped ends (R262). Resident code, which has no cohort, ends its block
(notes/assumptions/16.md). -/
def endCohort (s : State) (g : Nat) (cause : BitVec 8) : State :=
  match s.blockOf g with
  | some b => s.killCohort b.job (programCause cause)
  | none => s.endResident g

/-- The youngest `n` owed records of a group's tenant are taken back. -/
def disown (s : State) (g n : Nat) : State :=
  if (s.group g).tenant < 8 then
    s.modFq (s.group g).tenant fun q => { q with owed := q.owed.take (q.owed.length - n) }
  else s

/-- The records that the issuing instruction of a group owes for faults of its lanes are not written after all: another
lane of it has trapped (R253, R255). -/
def retract (s : State) (g : Nat) : State :=
  match (s.cur.filter fun c => c.gid == g).bind (·.cap) with
  | none => s
  | some id =>
    match (s.group g).ops.captures.find? fun k => k.id == id with
    | none => s
    | some k => (s.disown g k.unwritten).modOps g fun o => { o with captures := o.captures.filter fun x => x.id != id }

/-- A trap of class P or E: one record is written, and the job's cohort ends (R255, R262); where the record cannot be
written yet, the group stays parked until it is (R98). A core of no tenant has no queue. `remote` says that an error
notice raised it. -/
def raiseFrom (s0 : State) (g : Nat) (t : Trap) (remote : Bool) : State :=
  let s := s0.retract g
  let k := (s.group g).tenant
  let r := s.recordOf g t false remote
  if 8 ≤ k then s.endCohort g t.cause
  else
    match (if (s.tenant k).fq.owed = [] then s.recordReady k else none) with
    | some p => (s.storeRecord k p r).endCohort g t.cause
    | none => ((s.owe k { r with ends := true }).onGroup g fun x => { x with park := .wait .record }).unissue g

/-- A trap that no error notice raised. -/
def raise (s : State) (g : Nat) (t : Trap) : State := s.raiseFrom g t false

/-- The lanes of a mask are helper lanes, for which alone no trap is raised (R152). -/
def helpersOnly (s : State) (g : Nat) (lanes : Lanes) : Bool :=
  lanes != 0 && lanes &&& ~~~(s.group g).flow.helper == 0

/-- A trap of an instruction that no memory lane raised (R424); none is raised for helper lanes alone (R152). -/
def trapNow (s : State) (g : Nat) (cause : BitVec 8) (lanes : Lanes) (clause idx : Nat) : State :=
  if s.helpersOnly g lanes then s else s.raise g (s.plainTrap g cause lanes clause idx 0)

/-- A failure put in its place by lane, behind earlier ones of the same lane. -/
def insertErr (e : LaneErr) : List LaneErr → List LaneErr
  | [] => [e]
  | x :: xs => if e.lane < x.lane then e :: x :: xs else x :: insertErr e xs

/-- Failures in ascending order of lanes (R255). -/
def sortErrs (es : List LaneErr) : List LaneErr := es.foldl (fun xs e => insertErr e xs) []

/-- The pages of failed lanes, in ascending order of each page's lowest lane (R255). -/
def errPages (es : List LaneErr) : List Nat := (es.map fun e => e.va / 65536).eraseDups

/-- The lanes of a list of failures. -/
def errLanes (es : List LaneErr) : Lanes := maskOf (es.map (·.lane))

/-- One record of class V for each page of the failed lanes, in ascending order of each page's lowest lane (R254, R255).
`left` are the lanes that the replay performs. -/
def oweLanes (s : State) (g : Nat) (clause idx : Nat) (left : Lanes) (es : List LaneErr) (remote : Bool) : State × Nat :=
  let es := sortErrs es
  (errPages es).foldl (fun (r : State × Nat) page =>
    let mine := es.filter fun e => e.va / 65536 == page
    match mine with
    | [] => r
    | e :: _ =>
      (r.1.oweGroup g
        { cause := e.cause, lanes := errLanes mine, done := r.1.restOf g left, va := e.va, entry := e.entry,
          level := e.level, detail := e.detail, write := e.write, fetch := false, clause, idx, stripe := e.stripe } true
        (e.remote || remote),
       r.2 + 1)) (s, 0)

/-- A capture with nothing outstanding and nothing to replay is of no more use. -/
def Capture.idle (k : Capture) : Bool := k.out == 0 && k.errs == [] && !k.parked

/-- The lanes that take part in the instruction that issues, which a replay keeps (R308). -/
def takingPart (s : State) (c : Issue) (i : Instr) : Lanes :=
  match c.replay, i.encFields with
  | some k, _ => k.part
  | none, some x =>
    if x.2.ctl.whole then c.active
    else maskOf ((laneList c.active).filter fun l => (s.group c.gid).regs.getP x.2.ctl.pred.toNat l != x.2.ctl.neg)
  | none, none => c.active

/-- Recoverable faults of an instruction's lanes: the records are owed, the operands are kept, and the part is held until
the replay (R253, R255, R258). `ops` are the operand values captured. Faults that the instruction met before, in its queue
operands, are recorded with these, as one set of records and one replay. -/
def parkLanes (s : State) (c : Issue) (i : Instr) (ops : Map Nat) (pend : Nat) (left : Lanes) (es : List LaneErr) : State :=
  let g := c.gid
  match (s.cur.bind (·.cap)).bind fun id => (s.group g).ops.captures.find? fun k => k.id == id with
  | some k =>
    let r := (s.disown g k.unwritten).oweLanes g c.clause c.idx (k.left ||| left) (k.faults ++ es) false
    r.1.modOps g fun o =>
      { o with captures := o.captures.map fun (x : Capture) =>
          if x.id = k.id then
            { x with left := k.left ||| left, ops, pend := if pend = 0 then k.pend else pend, unwritten := r.2,
                     faults := k.faults ++ es }
          else x }
  | none =>
    let r := s.oweLanes g c.clause c.idx left es false
    let t := r.1.tick
    let k : Capture :=
      { id := t.2, instr := i, clause := c.clause, idx := c.idx, quads := c.quads, part := s.takingPart c i, left, ops, pend,
        out := 0, errs := [], records := [], unwritten := r.2, kill := false, fetch := false, parked := true, faults := es,
        stands := (c.replay.map (·.stands)).getD false }
    let s := t.1.modOps g fun o => { o with captures := o.captures ++ [k] }
    { s with cur := s.cur.map fun (x : Issue) => { x with cap := some t.2 } }

/-- A change of the capture made for the issuing instruction's own lane faults. -/
def modCaught (s : State) (g : Nat) (f : Capture → Capture) : State :=
  match s.cur.bind (·.cap) with
  | none => s
  | some id => s.modOps g fun o => { o with captures := o.captures.map fun (x : Capture) => if x.id = id then f x else x }

/-- The key under which a capture keeps the lane that a group-wide instruction reads its operands from (R341). -/
def leadKey : Nat := 64 * 15

/-- The key under which a capture keeps the lanes that were active at the first issue (R308). -/
def activeKey : Nat := 64 * 15 + 1

/-- What a first issue keeps besides its operands. -/
def keepLanes (c : Issue) (ops : Map Nat) : Map Nat :=
  Map.put activeKey c.active.toNat (Map.put leadKey ((lowest c.active).getD 0) ops)

/-- An instruction of which no lane is performed before the replay: its part stands at it (R258). -/
def parkWhole (s : State) (c : Issue) (i : Instr) (ops : Map Nat) (left : Lanes) (es : List LaneErr) : State :=
  let s := (s.parkLanes c i ops 0 left es).modCaught c.gid fun k => { k with stands := true }
  { s with cur := s.cur.map fun (x : Issue) => { x with adv := .moved } }

/-- A capture leaves the group. -/
def dropCapture (s : State) (g id : Nat) : State :=
  s.modOps g fun o => { o with captures := o.captures.filter fun k => k.id != id }

/-- A program cause, or failing that an environmental one, among failed lanes: one record names the lowest lane with it,
and no lane is performed (R253, R255). -/
def trapLanes (s : State) (g : Nat) (clause idx : Nat) (other : Lanes) (es : List LaneErr) : State :=
  let kind := if es.any fun e => programCause e.cause then programCause else environCause
  match (sortErrs es).find? fun e => kind e.cause with
  | none => s
  | some e =>
    let all := errLanes (es.filter fun e => kind e.cause)
    s.raiseFrom g
      { cause := e.cause, lanes := all, done := other, va := e.va, entry := e.entry, level := e.level, detail := e.detail,
        write := e.write, fetch := false, clause, idx } e.remote

/-- An environmental cause of some lanes (R255, R265, R424). -/
def trapEnviron (s : State) (g : Nat) (cause : BitVec 8) (lanes : Lanes) (clause idx : Nat) (va : Nat) (detail : DWord) :
    State :=
  s.raise g { s.plainTrap g cause lanes clause idx detail with va }

/-- The place that stands for a register of a group in the poison rules. -/
def regPlace (gid key : Nat) : Nat := 2 ^ 80 + gid * 2 ^ 14 + key

/-- What DETAIL[7:0] of UECC names for a place (R265): a core's own L1 where the place itself is sound. -/
def storageCode (s : State) (p : Nat) : Nat :=
  if 2 ^ 80 ≤ p then 7
  else
  match Map.find s.poisonFrom (poisonUnit p) with
  | some c => c
  | none =>
  match placeHome p with
  | .hbm => if s.poisoned p then 1 else 4
  | .vault => 3
  | .pewter => if s.poisoned p then 8 else 4
  | .spad => if 2 ^ 61 + 2 ^ 31 ≤ p then 6 else if 2 ^ 61 + 2 ^ 30 ≤ p then 5 else 4
  | _ => 4

/-- Poisoned data consumed by a group: the cohort is killed with UECC; resident code signals vector 5 of the physical
function and ends (R265). -/
def consumePoison (s : State) (g : Nat) (lanes : Lanes) (clause idx : Nat) (place : Nat) : State :=
  match s.blockOf g with
  | some _ => s.trapEnviron g 0x30 lanes clause idx 0 (BitVec.ofNat 64 (s.storageCode place))
  | none => (s.signal 0 5).endResident g

/-! ### Moving on -/

/-- The latch ages by one instruction (R169). -/
def ageLatch (r : Regs) : Regs :=
  { r with latchAge := (r.latchAge.map fun e => (e.1, e.2 - 1)).filter fun e => e.2 != 0 }

/-- A quad that only held lanes keep: those whose release test passes now are released, and it goes on with them
(R157). Answers the quads that cannot go on. -/
def rescueQuad (r : (Flow × Regs) × List Nat) (q : Nat) : (Flow × Regs) × List Nat :=
  let fr := retestQuad (List.range 8) q r.1
  let o := fr.1.switch q .stuck
  match o.2, o.1.parts.find? fun p => p.quads.getLsbD q with
  | .at pc, some p => ((o.1.resplit p ((quadsOf p.quads).map fun k => (k, if k = q then .at pc else .same)), fr.2), r.2)
  | _, _ => (r.1, r.2 ++ [q])

/-- A change of a group's flow takes effect: what it completes is completed, the latch empties where a REGANG joined
quads, and quads that can never go on take REJOINDL (R157, R161, R169). -/
def commitFlow (s : State) (g : Nat) (f : Flow) (stuck : List Nat) (clause idx : Nat) : State :=
  let waits (x : Flow) : Nat := (x.parts.filter fun p => match p.hold with | .regang _ _ => true | _ => false).length
  let first := stuck.foldl rescueQuad ((f, (s.group g).regs), [])
  let met := first.1.1.settle
  let r := met.2.foldl rescueQuad ((met.1, first.1.2), first.2)
  let f' := r.1.1
  let s := s.onGroup g fun x =>
    { x with flow := f', regs := if waits f' < waits f then { r.1.2 with latchAge := [] } else r.1.2 }
  match r.2 with
  | [] => s
  | q :: _ => s.trapNow g 0x27 (f'.living &&& quadMask q) clause idx

/-- A part goes on after its instruction: to the next one of the clause, or out of the clause (R156, R279). -/
def advancePart (s : State) (g : Nat) (quads : BitVec 16) : State :=
  let f := (s.group g).flow
  match f.partOf? quads with
  | none => s
  | some p =>
    match p.clause with
    | none => s
    | some c =>
      if c.idx + 1 < c.instrs.length then
        s.modFlow g fun f => f.modPart quads fun p => { p with clause := some { c with idx := c.idx + 1 } }
      else
        let r := f.leave p c.addr c.next c.rgp fun _ => none
        s.commitFlow g r.1 r.2 c.addr c.idx

/-- The switch marker of a part's present instruction. -/
def switchOf (f : Flow) (quads : BitVec 16) : Bool :=
  match f.partOf? quads with
  | none => false
  | some p =>
    match p.clause with
    | none => false
    | some c => ((c.instrs[c.idx]?.bind fun i => i.encFields).map fun x => x.2.ctl.sw).getD false

/-- The group waits as at a switch marker (R292); where it is parked already, once that park has ended. -/
def parkSwitch (s : State) (g : Nat) : State :=
  s.onGroup g fun x =>
    if x.park = .none then { x with park := .wait .switch } else { x with iss := { x.iss with sw := true } }

/-- An instruction that waited is complete: the part goes on, under its switch marker (R292). -/
def finishPart (s : State) (g : Nat) (quads : BitVec 16) : State :=
  let sw := switchOf (s.group g).flow quads
  let s := (s.modRegs g ageLatch).advancePart g quads
  if sw then s.parkSwitch g else s

/-! ### The pass of Sage (R179) -/

/-- A parked request is granted: its units are given, ACQ writes 0, and the group resumes (R179, R369). -/
def grantParked (s : State) (g : Nat) : State :=
  match (s.group g).park with
  | .sage cls n first dst quads =>
    let s := s.giveUnits g cls n first
    let act := (s.group g).flow.active &&& quadLanes quads
    let s := s.writeNow g dst 1 act fun _ => 0
    let s := s.modCore (coreOf g) fun k => { k with sageQueue := k.sageQueue.erase g }
    (s.onGroup g fun x => { x with park := .none }).finishPart g quads
  | _ => s

/-- A parked request passes R178. -/
def requestPasses (s : State) (g : Nat) : Bool :=
  match (s.group g).park with
  | .sage cls n _ _ _ => s.verdict g cls n == .granted
  | _ => false

/-- The requests of one part, oldest first, until one fails. -/
def passPart (s : State) (gs : List Nat) : State :=
  (gs.foldl (fun (r : State × Bool) g =>
    if r.2 && r.1.requestPasses g then (r.1.grantParked g, true) else (r.1, false)) (s, true)).1

/-- The parked requests of some parts of a core, in the order in which the parts stand, each part's oldest first. -/
def passParts (s : State) (c : Nat) (keys : List Nat) : State :=
  let q := (s.core c).sageQueue
  keys.foldl (fun s key => s.passPart (q.filter fun g => (s.group g).block == key)) s

/-- One pass over all parked requests of a core, in the order of the safe sequence at its start (R179). -/
def sagePass (s : State) (c : Nat) : State := s.passParts c (s.safeOrder c)

/-- The pass that the arrival of a part's request makes, where the request itself does not park: earlier parts of the safe
sequence, the part's own parked requests, the new one, and the parts that follow (R179). -/
def sagePassThen (s : State) (c key : Nat) (k : State → State) : State :=
  let order := s.safeOrder c
  let before := order.takeWhile (· != key)
  let after := (order.dropWhile (· != key)).drop 1
  (k (s.passParts c (before ++ [key]))).passParts c after

/-! ### Workers, and the end of groups and parts -/

/-- Header fields of the resident image (R148). -/
def wentry (s : State) : Nat := s.numAt (imagePlace 0) 8
def fentry (s : State) : Nat := s.numAt (imagePlace 8) 8
def nwork (s : State) : Nat := s.numAt (imagePlace 16) 1

/-- The free entry that a group takes: in the sector with the most free entries, the lowest sector first (R154). -/
def freeEntry (s : State) (c : Nat) : Option Nat :=
  let used := (s.groupsOn c).map fun g => g % 256
  let free (sec : Nat) : List Nat := (List.range 16).filter fun e => !used.contains (16 * sec + e)
  let best := (List.range 16).foldl (fun b sec => if (free b).length < (free sec).length then sec else b) 0
  (free best).head?.map fun e => 256 * c + 16 * best + e

/-- A group's first flow: every quad that has a lane below `n`, in one part at an address (R151, R159). -/
def startFlow (w n pc : Nat) : Flow :=
  let quads := (List.range (w / 4)).filter fun q => 4 * q < n
  let m := quads.foldl (fun (m : BitVec 16) q => m ||| BitVec.ofNat 16 (2 ^ q)) 0
  { width := w
    helper := maskOf ((List.range w).filter fun l => decide (n ≤ l) && decide (4 * (l / 4) < n))
    absent := (0xFFFF : BitVec 16) &&& ~~~m
    cond := [], parts := [{ quads := m, pc, clause := none, hold := .run }], loops := [] }

/-- A resident group of 16 lanes at an address: its generators are seeded as those of a group with %jobid 0 (R149, R237). -/
def residentGroup (tenant : Nat) (role : Role) (pc placed : Nat) : Group :=
  { Group.init with
    role, tenant, granules := 1, flow := startFlow 16 16 pc
    regs := { Regs.init with z := (List.range 16).map fun l => (l, mixSeed 0 l) }
    iss := { Issuing.init with placed } }

/-- A resident group placed on a core (R149, R153). -/
def placeResident (s : State) (c gid : Nat) (role : Role) (pc : Nat) : State :=
  let r := s.tick
  r.1.setGroup gid (residentGroup ((s.ownerOf c).getD 8) role pc r.2)

/-- Resident groups of a core that have not exited, and the parts that workers have become. -/
def workersOn (s : State) (c : Nat) : Nat :=
  ((s.groupsOn c).filter fun g => (s.group g).role != .job && (s.group g).park != .draining).length +
    (s.blocksOn c).length

/-- A retired core without a job part and without a mailbox entry restarts no worker (R36). -/
def resting (s : State) (c : Nat) : Bool := s.retired c && s.blocksOn c == [] && (s.core c).mailbox == []

/-- A fresh worker at WENTRY, while the core has fewer than NWORK (R36, R149). -/
def startWorker (s : State) (c : Nat) : State :=
  if s.pkg.rhamarOk && !s.resting c && !(s.core c).down && decide (s.workersOn c < s.nwork) then
    match s.freeEntry c with
    | none => s
    | some gid => s.placeResident c gid .worker s.wentry
  else s

/-- NWORK workers on a core (R149). -/
def startWorkers (s : State) (c : Nat) : State := (List.range 8).foldl (fun s _ => s.startWorker c) s

/-- Nothing that a draining group issued is outstanding (R164). -/
def drained (s : State) (g : Nat) : Bool :=
  let x := s.group g
  let k := s.core (coreOf g)
  (k.copies.all fun y => y.gid != g) && (k.store.all fun e => e.gid != g) && x.ops.tagged == [] && x.ops.deltas == 0 &&
    x.ops.captures == [] && x.iss.held == [] && decide (x.iss.compares ≤ x.iss.passed) && (s.svc.multicasts.all fun y => y.gid != g) &&
    (s.svc.copies.all fun y => y.gid != g) && s.svc.colls.all fun y => !y.started || y.dests.all fun d => d.gid != g

/-- A core's tile-job boundary, where a job's part starts or ends on it: MTX_PWRCFG takes effect there (R45). -/
def noteBoundary (s : State) (c : Nat) : State :=
  s.modCore c fun k => { k with mtxMode := s.pwr.mode, mtxRamp := s.pwr.ramp }

/-- A part has ended: its holdings return to Sage, and a fresh worker takes the block's place (R149, R164, R263). -/
def endBlock (s : State) (key : Nat) : State :=
  match s.block? key with
  | none => s
  | some b =>
    let s := { s with blocks := Map.del key s.blocks }
    let s := if b.dead then s else s.modEvent b.job fun e => { e with left := e.left - 1 }
    ((s.noteBoundary b.core).startWorker b.core).sagePass b.core

/-- A group leaves the draining state: its entry is freed and its granules return (R164). -/
def endDrain (s : State) (g : Nat) : State :=
  let x := s.group g
  let c := coreOf g
  let s := { s with groups := Map.del g s.groups }
  match x.role with
  | .job =>
    let s := s.modBlock x.block fun b => { b with groups := b.groups.erase g }
    match s.block? x.block with
    | some b => if b.groups = [] then s.endBlock x.block else s.sagePass c
    | none => s
  | _ => s.startWorker c

/-- A job's group whose quads have all exited enters the draining state, and its part's Max falls (R164, R175). A twin
group stands at its last compare point (R267). -/
def noteExit (s : State) (g : Nat) : State :=
  let x := s.group g
  if x.flow.parts = [] ∧ x.park ≠ .draining ∧ x.park ≠ .wait .record then
    let twin := ((s.block? x.block).map (·.twin)).getD false
    let s := s.onGroup g fun x =>
      { x with park := .draining, iss := { x.iss with compares := x.iss.compares + if twin then 1 else 0 } }
    s.modBlock x.block fun b =>
      { b with exited := b.exited + 1, ended := decide (b.ngroups ≤ b.exited + 1)
               vdrop := b.vdrop + b.width * (b.vmax - x.granules) }
  else s

/-! ### Barriers and deadlock (R162, R363, R364) -/

/-- A block number and run whose part still stands in a mailbox. -/
def unstarted (s : State) (job run : Nat) (rank : Option Nat) : Bool :=
  s.cores.any fun c => c.2.mailbox.any fun m => m.1 == job && m.2.1 == run && (rank.isNone || rank == some m.2.2.1)

/-- The groups of a block, or of its whole cohort, that have not exited. -/
def groupsOfRun (s : State) (job run : Nat) (rank : Option Nat) : List Nat :=
  (s.blocks.filter fun b => b.2.job == job && b.2.run == run && !b.2.dead && (rank.isNone || rank == some b.2.rank)).flatMap
    fun b => b.2.groups.filter fun g => (s.group g).park != .draining

/-- Every part of a group stands at a barrier. -/
def arrivedAt (s : State) (g : Nat) (h : Hold) : Bool := (s.group g).flow.parts.all fun p => p.hold == h

/-- Arrived groups go on, after an acquire at the barrier's scope (R363, R364), and see each other's slot writes (R340). -/
def releaseBarrier (s : State) (gs : List Nat) (sc : Scope) : State :=
  gs.foldl (fun s g =>
    let ps := (s.group g).flow.parts
    let s := (s.acquire g sc).meetSlots g
    ps.foldl (fun s p =>
      (s.modFlow g fun f => f.modPart p.quads fun p => { p with hold := .run }).finishPart g p.quads) s) s

/-- A barrier of a run completes when every participant has arrived with one number (R363). -/
def tryBarrier (s : State) (job run : Nat) (rank : Option Nat) : State :=
  if s.unstarted job run rank then s
  else
    let gs := s.groupsOfRun job run rank
    match gs with
    | [] => s
    | g :: _ =>
      match (s.group g).flow.parts with
      | [] => s
      | p :: _ =>
        match p.hold, rank with
        | .bsync n, some _ => if gs.all fun x => s.arrivedAt x (.bsync n) then s.releaseBarrier gs .blk else s
        | .csync n, none => if gs.all fun x => s.arrivedAt x (.csync n) then s.releaseBarrier gs .coh else s
        | _, _ => s

/-- A hold of some quads of a group of a part of a block, and whether it may still end. -/
structure HoldAt where
  key : Nat                          -- the block part
  rank : Nat                         -- its block
  gid : Nat
  hold : Hold
  live : Bool
  deriving DecidableEq, Repr

/-- A regroup point. -/
def isRegroup : Hold → Bool
  | .regroup _ => true
  | _ => false

/-- A rendezvous at a REGANG or a LOOP. -/
def isRendezvous : Hold → Bool
  | .regang _ _ | .loop _ => true
  | _ => false

/-- A hold of a run may end: every participant of what would end it stands there or may still come or exit (R161, R162,
R363). -/
def mayEnd (hs : List HoldAt) (h : HoldAt) : Bool :=
  match h.hold with
  | .bsync n => hs.all fun x => x.rank != h.rank || x.hold == .bsync n || x.live
  | .csync n => hs.all fun x => x.hold == .csync n || x.live
  | .regroup _ => hs.all fun x => x.key != h.key || isRegroup x.hold || x.live
  | .regang _ _ | .loop _ => hs.all fun x => x.gid != h.gid || isRendezvous x.hold || x.live
  | _ => true

/-- Which holds may end, from those of which nothing else is asked; `fuel` bounds the rounds. -/
def liveHolds : Nat → List HoldAt → List HoldAt
  | 0, hs => hs
  | fuel + 1, hs =>
    let hs' := hs.map fun h => { h with live := h.live || mayEnd hs h }
    if hs' = hs then hs else liveHolds fuel hs'

/-- The holds of a run's groups that have not exited. -/
def holdsOfRun (s : State) (job run : Nat) : List HoldAt :=
  (s.blocks.filter fun b => b.2.job == job && b.2.run == run && !b.2.dead).flatMap fun b =>
    (b.2.groups.filter fun g => (s.group g).park != .draining).flatMap fun g =>
      (s.group g).flow.parts.map fun p => { key := b.1, rank := b.2.rank, gid := g, hold := p.hold, live := false }

/-- Every quad of a block part stands at a barrier, a regroup point or a rendezvous, and none of these can complete (R162,
R364). -/
def deadlocked (s : State) (key : Nat) (b : Block) : Bool :=
  let hs := s.holdsOfRun b.job b.run
  let mine (hs : List HoldAt) : List HoldAt := hs.filter fun h => h.key == key
  mine hs != [] && (mine hs).all (fun h => h.hold != .run) && (mine (liveHolds (hs.length + 1) hs)).all fun h => !h.live

/-- What a step may have completed: exits, barriers, and deadlocks of block parts. -/
def aftermath (s : State) : State :=
  let s := (s.groups.filter fun g => g.2.role == .job).foldl (fun s g => s.noteExit g.1) s
  let runs := ((s.blocks.filter fun b => !b.2.dead).map fun b => (b.2.job, b.2.run, b.2.rank)).eraseDups
  let s := runs.foldl (fun s r => s.tryBarrier r.1 r.2.1 (some r.2.2)) s
  let s := ((runs.map fun r => (r.1, r.2.1)).eraseDups).foldl (fun s r => s.tryBarrier r.1 r.2 none) s
  s.blocks.foldl (fun s b =>
    match s.block? b.1 with
    | none => s
    | some k =>
      if !k.dead && s.deadlocked b.1 k then
        match k.groups.filter fun g => (s.group g).park != .draining with
        | [] => s
        | g :: _ =>
          let pc := ((s.group g).flow.parts.head?.map fun p => (p.clause.map (·.addr)).getD p.pc).getD 0
          s.trapNow g 0x28 (s.group g).flow.living pc 0
      else s) s

end State

end Sys2Proof.Machine
end

