-- ==== Sys2Proof/Machine/Lanes.lean ====
section
/-! DEFINITION. Loads and stores of the lanes of one instruction: checks (R253), local performance (R186, R195, R345),
the coalescer (R75), operands kept for replays (R258, R259), held stores and signatures of twin copies (R210, R266), and
access slices (R170, R171, R303). -/

namespace Sys2Proof.Machine

/-- One lane's access. -/
structure LaneAcc where
  lane : Nat
  va : Nat
  deriving DecidableEq, Repr

/-- The lanes that passed every check, with the place of each byte, and the failures. -/
structure Checked where
  ok : List (Nat × List Loc)
  errs : List LaneErr
  deriving DecidableEq, Repr

/-- What the prologue hands on: the lanes to perform now, those of them that contribute (R308), every active lane, the
operand values, keyed as a Capture keys them, every lane that takes part, and those whose queue operands have faulted and
that are performed at the replay (R258). -/
structure Ctx where
  lanes : Lanes
  contrib : Lanes
  active : Lanes
  vals : Map Nat
  replay : Option Capture
  part : Lanes
  late : Lanes
  deriving DecidableEq, Repr

/-- The operand of a field in one lane. -/
def Ctx.val (x : Ctx) (fld l : Nat) : Nat := Map.get 0 x.vals (64 * fld + l)

/-- The lanes that were active at the first issue (R308). -/
def Ctx.first (x : Ctx) : Lanes := ((Map.find x.vals State.activeKey).map (BitVec.ofNat 64)).getD x.active

/-- The operand of a field has a value in the lane that a group-wide instruction reads. -/
def Ctx.known (x : Ctx) (fld : Nat) : Bool :=
  (Map.find x.vals (64 * fld + (Map.find x.vals State.leadKey).getD ((lowest x.active).getD 0))).isSome

/-- The lowest active lane, from which a group-wide instruction reads its operands (R341): a replay keeps the one of the
first issue. -/
def Ctx.lead (x : Ctx) : Nat := (Map.find x.vals State.leadKey).getD ((lowest x.active).getD 0)

/-- The operand of a group-wide instruction: that of the lowest active lane (R341). -/
def Ctx.one (x : Ctx) (fld : Nat) : Nat := x.val fld x.lead

/-- The result that a replay completes. -/
def Ctx.old (x : Ctx) : Option Nat := x.replay.bind fun k => if k.pend = 0 then none else some k.pend

/-- The lowest lane that takes part is among those performed now: it writes a uniform destination (R311). -/
def Ctx.leads (x : Ctx) : Bool := lowest x.lanes == lowest x.part

/-- The replay that is issuing. -/
def Ctx.own (x : Ctx) : Option Nat := x.replay.map (·.id)

/-- A failed check as a lane's failure. -/
def laneErr (l : Nat) (write : Bool) (g : Snag) : LaneErr :=
  { lane := l, cause := g.cause, va := g.va, entry := g.entry, level := g.level, detail := g.detail, write,
    stripe := g.stripe, remote := g.remote }

/-- A lane access that lies at a peer. -/
def remoteLoc (l : Loc) : Option Nat :=
  match l.home with
  | .peer p => some p
  | _ => none

/-- Some byte of a lane lies at a peer. -/
def isRemote (x : Nat × List Loc) : Bool := x.2.any fun l => (remoteLoc l).isSome

/-- Bytes of host memory among the lanes that passed. -/
def hostBytes (ok : List (Nat × List Loc)) : Nat := (ok.map fun x => (x.2.filter fun l => l.home == .host).length).sum

/-- A pair put in its place in a sorted list without repeats. -/
def insertPair (x : Nat × Nat) : List (Nat × Nat) → List (Nat × Nat)
  | [] => [x]
  | y :: ys =>
    if x = y then y :: ys
    else if x.1 < y.1 ∨ (x.1 = y.1 ∧ x.2 < y.2) then x :: y :: ys
    else y :: insertPair x ys

/-- The distinct pairs of peer and line of the remote bytes, in the coalescer's order (R75). -/
def remoteKeys (ok : List (Nat × List Loc)) : List (Nat × Nat) :=
  (ok.flatMap fun x => x.2.filterMap fun l => (remoteLoc l).map fun p => (p, l.place / 64)).foldl
    (fun ks k => insertPair k ks) []

/-- The bytes of one packet: lane, offset in the line, and which byte of the lane's value (R75). -/
def packetBytes (ok : List (Nat × List Loc)) (key : Nat × Nat) : List (Nat × Nat × Nat) :=
  ok.flatMap fun x => (x.2.zip (List.range x.2.length)).filterMap fun lk =>
    if remoteLoc lk.1 = some key.1 ∧ lk.1.place / 64 = key.2 then some (x.1, lk.1.place % 64, lk.2) else none

/-! ### Chervil signatures (R266) -/

/-- One byte into the CRC of R266. -/
def crcByte (sig : DWord) (b : Byte) : DWord :=
  (List.range 8).foldl (fun (x : DWord) _ =>
    if x.msb then (x <<< (1 : Nat)) ^^^ 0x42F0E1EBA9EA3693 else x <<< (1 : Nat)) (sig ^^^ (b.setWidth 64 <<< (56 : Nat)))

/-- One chunk into a signature: 16 bytes of data, 2 of mask, 8 of address, least significant byte first (R266). -/
def crcChunk (sig : DWord) (addr : Nat) (mask : Nat) (data : List Byte) : DWord :=
  (data ++ bytesOf 2 mask ++ bytesOf 8 addr).foldl crcByte sig

/-- The 16-byte aligned chunks of a store of bytes at a generic address: address, mask, data (R266). -/
def chunksOf (va : Nat) (bs : List Byte) : List (Nat × Nat × List Byte) :=
  let lo := va / 16
  let hi := (va + bs.length - 1) / 16
  if bs = [] then []
  else (List.range (hi - lo + 1)).map fun k =>
    let base := 16 * (lo + k)
    let byte (i : Nat) : Option Byte := if va ≤ base + i then bs[base + i - va]? else none
    (base, (List.range 16).foldl (fun m i => if (byte i).isSome then m + 2 ^ i else m) 0,
      (List.range 16).map fun i => (byte i).getD 0)

namespace State

/-- Every lane checked, in ascending order; a helper lane's failure is dropped (R152, R253). -/
def checkLanes (s : State) (w : Who) (accs : List LaneAcc) (n : Nat) (aligned : Bool) (want : Want) (helper : Lanes) :
    State × Checked :=
  accs.foldl (fun (r : State × Checked) a =>
    let q := r.1.access w a.va n aligned want
    match q.2 with
    | .ok ls => (q.1, { r.2 with ok := r.2.ok ++ [(a.lane, ls)] })
    | .error g =>
      if helper.getLsbD a.lane then (q.1, { r.2 with ok := r.2.ok ++ [(a.lane, [])] })
      else (q.1, { r.2 with errs := r.2.errs ++ [laneErr a.lane want.write g] })) (s, { ok := [], errs := [] })

/-- The issuing instruction waits, with nothing of it done (R195, R259): `s` is the state before its operands were
read. A replay that cannot go on yet is tried again, and leaves the group's own wait as it is. -/
def blockOn (s : State) (c : Issue) (w : Wait) : State :=
  let s := if c.replay.isSome then s else s.onGroup c.gid fun x => { x with park := .wait w }
  { s with cur := some { c with adv := .stay } }

/-- Instructions of a group whose remote lanes have not all completed, but for a replay that is issuing (R259). -/
def remoteCount (s : State) (g : Nat) : Nat :=
  let own := s.cur.bind fun c => c.replay.map (·.id)
  ((s.group g).ops.captures.filter fun k => k.remote && own != some k.id).length

/-- Units of host memory that walks have read between two states. -/
def walkedUnits (s t : State) (n : Nat) : Nat :=
  (Map.get (0 : Int) s.fab.hostBudget n - Map.get (0 : Int) t.fab.hostBudget n).toNat

/-- Why lanes that passed their checks cannot be performed yet: a ninth instruction with remote lanes, or a spent host
budget (R103, R259). `t` is the state after the checks, with their walks charged. The host bytes of all lanes of an
instruction are one request (R103 gives no rule; notes/assumptions/54.md). -/
def lanesWait (s t : State) (g : Nat) (ok : List (Nat × List Loc)) : Option Wait :=
  let k := (s.group g).tenant
  let n := hostUnits (hostBytes ok) + s.walkedUnits t k
  if ok.any isRemote && decide (8 ≤ s.remoteCount g) then some .captures
  else if n ≠ 0 && !s.affordsHost k n then some (.budget true n)
  else none

/-- A variable-latency result of the lanes that take part (R291, R311): a replay completes the one that the first issue
began. `missing` are lanes whose value has still to come. -/
def result (s : State) (c : Issue) (x : Ctx) (kind : Kind) (o : Opnd) (n sx : Nat) (missing : Lanes) (f : Nat → Nat) :
    State × Nat :=
  match x.old with
  | some id => (s.fillPend c.gid id (x.lanes &&& ~~~missing) f, id)
  | none =>
    let p := s.addPend c.gid kind o n sx (x.lanes ||| x.late) (missing ||| x.late) f
    (p.1.modCaught c.gid fun k => { k with pend := p.2 }, p.2)

/-- What is kept of an instruction with remote lanes: `out` packets of it are to be answered (R259). -/
def remoteCapture (s : State) (c : Issue) (i : Instr) (ops : Map Nat) (id pend out : Nat) : Capture :=
  { id, instr := i, clause := c.clause, idx := c.idx, quads := c.quads, part := s.takingPart c i, left := 0, ops, pend, out,
    errs := [], records := [], unwritten := 0, kill := false, fetch := false, parked := false, remote := true }

/-- The operands of an instruction with remote lanes are kept (R259). -/
def captureRemote (s : State) (c : Issue) (i : Instr) (ops : Map Nat) (pend out : Nat) : State × Nat :=
  let r := s.tick
  (r.1.modOps c.gid fun o => { o with captures := o.captures ++ [s.remoteCapture c i ops r.2 pend out] }, r.2)

/-- One tagged request of a group (R72). -/
def sendTagged (s : State) (g typ : Nat) (peer addr : Nat) (payload : List Byte) (errand : Errand) : State :=
  let t := (s.group g).tenant
  let r := s.takeTag { typ, dst := BitVec.ofNat 12 peer, vcn := t, addr, errand, first := none }
  let s := r.1.modOps g fun o => { o with tagged := o.tagged ++ [r.2] }
  let s := if [2, 4, 6].contains typ then s.coverRow g addr else s
  s.request typ 0 t peer r.2 addr payload

/-! ### Loads -/

/-- The local bytes of the lanes read: the values, and the lanes that met poison with its place (R265). -/
def readLanes (s : State) (g : Nat) (ok : List (Nat × List Loc)) (wide : Bool) (helper : Lanes) :
    State × Map Nat × List (Nat × Nat) :=
  ok.foldl (fun (r : State × Map Nat × List (Nat × Nat)) x =>
    if isRemote x then
      let own := (x.2.zip (List.range x.2.length)).foldl (fun v lk =>
        match r.1.ownByte g lk.1.key with
        | some b => v + b.toNat * 2 ^ (8 * lk.2)
        | none => v) 0
      let near := x.2.filter fun l => (remoteLoc l).isNone
      let q := r.1.loadBytes g near wide
      let here := ((x.2.zip (List.range x.2.length)).filter fun lk => (remoteLoc lk.1).isNone).map (·.2)
      let local_ := ((here.zip q.2.1).map fun kb => kb.2.toNat * 2 ^ (8 * kb.1)).sum
      (q.1, Map.put x.1 (own + local_) r.2.1,
        if q.2.2 && !helper.getLsbD x.1 then r.2.2 ++ [(x.1, (near.head?.map (·.place)).getD 0)] else r.2.2)
    else
      let q := r.1.loadBytes g x.2 wide
      let bad := q.2.2 && !helper.getLsbD x.1
      (q.1, Map.put x.1 (natOfBytes q.2.1) r.2.1, if bad then r.2.2 ++ [(x.1, (x.2.head?.map (·.place)).getD 0)] else r.2.2))
    (s, [], [])

/-- The RD packets of a load (R75). -/
def sendLoads (s : State) (g pend cap : Nat) (ok : List (Nat × List Loc)) : State :=
  (remoteKeys ok).foldl (fun s key =>
    let bytes := (packetBytes ok key).filter fun b =>
      (s.ownByte g (peerPlace key.1 (64 * key.2 + b.2.1))).isNone
    s.sendTagged g 0 key.1 (64 * key.2) [] (.load g pend cap bytes)) s

/-- What a load asks: bytes per lane, sign extension, strength, destination. -/
structure LoadAsk where
  n : Nat
  sx : Nat
  scope : Scope
  ord : Order
  dst : Opnd
  nregs : Nat
  deriving DecidableEq, Repr

/-- A load of the lanes `accs` (R345): `s0` is the state before operands were read. -/
def loadLanes (s0 s : State) (c : Issue) (i : Instr) (x : Ctx) (accs : List LaneAcc) (q : LoadAsk) : State :=
  let g := c.gid
  let helper := (s.group g).flow.helper
  let all := maskOf (accs.map (·.lane))
  let wide := scopeWide (s.multiPart g) q.scope
  let r := s.checkLanes (s.whoOf g) accs q.n (q.scope != .none) { write := false, fetch := false } helper
  if r.2.errs.any fun e => fatalCause e.cause then r.1.trapLanes g c.clause c.idx (s.restOf g all) r.2.errs
  else
    match s.lanesWait r.1 g r.2.ok with
    | some w => s0.blockOn c w
    | none =>
      let s := if hostBytes r.2.ok = 0 then r.1 else r.1.chargeHost (s.group g).tenant (hostBytes r.2.ok)
      let v := s.readLanes g r.2.ok wide helper
      match v.2.2 with
      | (l, p) :: more => v.1.consumePoison g (maskOf (l :: more.map (·.1))) c.clause c.idx p
      | [] =>
        let remote := r.2.ok.filter isRemote
        let missing := maskOf (remote.map (·.1)) ||| errLanes r.2.errs
        let value (l : Nat) : Nat := if missing.getLsbD l then Map.get 0 v.2.1 l else extendTo q.sx 32 (Map.get 0 v.2.1 l)
        let p := v.1.result c x .ld q.dst q.nregs q.sx missing value
        let s := if x.old.isNone then p.1 else p.1.modPend g p.2 fun (p : Pend) =>
          { p with vals := p.vals.map fun (e : Nat × Nat) => if missing.getLsbD e.1 then (e.1, value e.1) else e }
        let s := if r.2.errs = [] then s else s.parkLanes c i x.vals p.2 (errLanes r.2.errs) r.2.errs
        let acq := q.ord == .acq || q.ord == .acr
        if remote = [] then (if acq then s.acquire g q.scope else s)
        else
          let k := s.captureRemote c i x.vals p.2 (remoteKeys remote).length
          let s := k.1.sendLoads g p.2 k.2 remote
          if acq then s.onGroup g fun x => { x with park := .wait (.response q.scope) } else s

/-! ### Stores -/

/-- The group belongs to a twin copy (R118, R210). -/
def isTwin (s : State) (g : Nat) : Bool := ((s.blockOf g).map (·.twin)).getD false

/-- A twin group's share of its core's hold buffer (R267). -/
def holdShare (s : State) (g : Nat) : Nat :=
  524288 / max 1 ((s.groupsOn (coreOf g)).filter fun h => s.isTwin h).length

/-- Bytes that a group holds (R267). -/
def heldBytes (s : State) (g : Nat) : Nat := ((s.group g).iss.held.map fun h => h.bytes.length).sum

/-- A lane's store taken into the hold buffer (R210). -/
def holdStore (s : State) (g serial lane : Nat) (cap : Option Capture) (place : Nat) (bs : List Byte) : State :=
  s.modIss g fun x => { x with held := x.held ++ [{ serial, place, bytes := bs.map some, lane, cap }] }

/-- A lane's store enters the signature (R266). -/
def signStore (s : State) (g va : Nat) (bs : List Byte) : State :=
  s.modIss g fun x => { x with sig := (chunksOf va bs).foldl (fun sig k => crcChunk sig k.1 k.2.1 k.2.2) x.sig }

/-- A group reaches a compare point and waits for its twin (R267). -/
def comparePoint (s : State) (g : Nat) : State :=
  s.onGroup g fun x => { x with iss := { x.iss with compares := x.iss.compares + 1 }, park := .wait .pass }

/-- A store instruction that contributed a chunk is counted; every 4,096th is a compare point (R267). -/
def countStore (s : State) (g : Nat) : State :=
  let s := s.modIss g fun x => { x with nstores := x.nstores + 1 }
  if (s.group g).iss.nstores % 4096 = 0 then s.comparePoint g else s

/-- One lane's local bytes stored, run by run (R76). -/
def storeLane (s : State) (g : Nat) (ls : List Loc) (bs : List Byte) (wide : Bool) (queue : Nat) : State :=
  (runsOf ((ls.zip bs).filter fun x => (remoteLoc x.1).isNone)).foldl (fun s r => s.storeRun g r.1 r.2 wide queue) s

/-- One lane's bytes, remote ones too, taken into the hold buffer of a twin copy (R210). `cap` is what a replay needs. -/
def holdLane (s : State) (g lane : Nat) (cap : Capture) (ls : List Loc) (bs : List Byte) : State :=
  (runsOf (ls.zip bs)).foldl (fun s r =>
    s.holdStore g cap.id lane (if (remoteLoc r.1).isSome then some cap else none) r.1.key r.2) s

/-- Lines of which some local bytes are every byte. -/
def coveredLines (places : List Nat) : List Nat :=
  let bs := places.eraseDups
  ((bs.map fun p => p / 64).eraseDups).filter fun line => (bs.filter fun p => p / 64 == line).length == 64

/-- A store of every byte of a poisoned line by one instruction, which wrote the bytes at some places, clears the poison
(R265). -/
def clearPlaces (s : State) (g : Nat) (places : List Nat) : State :=
  let c := coreOf g
  if s.poison == [] && (s.core c).l1.all (fun e => !e.2.bad) then s
  else
    (coveredLines places).foldl (fun s line =>
      let s := s.drainLine g line
      let s := s.modCore c fun k =>
        { k with l1 := k.l1.map fun (e : Nat × Line) => if e.1 = line then (e.1, { e.2 with bad := false }) else e }
      if (Map.get Line.empty (s.core c).l1 line).dirty = 0 then s.clearPoison (64 * line) else s) s

/-- The same of the local bytes of an instruction's lanes. -/
def clearCovered (s : State) (g : Nat) (ok : List (Nat × List Loc)) : State :=
  s.clearPlaces g (ok.flatMap fun x => (x.2.filter fun l => (remoteLoc l).isNone).map (·.place))

/-- Stores of the lanes of one instruction enter a twin group's signature (R266). -/
def signLanes (s : State) (g : Nat) (accs : List LaneAcc) (data : Nat → List Byte) : State :=
  accs.foldl (fun s a => s.signStore g a.va (data a.lane)) s

/-- The WR packets of a store: the union of the lanes' bytes, the higher lane's byte last (R75). A packet that does not
write the whole line carries its byte mask first (R59). -/
def linePayload (offs : List (Nat × Byte)) : List Byte :=
  let line := offs.foldl (fun (m : Map Byte) x => Map.put x.1 x.2 m) []
  let data := (List.range 64).map fun i => Map.get 0 line i
  if line.length = 64 then data
  else bytesOf 8 (line.foldl (fun m x => m + 2 ^ x.1) 0) ++ data

/-- Every remote byte of a store goes out (R75). -/
def sendStores (s : State) (g cap : Nat) (ok : List (Nat × List Loc)) (data : Nat → List Byte) : State :=
  (remoteKeys ok).foldl (fun s key =>
    let bytes := packetBytes ok key
    let offs := bytes.map fun b => (b.2.1, (data b.1).getD b.2.2 0)
    s.sendTagged g 2 key.1 (64 * key.2) (linePayload offs)
      (.store g cap (maskOf (bytes.map (·.1))) (pewterFrame (64 * key.2)))) s

/-- The key under which a capture keeps that a twin's store has entered the signature. -/
def signedKey : Nat := 64 * 14

/-- The key under which a capture keeps that a twin's store has been counted (R267). -/
def countedKey : Nat := 64 * 14 + 1

/-- A store's lanes enter a twin group's signature in ascending order, faulted ones among them, once every lane's operands
are known (R266); answers the operands with that noted. `all` are the lanes that take part. -/
def signOnce (s : State) (g : Nat) (x : Ctx) (all : List LaneAcc) (data : Nat → List Byte) : State × Map Nat :=
  if x.late != 0 || Map.get 0 x.vals signedKey == 1 then (s, x.vals)
  else (s.signLanes g all data, Map.put signedKey 1 x.vals)

/-- The access lies in the scratchpad window, where a twin copy's store is performed at once (R210). -/
def inSpad (a : LaneAcc) : Bool := (windowOf a.va).1 == .spad

/-- The group belongs to the twin copy on the higher-numbered core (R210). -/
def higherTwin (s : State) (g : Nat) : Bool := ((s.blockOf g).map (·.twinHi)).getD false

/-- A store of the lanes `accs` (R345), with the bytes of each lane; `all` are the lanes that take part, and `queue` names
the store queue of a push. After a compare point that a release has forced, the lower twin copy performs all of it, the
higher one what lies in its own scratchpad (R210). `s0` is the state before operands were read. -/
def storeLanes (s0 s : State) (c : Issue) (i : Instr) (x : Ctx) (all accs : List LaneAcc) (n : Nat) (scope : Scope)
    (queue : Nat) (data : Nat → List Byte) : State :=
  let g := c.gid
  let wide := scopeWide (s.multiPart g) scope
  let forced := (s.group g).iss.forced
  let twin := s.isTwin g && forced == 0 && decide ((s.group g).park ≠ .draining)
  let free := accs.filter inSpad
  let holds (l : Nat) : Bool := twin && !free.any fun a => a.lane == l
  let r := s.checkLanes (s.whoOf g) accs n (scope != .none) { write := true, fetch := false } 0
  let r := if forced = 2 && s.higherTwin g then (r.1, { r.2 with ok := r.2.ok.filter fun k => free.any fun a => a.lane == k.1 }) else r
  if r.2.errs.any fun e => fatalCause e.cause then
    r.1.trapLanes g c.clause c.idx (s.restOf g (maskOf (accs.map (·.lane)))) r.2.errs
  else
    match s.lanesWait r.1 g r.2.ok with
    | some w => s0.blockOn c w
    | none =>
      let more := n * (r.2.ok.filter fun k => holds k.1).length
      if more != 0 && (s.group g).iss.held != [] && decide (s.holdShare g < s.heldBytes g + more) then
        { s0.comparePoint g with cur := some { c with adv := .stay } }
      else
        let s := if hostBytes r.2.ok = 0 then r.1 else r.1.chargeHost (s.group g).tenant (hostBytes r.2.ok)
        let q := if twin then s.signOnce g x all data else (s, x.vals)
        let held := r.2.ok.filter fun k => holds k.1
        let counts := twin && all != [] && r.2.errs == [] && x.late == 0 && Map.get 0 x.vals countedKey != 1
        let q := (q.1, if counts then Map.put countedKey 1 q.2 else q.2)
        let t := if held = [] then (q.1, 0) else q.1.tick
        let kept := s.remoteCapture c i q.2 t.2 0 0
        let s := r.2.ok.foldl (fun s k =>
          if holds k.1 then s.holdLane g k.1 kept k.2 (data k.1) else s.storeLane g k.2 (data k.1) wide queue) t.1
        let q := (s.clearCovered g (r.2.ok.filter fun k => !holds k.1), q.2)
        let s := if r.2.errs = [] then q.1 else q.1.parkLanes c i q.2 0 (errLanes r.2.errs) r.2.errs
        let s := s.modCaught g fun k => { k with ops := q.2 }
        let remote := (r.2.ok.filter isRemote).filter fun k => !holds k.1
        let s :=
          if remote = [] then s
          else
            let s := if queue = 0 then s else s.drainWhere (coreOf g) fun e => e.gid == g && e.queue == queue
            let k := s.captureRemote c i q.2 0 (remoteKeys remote).length
            k.1.sendStores g k.2 remote data
        if counts then s.countStore g else s

/-! ### Remote bytes that an operation reads for itself -/

/-- Remote lines among some bytes that have neither been brought nor failed: peer and line. -/
def missingLines (s : State) (g : Nat) (ls : List Loc) : List (Nat × Nat) :=
  let o := (s.group g).ops
  (ls.filterMap fun l =>
    match remoteLoc l with
    | none => none
    | some p =>
      let key := peerPlace p l.place
      if (Map.find o.peek key).isSome || (Map.find o.peekErr (key / 64)).isSome || (s.ownByte g key).isSome then none
      else some (p, l.place / 64)).eraseDups

/-- Bytes that have been checked, read as relaxed loads at .grp (R209, R342): remote ones have been brought. -/
def readLocs (s : State) (g a : Nat) (ls : List Loc) : State × Except (Snag ⊕ Nat) (List Byte) :=
  let o := (s.group g).ops
  match ls.findSome? fun l => (remoteLoc l).bind fun p => Map.find o.peekErr (peerPlace p l.place / 64) with
  | some (cause, detail) => (s, .error (.inl { Snag.plain 7 cause a with detail, remote := true }))
  | none =>
    let near := ls.filter fun l => (remoteLoc l).isNone
    let q := s.loadBytes g near false
    if q.2.2 then (q.1, .error (.inr ((near.head?.map (·.place)).getD 0)))
    else
      (q.1, .ok (ls.map fun l =>
        match remoteLoc l with
        | some p => ((q.1.ownByte g (peerPlace p l.place)).or (Map.find o.peek (peerPlace p l.place))).getD 0
        | none => (q.1.seenByte g l).1))

/-- The RD packets that bring missing lines, but for those that are under way. -/
def sendPeeks (s : State) (g : Nat) (ks : List (Nat × Nat)) : State :=
  ks.foldl (fun s k =>
    let place := peerPlace k.1 (64 * k.2)
    if s.fab.tags.any fun t => t.2.errand == .peek g place then s
    else s.sendTagged g 0 k.1 (64 * k.2) [] (.peek g place)) s

/-- The issuing instruction waits for remote bytes. -/
def peekOn (s : State) (c : Issue) (ks : List (Nat × Nat)) : State := (s.sendPeeks c.gid ks).blockOn c .peek

/-! ### Access slices (R170, R171, R303) -/

/-- The address of one lane's element (R303). -/
def elemAddr (p : Pattern) (elem lane : Nat) : Nat :=
  let r := p.levels.foldl (fun (r : Nat × Int) lv => (r.1 / lv.1, r.2 + lv.2 * ((r.1 % lv.1 : Nat) : Int))) (elem, 0)
  wrapInt 64 ((p.base : Int) + p.lstride * (lane : Int) + r.2)

/-- Elements of a pattern. -/
def elemTotal (p : Pattern) : Nat := p.levels.foldl (fun n lv => n * lv.1) 1

/-- Bytes of an element (R303). -/
def elemBytes (p : Pattern) : Nat := 2 ^ p.size

/-- A group's pattern for a queue: 0 to 3 for q0 to q3, 4 to 7 for s0q to s3q. -/
def patternOf (x : Group) (q : Nat) : Option Pattern := x.slice.patterns.find? fun p => p.queue == q

/-- One lane's element read as a relaxed load at .grp, and so naturally aligned (R184): the value, a failed check, or poison with its place. -/
def readElem (s : State) (g : Nat) (p : Pattern) (elem lane : Nat) : State × Except (Snag ⊕ Nat) Nat :=
  let a := elemAddr p elem lane
  let r := s.access (s.whoOf g) a (elemBytes p) true { write := false, fetch := false }
  match r.2 with
  | .error e => (r.1, .error (.inl e))
  | .ok ls =>
    let q := r.1.readLocs g a ls
    (q.1, q.2.map natOfBytes)

/-- Remote lines that an element's lanes need and that have not been brought. -/
def elemMissing (s : State) (g : Nat) (p : Pattern) (elem : Nat) (lanes : List Nat) : List (Nat × Nat) :=
  (lanes.flatMap fun l =>
    match (s.access (s.whoOf g) (elemAddr p elem l) (elemBytes p) true { write := false, fetch := false }).2 with
    | .error _ => []
    | .ok ls => s.missingLines g ls).eraseDups

/-- What reading an element in some lanes costs: host units of its walks, and bytes of host memory (R103). -/
def elemCost (s : State) (g : Nat) (p : Pattern) (elem : Nat) (lanes : List Nat) : Nat × Nat :=
  let r := lanes.foldl (fun (r : State × Nat) l =>
    let q := r.1.access (s.whoOf g) (elemAddr p elem l) (elemBytes p) true { write := false, fetch := false }
    match q.2 with
    | .error _ => (q.1, r.2)
    | .ok ls => (q.1, r.2 + (ls.filter fun l => l.home == .host).length)) (s, 0)
  (s.walkedUnits r.1 (s.group g).tenant, r.2)

/-- Host units that reading an element in some lanes costs (R103). -/
def elemUnits (s : State) (g : Nat) (p : Pattern) (elem : Nat) (lanes : List Nat) : Nat :=
  (s.elemCost g p elem lanes).1 + hostUnits (s.elemCost g p elem lanes).2

/-- Lanes whose elements the engine reads. -/
def sliceLanes (f : Flow) : List Nat := (List.range f.width).filter fun l => !f.absent.getLsbD (l / 4)

/-- The next element of an operand pattern read into its queue (R171), with the host bytes charged (R103). -/
def engineTake (s : State) (g q : Nat) : State :=
  match patternOf (s.group g) q with
  | none => s
  | some p =>
    let have_ := Map.get [] (s.group g).slice.queues q
    let f := (s.group g).flow
    if q ≥ 4 ∨ elemTotal p ≤ p.pos ∨ 32 ≤ have_.length then s
    else
      let r := (sliceLanes f).foldl (fun (r : State × Map Word × List Nat) l =>
        let x := r.1.readElem g p p.pos l
        match x.2 with
        | .ok v => (x.1, Map.put l (BitVec.ofNat 32 v) r.2.1, r.2.2)
        | .error _ => if f.helper.getLsbD l then (x.1, r.2.1, r.2.2) else (x.1, r.2.1, r.2.2 ++ [l])) (s, [], [])
      (r.1.chargeHost (s.group g).tenant (s.elemCost g p p.pos (sliceLanes f)).2).onGroup g fun x =>
        { x with slice :=
            { x.slice with
              patterns := x.slice.patterns.map fun (y : Pattern) => if y.queue = q then { y with pos := y.pos + 1 } else y
              queues := Map.put q (have_ ++ [({ elem := p.pos, vals := r.2.1, bad := maskOf r.2.2 } : QEntry)])
                x.slice.queues } }

/-- The engine fetches the next element of an operand pattern ahead, where nothing remote has to be brought and the HOST budget
covers it (R103, R171). -/
def engineFetch (s : State) (g q : Nat) : State :=
  match patternOf (s.group g) q with
  | none => s
  | some p =>
    let lanes := sliceLanes (s.group g).flow
    if s.elemMissing g p p.pos lanes ≠ [] then s
    else if s.elemUnits g p p.pos lanes ≠ 0 && !s.affordsHost (s.group g).tenant (s.elemUnits g p p.pos lanes) then s
    else s.engineTake g q

/-- A pop finds an element: in the queue, or still to be read (R171, R172). -/
def canPop (x : Group) (q : Nat) : Bool :=
  match patternOf x q with
  | none => false
  | some p => Map.get [] x.slice.queues q != [] || decide (p.pos < elemTotal p)

/-- A push finds an address (R172). -/
def canPush (x : Group) (q : Nat) : Bool :=
  match patternOf x (4 + q) with
  | none => false
  | some p => decide (p.pos < elemTotal p)

/-- The head entry of an operand queue is popped (R171). -/
def popQueue (s : State) (g q : Nat) : State × Option QEntry :=
  let s := if Map.get [] (s.group g).slice.queues q = [] then s.engineTake g q else s
  match Map.get [] (s.group g).slice.queues q with
  | [] => (s, none)
  | e :: rest =>
    (s.onGroup g fun x => { x with slice := { x.slice with queues := Map.put q rest x.slice.queues } }, some e)

/-- The element that a store queue's next push writes, and the state that has taken it. -/
def takePush (s : State) (g q : Nat) : State × Nat :=
  match patternOf (s.group g) (4 + q) with
  | none => (s, 0)
  | some p =>
    (s.onGroup g fun x =>
      { x with slice :=
          { x.slice with
            patterns := x.slice.patterns.map fun (y : Pattern) =>
              if y.queue = 4 + q then { y with pos := y.pos + 1 } else y } }, p.pos)

/-- Elements of a group's slice that have not been popped or pushed (R172). -/
def sliceLeft (x : Group) : Bool :=
  x.slice.used && x.slice.patterns.any fun p => decide (p.pos < elemTotal p) || Map.get [] x.slice.queues p.queue != []

end State

end Sys2Proof.Machine
end

