-- ==== Sys2Proof/Machine/Operands.lean ====
section
/-! DEFINITION. How an instruction begins and how its results are written: the checks of R252 in their order, the lanes
that take part (R308), the operand forms (R283 to R285, R309 to R311), the operand latch (R169) and the queues (R171). -/

namespace Sys2Proof.Machine

/-- A source field: 0 for A, 1 for B, 2 for C; its code; and the registers that one value occupies. -/
structure Src where
  fld : Nat
  opnd : Opnd
  n : Nat
  deriving DecidableEq, Repr

/-- What an instruction asks of the shared prologue: its sources in ascending field order, its destinations, whether it
is privileged to the present group, whether it names a tile or accumulator that is not bound, whether its lanes act on each
other or it acts once for the group, so that a replay performs all of them (R342, notes/assumptions/18.md), and whether its
part leaves it as one, so that it has its effect once every operand is known (R313). `early` is the CLAIMVIOL, DESCRIPTOR
or SPARSEMETA that the instruction takes on the operands known, before a fault of its queue operands (R252). -/
structure Ask where
  instr : Instr
  ctl : Ctl
  srcs : List Src
  dsts : List (Opnd × Nat)
  priv : Bool
  unheld : Bool
  cross : Bool
  joint : Bool := false
  early : State → Issue → Ctx → Option (BitVec 8) := fun _ _ _ => none

/-- Low bits of a number, 32 for each register that follows the first. -/
def wideOf (get : Nat → Word) (n : Nat) : Nat := ((List.range n).map fun i => (get i).toNat * 2 ^ (32 * i)).sum

/-- A special value in one lane (R284). -/
def specialValue (x : Group) (core part : Nat) (active : Lanes) (l : Nat) : Special → Nat
  | .laneid => l
  | .quadid => l / 4
  | .gwidth => x.flow.width
  | .zero => 0
  | .one => 1
  | .ones => 0xFFFFFFFF
  | .helper => if x.flow.helper.getLsbD l then 1 else 0
  | .fone => 0x3F800000
  | .fhalf => 0x3F000000
  | .finf => 0x7F800000
  | .actlo => active.toNat % 2 ^ 32
  | .acthi => active.toNat / 2 ^ 32
  | .flatid => x.flow.width * x.index + l
  | .coreid => core
  | .partid => part

/-- The queues that a list of sources names, each once (R171). -/
def queuesIn (srcs : List Src) : List Nat :=
  (srcs.filterMap fun s => match s.opnd with | .q n => some n.toNat | _ => none).eraseDups

/-- The store queues that the destinations name. -/
def pushesIn (dsts : List (Opnd × Nat)) : List Nat :=
  dsts.filterMap fun d => match d.1 with | .sq n => some n.toNat | _ => none

/-- A vector register that the group does not hold (R166). -/
def opndUnheld (granules : Nat) (o : Opnd) (n : Nat) : Bool :=
  match o with
  | .v k => decide (8 * granules < k.toNat + n)
  | _ => false

/-- A latch entry that is empty or expired (R169). -/
def latchBad (r : Regs) (o : Opnd) : Bool :=
  match o with
  | .latch n => decide (Map.get 0 r.latchAge n.val < 2)
  | _ => false

/-- Keys of the registers that an operand reads, in the lanes of a mask. -/
def readKeys (lanes : List Nat) (o : Opnd) (n : Nat) : List Nat := (destKeys o n lanes 0).map (·.1)

/-- The lanes in which the predicate holds (R281). -/
def predLanes (r : Regs) (c : Ctl) (lanes : Lanes) : Lanes :=
  maskOf ((laneList lanes).filter fun l => r.getP c.pred.toNat l != c.neg)

/-- The latch shifted, with a new l0 in every lane (R169). -/
def shiftLatch (r : Regs) (w : Nat) (f : Nat → Nat) : Regs :=
  let row (n : Nat) (get : Nat → Word) : Map Word := (List.range w).map fun l => (Regs.key n l, get l)
  { r with
    latch := row 0 (fun l => BitVec.ofNat 32 (f l)) ++ row 1 (fun l => r.getL 0 l) ++ row 2 (fun l => r.getL 1 l)
    latchAge := [(0, 4), (1, Map.get 0 r.latchAge 0), (2, Map.get 0 r.latchAge 1)].filter fun e => e.2 != 0 }

namespace State

/-- One operand in one lane (R283 to R285); a queue's value comes from the entry popped. -/
def readOpnd (s : State) (g : Nat) (x : Group) (active : Lanes) (popped : Nat → Option QEntry) (o : Opnd) (n l : Nat) :
    Option Nat :=
  match o with
  | .v k => some (wideOf (fun i => x.regs.getV (k.toNat + i) l) n)
  | .g k => some (wideOf (fun i => x.regs.getG (k.toNat + i)) n)
  | .p k => some (if x.regs.getP k.toNat l then 1 else 0)
  | .special sp => some (specialValue x (coreOf g) (((s.blockOf g).map (·.part)).getD 0) active l sp)
  | .const k => some k.toNat
  | .latch k => some (x.regs.getL k.val l).toNat
  | .q k =>
    match popped k.toNat with
    | none => some 0
    | some e => if e.bad.getLsbD l then none else some (Map.get 0 e.vals l).toNat
  | .sq _ => some 0

/-- Queue operands that have no value yet in some lanes are read again: the engine's read had faulted (R171, R258).
`elem` gives the element of a field. -/
def rereadQueues (s : State) (g : Nat) (srcs : List Src) (lanes : List Nat) (vals : Map Nat) :
    State × Map Nat × List LaneErr × List (Nat × Nat) :=
  srcs.foldl (fun (r : State × Map Nat × List LaneErr × List (Nat × Nat)) src =>
    match src.opnd with
    | .q k =>
      match patternOf (r.1.group g) k.toNat with
      | none => r
      | some p =>
        let elem := Map.get 0 r.2.1 (64 * (8 + src.fld))
        let due := lanes.filter fun l => (Map.find r.2.1 (64 * src.fld + l)).isNone
        let r := (r.1.chargeHost (s.group g).tenant (r.1.elemCost g p elem due).2, r.2)
        lanes.foldl (fun (r : State × Map Nat × List LaneErr × List (Nat × Nat)) l =>
          if (Map.find r.2.1 (64 * src.fld + l)).isSome then r
          else
            let q := r.1.readElem g p elem l
            match q.2 with
            | .ok v => (q.1, Map.put (64 * src.fld + l) v r.2.1, r.2.2)
            | .error (.inl e) => (q.1, r.2.1, r.2.2.1 ++ [laneErr l false e], r.2.2.2)
            | .error (.inr pl) => (q.1, r.2.1, r.2.2.1, r.2.2.2 ++ [(l, pl)])) r
    | _ => r) (s, vals, [], [])

/-- Elements of queue operands still to be read, with the lanes that need them: those of a replay's elements, or of the next
elements. -/
def elemsDue (s : State) (g : Nat) (srcs : List Src) (lanes : List Nat) (vals : Option (Map Nat)) :
    List (Pattern × Nat × List Nat) :=
  srcs.flatMap fun src =>
    match src.opnd with
    | .q k =>
      match patternOf (s.group g) k.toNat with
      | none => []
      | some p =>
        match vals with
        | some vs => [(p, Map.get 0 vs (64 * (8 + src.fld)), lanes.filter fun l => (Map.find vs (64 * src.fld + l)).isNone)]
        | none =>
          match Map.get [] (s.group g).slice.queues k.toNat with
          | [] => [(p, p.pos, sliceLanes (s.group g).flow)]
          | e :: _ => [(p, e.elem, lanes.filter fun l => e.bad.getLsbD l)]
    | _ => []

/-- What elements wait for before they can be read: remote lines that have not been brought, or the HOST budget (R103). -/
def elemsWait (s : State) (c : Issue) (es : List (Pattern × Nat × List Nat)) : Option State :=
  let need := (es.flatMap fun e => s.elemMissing c.gid e.1 e.2.1 e.2.2).eraseDups
  let units := (es.map fun e => s.elemUnits c.gid e.1 e.2.1 e.2.2).sum
  if need ≠ [] then some (s.peekOn c need)
  else if units ≠ 0 && !s.affordsHost (s.group c.gid).tenant units then some (s.blockOn c (.budget true units))
  else none

/-- The first of R252's conditions 4 to 8 that an instruction meets. -/
def entryFault (s : State) (c : Issue) (a : Ask) : Option (BitVec 8) :=
  let x := s.group c.gid
  let opnds := (a.srcs.map fun q => (q.opnd, q.n)) ++ a.dsts
  let lanes := laneList (quadLanes c.quads)
  let reads := (a.srcs.flatMap fun q => readKeys lanes q.opnd q.n) ++ readKeys lanes (.p a.ctl.pred) 1
  let hazard := ((s.blockOf c.gid).map (·.hazchk)).getD false &&
    x.ops.pend.any fun p => p.keys.any fun k => reads.contains k.1 && k.1 / 64 != 207
  let queues := queuesIn a.srcs
  let pushes := pushesIn a.dsts
  let mism := ((queues != [] || pushes != []) && !x.flow.whole) || !(queues.all fun q => canPop x q) ||
    !(pushes.all fun q => canPush x q)
  if a.priv then some 0x21
  else if a.unheld || opnds.any fun o => opndUnheld x.granules o.1 o.2 then some 0x22
  else if opnds.any fun o => latchBad x.regs o.1 then some 0x23
  else if hazard then some 0x24
  else if mism then some 0x25
  else none

/-- Lanes that read a poisoned register, each with one such register (R265). -/
def badRegs (s : State) (g : Nat) (a : Ask) (lanes : List Nat) : List (Nat × Nat) :=
  match (s.group g).regs.bad with
  | [] => []
  | bad => lanes.filterMap fun l =>
      ((a.srcs.flatMap fun q => readKeys [l] q.opnd q.n).find? fun k => bad.contains k).map fun k => (l, k)

/-- The head entries of some operand queues popped, one after another (R171). -/
def popAll (s : State) (g : Nat) (qs : List Nat) : State × List (Nat × QEntry) :=
  qs.foldl (fun (r : State × List (Nat × QEntry)) q =>
    let p := r.1.popQueue g q
    match p.2 with
    | none => (p.1, r.2)
    | some e => (p.1, r.2 ++ [(q, e)])) (s, [])

/-- The entry popped from a queue. -/
def poppedOf (ps : List (Nat × QEntry)) (q : Nat) : Option QEntry := (ps.find? fun e => e.1 == q).map (·.2)

/-- The operand values of every lane below W, keyed as a Capture keys them. -/
def operandVals (s : State) (c : Issue) (srcs : List Src) (popped : Nat → Option QEntry) : Map Nat :=
  srcs.flatMap fun src => (List.range (s.group c.gid).flow.width).filterMap fun l =>
    (s.readOpnd c.gid (s.group c.gid) c.active popped src.opnd src.n l).map fun v => (64 * src.fld + l, v)

/-- The elements popped, keyed as a Capture keys them. -/
def elemVals (srcs : List Src) (popped : Nat → Option QEntry) : Map Nat :=
  srcs.filterMap fun src =>
    match src.opnd with
    | .q k => (popped k.toNat).map fun e => (64 * (8 + src.fld), e.elem)
    | _ => none

/-- The hold bit puts operand A into the latch (R169). A lane whose element could not be read has none: zero in a helper
lane (R152), else a free value (notes/assumptions/5.md), which the replay replaces where the lane takes part. -/
def latchHold (s : State) (g : Nat) (hold : Bool) (vals : Map Nat) : State :=
  let f := (s.group g).flow
  let open_ := (List.range f.width).any fun l => (Map.find vals l).isNone
  let pick (l : Nat) : Nat := (Map.find vals l).getD (if f.helper.getLsbD l then 0 else (Config.freeBits (s.freeCount + l)).toNat)
  if hold then
    (if open_ then { s with freeCount := s.freeCount + f.width } else s).modRegs g fun r => shiftLatch r f.width pick
  else s

/-- A replay brings operand A of lanes whose element could not be read before: l0 takes it (R169, R258). -/
def latchLate (s : State) (g : Nat) (hold : Bool) (old vals : Map Nat) (lanes : List Nat) : State :=
  let now := lanes.filter fun l => (Map.find old l).isNone && (Map.find vals l).isSome
  if hold && now != [] then
    s.modRegs g fun r =>
      { r with latch := now.foldl (fun (m : Map Word) l => Map.put (Regs.key 0 l) (BitVec.ofNat 32 (Map.get 0 vals l)) m) r.latch }
  else s

/-- The key under which a capture keeps the element that a push writes. -/
def pushKey : Nat := 64 * 11

/-- The store queues that an instruction names take their next element, once for all lanes (R171). -/
def pushAll (s : State) (g : Nat) (qs : List Nat) (vals : Map Nat) : State × Map Nat :=
  qs.foldl (fun (r : State × Map Nat) q =>
    let p := r.1.takePush g q
    (p.1, Map.put pushKey p.2 r.2)) (s, vals)

/-- A trap of the instruction that is issuing, in the lanes that take part (R424). -/
def trapHere (s : State) (c : Issue) (x : Ctx) (cause : BitVec 8) : State :=
  s.trapNow c.gid cause x.part c.clause c.idx

/-- A replay begins (R258): names that the group no longer holds take UNHELD, queue operands whose element could not
be read are read again, and helper lanes are not performed again; they are performed with the others where none has been
performed yet (notes/assumptions/18.md). -/
def enterReplay (s : State) (a : Ask) (c : Issue) (cap : Capture) : Except State (State × Issue × Ctx) :=
  let g := c.gid
  let helper := (s.group g).flow.helper
  let opnds := (a.srcs.map fun q => (q.opnd, q.n)) ++ a.dsts
  if a.unheld || opnds.any fun o => opndUnheld (s.group g).granules o.1 o.2 then
    .error (s.trapNow g 0x22 cap.part c.clause c.idx)
  else
  match s.elemsWait c (s.elemsDue g a.srcs (laneList cap.left) (some cap.ops)) with
  | some t => .error t
  | none =>
    let r := s.rereadQueues g a.srcs (laneList cap.left) cap.ops
    let errs := r.2.2.1
    let bad := errLanes errs
    if errs.any fun e => fatalCause e.cause then .error (r.1.trapLanes g c.clause c.idx (s.restOf g cap.left) errs)
    else
      match r.2.2.2 with
      | (l, p) :: more => .error (r.1.consumePoison g (maskOf (l :: more.map (·.1))) c.clause c.idx p)
      | [] =>
        let s := r.1.latchLate g a.ctl.hold cap.ops r.2.1 (laneList cap.left)
        if errs ≠ [] ∧ (a.cross || a.joint) then
          .error (s.parkWhole c a.instr r.2.1 (if a.joint then bad else cap.left) errs)
        else
          let s := if errs = [] then s else s.parkLanes c a.instr r.2.1 cap.pend bad errs
          let lanes := if cap.stands then cap.left &&& ~~~bad else cap.left &&& ~~~bad &&& ~~~helper
          .ok (s, c, { lanes, contrib := lanes &&& ~~~helper, active := cap.left, vals := r.2.1, replay := some cap,
                       part := cap.part, late := bad })

/-- The operands of a first issue: pops, the read of what the engine could not read, pushes, and the latch (R169, R171,
R308). `lanes` take part. -/
def enterFirst (s : State) (a : Ask) (c : Issue) (lanes : Lanes) : Except State (State × Issue × Ctx) :=
  let g := c.gid
  let helper := (s.group g).flow.helper
  let pops := s.popAll g (queuesIn a.srcs)
  let popped := poppedOf pops.2
  let pushed := pops.1.pushAll g (pushesIn a.dsts) (keepLanes c (s.operandVals c a.srcs popped ++ elemVals a.srcs popped))
  let r := pushed.1.rereadQueues g a.srcs (laneList (lanes &&& ~~~helper)) pushed.2
  let errs := r.2.2.1
  let bad := errLanes errs
  let s := r.1.latchHold g a.ctl.hold r.2.1
  let now := lanes &&& ~~~bad
  let x : Ctx := { lanes := now, contrib := now &&& ~~~helper, active := c.active, vals := r.2.1, replay := none,
                   part := lanes, late := bad }
  match (if errs = [] then none else a.early s c x) with
  | some cause => .error (s.trapHere c x cause)
  | none =>
  if errs.any fun e => fatalCause e.cause then .error (s.trapLanes g c.clause c.idx (s.restOf g lanes) errs)
  else
    match r.2.2.2 with
    | (l, p) :: more => .error (s.consumePoison g (maskOf (l :: more.map (·.1))) c.clause c.idx p)
    | [] =>
      if errs ≠ [] ∧ (a.cross || a.joint) then
        .error (s.parkWhole c a.instr r.2.1 (if a.joint then bad else lanes) errs)
      else
        .ok (if errs = [] then s else s.parkLanes c a.instr r.2.1 0 bad errs, c, x)

/-- A malformed slice's cause at the group's first instruction: what the instruction takes by itself on the operands known
comes in the order of R252 (R303). -/
def sliceCause (s : State) (a : Ask) (c : Issue) (lanes : Lanes) : BitVec 8 :=
  let popped := poppedOf (s.popAll c.gid (queuesIn a.srcs)).2
  let srcs := a.srcs.filter fun q => match q.opnd with | .q k => (popped k.toNat).isSome | _ => true
  (a.early s c
    { lanes, contrib := lanes &&& ~~~(s.group c.gid).flow.helper, active := c.active,
      vals := keepLanes c (s.operandVals c srcs popped), replay := none, part := lanes, late := 0 }).getD 0x2C

/-- The start of every instruction of the seven classes: which group issues, the checks of R252, the lanes that take
part, and the operands, read once (R308). Answers the state alone when nothing is left to do. -/
def enter (s : State) (a : Ask) : Except State (State × Issue × Ctx) :=
  match s.cur with
  | none => .error s
  | some c =>
    let g := c.gid
    match c.replay with
    | some cap => s.enterReplay a c cap
    | none =>
      if !a.instr.wf then .error (s.trapNow g 0x20 c.active c.clause c.idx)
      else
        let lanes := if a.ctl.whole then c.active else predLanes (s.group g).regs a.ctl c.active
        match s.entryFault c a with
        | some cause => .error (s.trapNow g cause lanes c.clause c.idx)
        | none =>
          if (s.group g).slice.malformed then .error (s.trapNow g (s.sliceCause a c lanes) lanes c.clause c.idx)
          else
          match s.badRegs g a (laneList (lanes &&& ~~~(s.group g).flow.helper)) with
          | (l, k) :: more =>
            .error (s.consumePoison g (maskOf (l :: more.map (·.1))) c.clause c.idx (regPlace g k))
          | [] =>
          match s.elemsWait c (s.elemsDue g a.srcs (laneList (lanes &&& ~~~(s.group g).flow.helper)) none) with
          | some t => .error t
          | none => s.enterFirst a c lanes

/-- A push to a store queue waits while one to a peer has still to be answered: stores of one queue reach memory in push
order (R171). -/
def pushWaits (s : State) (g q : Nat) : Bool :=
  (s.group g).ops.captures.any fun k => k.out != 0 && Map.get 0 k.ops (64 * 13) == q + 1

/-- A value pushed to a store queue: a relaxed store of the pattern's element in every contributing lane (R171). -/
def pushStore (s0 s : State) (c : Issue) (i : Instr) (x : Ctx) (q : Nat) (f : Nat → Nat) : State :=
  match patternOf (s.group c.gid) (4 + q) with
  | none => s
  | some p =>
    if s.pushWaits c.gid q then s0.blockOn c .remote
    else
      let addr (l : Nat) : LaneAcc := { lane := l, va := elemAddr p (Map.get 0 x.vals pushKey) l }
      let all := (laneList (x.part &&& ~~~(s.group c.gid).flow.helper)).map addr
      let accs := (laneList x.contrib).map addr
      let ops := accs.foldl (fun (m : Map Nat) a => Map.put (64 * 12 + a.lane) a.va m) (Map.put (64 * 13) (q + 1) x.vals)
      s0.storeLanes s c i { x with vals := ops } all accs (elemBytes p) .grp (q + 1) fun l => bytesOf (elemBytes p) (f l)

/-- A register written in the lanes that are performed: a uniform one with the value of the lowest lane that takes part
(R311). -/
def putReg (s : State) (g : Nat) (x : Ctx) (o : Opnd) (n : Nat) (f : Nat → Nat) : State :=
  match o with
  | .g _ => if x.leads then s.writeNow g o n x.lanes f else s
  | _ => s.writeNow g o n x.lanes f

/-- A fixed-latency result (R291, R311). `s0` is the state before operands were read. -/
def putFixed (s0 s : State) (c : Issue) (i : Instr) (x : Ctx) (o : Opnd) (n : Nat) (f : Nat → Nat) : State :=
  match o with
  | .sq q => s0.pushStore s c i x q.toNat f
  | _ => s.putReg c.gid x o n f

/-- A variable-latency result whose values are known (R291, R311). -/
def putLater (s0 s : State) (c : Issue) (i : Instr) (x : Ctx) (kind : Kind) (o : Opnd) (n : Nat) (f : Nat → Nat) : State :=
  match o with
  | .sq q => s0.pushStore s c i x q.toNat f
  | _ => (s.result c x kind o n 0 0 f).1

/-- The instruction has set its part's counters itself. -/
def moved (s : State) : State := { s with cur := s.cur.map fun (c : Issue) => { c with adv := .moved } }

/-- The instruction has issued, and its part stays at it until its wait ends. -/
def staysHeld (s : State) : State := { s with cur := s.cur.map fun (c : Issue) => { c with adv := .held } }

/-- The instruction has not completed: its part stays at it. -/
def stayed (s : State) : State := { s with cur := s.cur.map fun (c : Issue) => { c with adv := .stay } }

end State

/-- The sources A, B and C of an instruction of layout type, each of `n` registers, in the fields it uses. -/
def srcsOf (os : List (Nat × Opnd × Nat)) : List Src := os.map fun o => { fld := o.1, opnd := o.2.1, n := o.2.2 }

/-- An instruction that needs no privilege and names no tile. -/
def ask (i : Instr) (ctl : Ctl) (srcs : List (Nat × Opnd × Nat)) (dsts : List (Opnd × Nat)) : Ask :=
  { instr := i, ctl, srcs := srcsOf srcs, dsts, priv := false, unheld := false, cross := false }

/-- What every meaning of the seven classes is: the shared start, and then the instruction's own effect. -/
def run (s : State) (a : Ask) (body : State → Issue → Ctx → State) : Host.Outcome State Fault Refusal :=
  match s.enter a with
  | .error t => .next t
  | .ok (t, c, x) => .next (body t c x)

/-- A fixed-latency instruction with one destination, computed lane by lane. -/
def fixedOp (s : State) (a : Ask) (o : Opnd) (n : Nat) (f : Ctx → Nat → Nat) : Host.Outcome State Fault Refusal :=
  run s a fun t c x => s.putFixed t c a.instr x o n (f x)

/-- A variable-latency instruction with one destination, computed lane by lane. -/
def laterOp (s : State) (a : Ask) (kind : Kind) (o : Opnd) (n : Nat) (f : Ctx → Nat → Nat) :
    Host.Outcome State Fault Refusal :=
  run s a fun t c x => s.putLater t c a.instr x kind o n (f x)

end Sys2Proof.Machine
end

