-- ==== Sys2Proof/Machine/Fetch.lean ====
section
/-! DEFINITION. Fetching and starting a clause (R252 items 1 to 3, R277 to R279, R314), debug stops (R273), and the
replay of a faulted fetch (R424). -/

namespace Sys2Proof.Machine

/-- Why words or descriptor bytes cannot be read: a failed check, poison at a place, remote lines still to come, or a
spent host budget (R103). -/
inductive Hitch where
  | snag (e : Snag)
  | poison (place : Nat)
  | remote (ks : List (Nat × Nat))
  | budget (units : Nat)
  deriving DecidableEq, Repr

/-- The hitch of a read. -/
def Hitch.of : Snag ⊕ Nat → Hitch
  | .inl e => .snag e
  | .inr p => .poison p

namespace State

/-! ### Debug stops (R273) -/

/-- The part that would issue next: the lowest next clause address, ties to the lowest quad (R160). -/
def nextPart (f : Flow) (ok : Part → Bool) : Option Part :=
  let ps := f.parts.filter ok
  match minNat (ps.map (·.pc)) with
  | none => none
  | some pc =>
    let at_ := ps.filter fun p => p.pc == pc
    match minNat (at_.map fun p => (quadsOf p.quads).headD 16) with
    | none => none
    | some q => at_.find? fun p => (quadsOf p.quads).headD 16 == q

/-- A part stands between clauses. -/
def betweenClauses (p : Part) : Bool := p.clause.isNone

/-- A part that is not held: it runs, or its LOOP may make its checks (R317); no fault parks its quads (R258). -/
def partReady (x : Group) (p : Part) : Bool :=
  (p.hold == .run || p.hold == .loopReady) && x.ops.captures.all fun k => !k.parked || k.quads &&& p.quads == 0

/-- The part whose clause a STEP issues (R274). -/
def stepsIn (x : Group) (p : Part) : Bool := !betweenClauses p && p.quads &&& x.iss.stepPart != 0

/-- The ready part that issues next: the lowest next clause address, ties to the lowest quad (R160). While a STEP's
clause is under way, only that clause's part does (R274). -/
def issuePart (x : Group) : Option Part :=
  nextPart x.flow fun p => partReady x p && (x.iss.stepping != 2 || stepsIn x p)

/-- The part that a DBGSTOP record names: the one that would issue next, or, where none is ready, the lowest (R160,
R424). -/
def stopPart (x : Group) : Option Part := (nextPart x.flow (partReady x)).or (nextPart x.flow fun _ => true)

/-- A group stops: one DBGSTOP record; with STOPALL every other group of the block part halts as well (R272, R273,
notes/assumptions/19.md). -/
def stopGroup (s : State) (g : Nat) (cause : Nat) : State :=
  let x := s.group g
  let p := stopPart x
  let lanes := (p.map fun p => x.flow.active &&& quadLanes p.quads).getD 0
  let pc := (p.map fun p => (p.clause.map (·.addr)).getD p.pc).getD 0
  let idx := ((p.bind fun p => p.clause).map (·.idx)).getD 0
  let s := s.oweGroup g (s.plainTrap g 0x50 lanes pc idx (BitVec.ofNat 64 cause)) false false
  let halt (s : State) (h : Nat) : State :=
    s.modIss h fun i => { i with stopped := some cause, stopAsked := false, stepping := 0 }
  let s := halt s g
  if (s.tenant x.tenant).dbg.stopall then
    match s.blockOf g with
    | none => s
    | some b => (b.groups.filter fun h => h != g && (s.group h).park != .draining && (s.group h).iss.stopped.isNone).foldl halt s
  else s

/-- The debug registers that bear on a group: its tenant's. -/
def dbgOf (s : State) (g : Nat) : Debug := (s.tenant (s.group g).tenant).dbg

/-- An enabled breakpoint matches a clause address (R272, R273). -/
def breakAt (d : Debug) (pc : Nat) : Bool := d.bp.any fun b => b.getLsbD 0 && slice b 56 2 * 4 == pc

/-- The stop before a part's next clause has been taken: the clause issues without another (R273). -/
def passedBreak (x : Group) (p : Part) : Bool := x.iss.skips.any fun k => k.1 &&& p.quads != 0 && k.2 == p.pc

/-- The stop before a part's next clause counts as taken, while the part stands there. -/
def passBreak (s : State) (g : Nat) (p : Part) : State :=
  s.modIss g fun i => { i with skips := (p.quads, p.pc) :: i.skips.filter fun k => k.1 &&& p.quads == 0 }

/-! ### Fetching words (R277, R314) -/

/-- Host units that reads from `s` to `t` have cost: walks, and the bytes themselves (R103). -/
def readUnits (s t : State) (g : Nat) (ls : List Loc) : Nat :=
  s.walkedUnits t (s.group g).tenant + hostUnits (ls.filter fun l => l.home == .host).length

/-- Bytes that have been checked, from `s` to `t`: the hitch that keeps them from being read now, or the state that reads
them, with host memory charged. -/
def readable (s t : State) (g : Nat) (ls : List Loc) : Except Hitch State :=
  let k := (s.group g).tenant
  match t.missingLines g ls with
  | x :: xs => .error (.remote (x :: xs))
  | [] =>
    let n := s.readUnits t g ls
    if n = 0 then .ok t
    else if !s.affordsHost k n then .error (.budget n)
    else .ok (t.chargeUnits k (hostUnits (ls.filter fun l => l.home == .host).length))

/-- The size of the next load of `n` bytes that are read in units of at most `unit` bytes. -/
def pieceSize (unit n : Nat) : Nat :=
  if 8 ≤ min unit n then 8 else if 4 ≤ min unit n then 4 else if 2 ≤ min unit n then 2 else 1

/-- Bytes read at issue as naturally aligned loads of at most `unit` bytes (R184, R342). `fuel` bounds the loads. -/
def readPieces (s : State) (g unit : Nat) : Nat → Nat → Nat → State × Except Hitch (List Byte)
  | 0, _, _ => (s, .ok [])
  | fuel + 1, a, n =>
    if n = 0 then (s, .ok [])
    else
      let m := pieceSize unit n
      let r := s.access (s.whoOf g) a m true { write := false, fetch := false }
      match r.2 with
      | .error e => (r.1, .error (.snag e))
      | .ok ls =>
        match s.readable r.1 g ls with
        | .error h => (s, .error h)
        | .ok t =>
          let q := t.readLocs g a ls
          match q.2 with
          | .error e => (q.1, .error (Hitch.of e))
          | .ok bs =>
            let t := q.1.readPieces g unit fuel (a + m) (n - m)
            (t.1, t.2.map fun more => bs ++ more)

/-- `n` bytes of a descriptor or list, read as relaxed loads at .grp of 8 bytes, the last ones smaller (R342, R353). -/
def readDesc (s : State) (g a n : Nat) : State × Except Hitch (List Byte) := s.readPieces g 8 n a n

/-- One code word, read through the group's translation as the home and the core's own dirty bytes hold it
(notes/assumptions/20.md). -/
def fetchWord (s : State) (g a : Nat) : State × Except Hitch Word :=
  let w := windowOf a
  let inside := decide (a < 2 ^ 57) && (w.1 == .global || (w.1 == .resident && (s.group g).role != .job))
  if !inside then (s, .error (.snag (Snag.plain 1 0x10 (a % 2 ^ 57))))
  else
    let r := s.access (s.whoOf g) a 4 true { write := false, fetch := true }
    match r.2 with
    | .error e => (r.1, .error (.snag e))
    | .ok ls =>
      match s.readable r.1 g ls with
      | .error h => (s, .error h)
      | .ok t =>
        match ls.find? fun l => (remoteLoc l).isNone && t.poisoned l.place with
        | some l => (t, .error (.poison l.place))
        | none =>
          if ls.any fun l => (remoteLoc l).isSome then
            let q := t.readLocs g a ls
            (q.1, match q.2 with
              | .ok bs => .ok (BitVec.ofNat 32 (natOfBytes bs))
              | .error e => .error (Hitch.of e))
          else
            let p := (ls.head?.map (·.place)).getD 0
            let q := (t.recallLine (p / 64)).engineBytes g (s.group g).tenant p 4
            (q.1, .ok (BitVec.ofNat 32 (natOfBytes q.2)))

/-- Several words in address order, up to the first that fails. -/
def fetchWords (s : State) (g : Nat) : Nat → Nat → State × Except Hitch (List Word)
  | _, 0 => (s, .ok [])
  | a, n + 1 =>
    let r := s.fetchWord g a
    match r.2 with
    | .error e => (r.1, .error e)
    | .ok w =>
      let q := r.1.fetchWords g (a + 4) n
      (q.1, q.2.map fun ws => w :: ws)

/-- The masks and lanes after every quad of a part has been taken through `step`. -/
def overPart (s : State) (g : Nat) (p : Part) (step : Nat → Flow × Regs → (Flow × Regs) × Go) :
    (Flow × Regs) × List (Nat × Go) :=
  (quadsOf p.quads).foldl (fun (a : (Flow × Regs) × List (Nat × Go)) q =>
    let o := step q a.1
    (o.1, a.2 ++ [(q, o.2)])) (((s.group g).flow, (s.group g).regs), [])

/-- A trap at the start of a clause (R424). For helper lanes alone none is raised (R152): the clause cannot issue for
them, and they exit (notes/assumptions/59.md). -/
def trapStart (s : State) (g : Nat) (quads : BitVec 16) (t : Trap) (remote : Bool := false) : State :=
  if s.helpersOnly g t.lanes then
    match (s.group g).flow.partOf? quads with
    | none => s
    | some p =>
      let r := s.overPart g p (exitQuad t.lanes)
      (s.modRegs g fun _ => r.1.2).commitFlow g (r.1.1.resplit { p with clause := none } r.2) (Flow.stuckOf r.2) t.clause t.idx
  else s.raiseFrom g t remote

/-- A STEP whose clause faults has ended: the group stops once its results are written (R274). -/
def faultStep (s : State) (g : Nat) : State :=
  if (s.group g).iss.stepping = 1 then (s.modIss g fun i => { i with stepping := 3 }).parkSwitch g else s

/-- A fetch that met a hitch: a record and the park of its part for a recoverable fault, a trap for another one (R252,
R254, R424). `again` holds what the replay performs where it is not the fetch itself: the LOOP whose header reads these
are (R317). -/
def fetchFault (s : State) (g : Nat) (quads : BitVec 16) (lanes : Lanes) (clause idx : Nat) (again : Option (Instr × Map Nat))
    (e : Hitch) : State :=
  match e with
  | .poison p =>
    if s.helpersOnly g lanes then s.trapStart g quads (s.plainTrap g 0x30 lanes clause idx 0)
    else s.consumePoison g lanes clause idx p
  | .remote ks => (s.sendPeeks g ks).onGroup g fun x => { x with park := .wait .peek }
  | .budget n => s.onGroup g fun x => { x with park := .wait (.budget true n) }
  | .snag e =>
    let t : Trap :=
      { cause := e.cause, lanes, done := s.restOf g lanes, va := e.va, entry := e.entry, level := e.level,
        detail := e.detail,
        write := false, fetch := true, clause, idx, stripe := e.stripe }
    if recoverable e.cause && !s.helpersOnly g lanes then
      let r := (s.oweGroup g t true e.remote).tick
      (r.1.modOps g fun o =>
        { o with peek := [], peekErr := [], captures := o.captures ++
            [({ id := r.2, instr := (again.map (·.1)).getD (.nop { ctl := { sw := false, hold := false, ext := false, pred := 15, neg := false } }),
                clause, idx, quads, part := lanes, left := lanes, ops := (again.map (·.2)).getD [], pend := 0, out := 0, errs := [],
                records := [], unwritten := 1, kill := false, fetch := again.isNone, parked := true } : Capture)] }).faultStep g
    else (s.trapStart g quads t e.remote).faultStep g

/-! ### Starting a clause -/

/-- An OP of a class that acts once for the group (R315, R317, R319, R341, R375, R399, R401 to R405). -/
def actsOnce (ecl op : Nat) : Bool :=
  match ecl with
  | 0 => [6, 7, 12, 14, 17].contains op || (decide (18 ≤ op) && decide (op ≤ 26))
  | 4 => decide (8 ≤ op) && decide (op ≤ 10)
  | 5 => decide (1 ≤ op) && decide (op ≤ 15)
  | 6 => op == 0 || op == 1 || op == 7
  | _ => false

/-- The lanes that an ILLENC of instruction `n` names: those in which the predicate of its extension word holds; all where
it acts once for the group (R308, R424). -/
def illegalLanes (s : State) (g : Nat) (active : Lanes) (ecl : Nat) (body : List Word) : Nat → Lanes
  | 0 =>
    match body with
    | w :: e :: _ =>
      if w.getLsbD 30 && !actsOnce ecl (slice w 28 24) then
        maskOf ((laneList active).filter fun l => (s.group g).regs.getP (slice e 31 28) l != e.getLsbD 27)
      else active
    | _ => active
  | n + 1 =>
    match body with
    | [] => active
    | w :: rest => s.illegalLanes g active ecl (if w.getLsbD 30 then rest.tail else rest) n

/-- A header reject names index 0 and every active lane. -/
def headerReject : Reject → Bool
  | .count | .engineClass | .reserved | .wordCount => true
  | _ => false

/-- A remote store or a remote reduction (R293). -/
def storeTag (t : Tag) : Bool :=
  match t.errand with
  | .store _ _ _ _ | .atomic _ 0 _ _ _ _ => true
  | _ => false

/-- Operations of the kinds that WAIT names are outstanding (R293). -/
def kindsOutstanding (s : State) (g : Nat) (w : BitVec 6) : Bool :=
  let x := s.group g
  let k := s.core (coreOf g)
  let has (i : Nat) : Bool := w.getLsbD i
  let pend (q : Kind) : Bool := x.ops.pend.any fun p => p.kind == q && !p.done
  let coll (b : Block) : Bool := s.svc.colls.any fun k => k.job == b.job && k.run == b.run && k.counted.contains g
  let tagged (p : Tag → Bool) : Bool := x.ops.tagged.any fun t => (Map.find s.fab.tags t).any p
  (has 5 && pend .ld) ||
  (has 4 && (k.store.any (fun e => e.gid == g) || x.ops.deltas != 0 || tagged storeTag ||
    x.ops.captures.any fun c => c.pend == 0 && !c.fetch)) ||
  (has 3 && (pend .mx || k.copies.any fun y => y.gid == g && y.kind == .mx)) ||
  (has 2 && pend .xl) ||
  (has 1 && (pend .fb || (s.blockOf g).any coll)) ||
  (has 0 && k.copies.any fun y => y.gid == g && y.kind == .as)

/-! ### The access slice (R170, R303) -/

/-- A signed 32-bit field of a list of bytes. -/
def sfield (bs : List Byte) (o : Nat) : Int := signedOf 32 (natOfBytes ((bs.drop o).take 4))

/-- One pattern descriptor, or none where it is malformed; `base` are the uniform registers at group start. -/
def parsePattern (base : Map Word) (bs : List Byte) : Option Pattern :=
  let w := natOfBytes ((bs.drop 8).take 4)
  let levels := nslice w 6 5 + 1
  let lv := (List.range 4).map fun k => (natOfBytes ((bs.drop (16 + 8 * k)).take 4), sfield bs (20 + 8 * k))
  let ok := nslice w 4 3 != 3 && nslice w 31 14 == 0 && (lv.take levels).all (fun v => v.1 != 0) &&
    (lv.drop levels).all fun v => v.1 == 0 && v.2 == 0
  if !ok then none
  else
    let start : Int := (natOfBytes (bs.take 8) : Nat)
    let add : Int := if w / 2 ^ 13 % 2 = 1 then signedOf 32 (Map.get (0 : Word) base (nslice w 12 7)).toNat else 0
    some { queue := nslice w 2 0, base := wrapInt 64 (start + add), size := nslice w 4 3, lstride := sfield bs 12,
           levels := lv.take levels, pos := 0 }

/-- The pattern that a malformed descriptor stands for until its slice's fault is taken: one element of its queue. -/
def anyPattern (bs : List Byte) : Pattern :=
  { queue := natOfBytes ((bs.drop 8).take 4) % 8, base := 0, size := 0, lstride := 0, levels := [], pos := 0 }

/-- The patterns of a slice, and that it is well formed. -/
def parseSlice (base : Map Word) (bs : List Byte) (n : Nat) : List Pattern × Bool :=
  let ds := (List.range n).map fun k => (bs.drop (48 * k)).take 48
  let ps := ds.map fun d => (parsePattern base d).getD (anyPattern d)
  (ps, ds.all (fun d => (parsePattern base d).isSome) && (ps.map (·.queue)).eraseDups.length == n)

/-- The read of a slice has met a hitch: what is waited for, or the fault or poison that is kept for the group's first
instruction (R303). -/
def sliceHitch (s : State) (g : Nat) : Hitch → State × Option Wait
  | .remote ks => (s.sendPeeks g ks, some .peek)
  | .budget n => (s, some (.budget true n))
  | .snag e => (s.onGroup g fun x => { x with slice := { x.slice with fault := some (laneErr 0 false e) } }, none)
  | .poison p => (s.onGroup g fun x => { x with slice := { x.slice with spoilt := some p } }, none)

/-- The slice of a group is read, unless a fault of that read is still to be taken: its patterns, and whether it is
malformed, in which case the patterns say only which queues have elements (R172, R303). Answers what the read waits
for. -/
def readSlice (s : State) (g : Nat) : State × Option Wait :=
  let x := (s.group g).slice
  let malformed (s : State) : State := s.onGroup g fun x => { x with slice := { x.slice with unread := none, malformed := true } }
  match x.unread with
  | none => (s, none)
  | some a =>
    if x.fault.isSome || x.spoilt.isSome then (s, none)
    else
      let h := s.readPieces g 4 8 a 8
      match h.2 with
      | .error e => h.1.sliceHitch g e
      | .ok hb =>
        let n := natOfBytes hb
        if n = 0 ∨ 8 < n then (malformed h.1, none)
        else
          let r := h.1.readPieces g 4 (48 * n) (a + 8) (48 * n)
          match r.2 with
          | .error e => r.1.sliceHitch g e
          | .ok bs =>
            let ps := parseSlice x.base bs n
            (r.1.onGroup g fun x =>
              { x with slice := { x.slice with unread := none, base := [], patterns := ps.1, malformed := !ps.2 } }, none)

/-- The fault that the read of a group's slice met is taken, as a fetch fault of its first clause; a replay reads the slice
afresh (R303, R424). -/
def takeSliceFault (s : State) (g : Nat) (p : Part) (lanes : Lanes) : Option State :=
  let x := (s.group g).slice
  match x.fault, x.spoilt with
  | some e, _ =>
    let s := s.onGroup g fun x => { x with slice := { x.slice with fault := none } }
    some (s.fetchFault g p.quads lanes p.pc 0 none
      (.snag { rank := 1, cause := e.cause, va := e.va, entry := e.entry, level := e.level, detail := e.detail,
               stripe := e.stripe, remote := e.remote }))
  | none, some q => some (s.fetchFault g p.quads lanes p.pc 0 none (.poison q))
  | none, none => none

/-- The WAIT bit of a kind (R293). -/
def kindBit : Kind → Nat
  | .ld => 5
  | .st => 4
  | .mx => 3
  | .xl => 2
  | .fb => 1
  | .as => 0

/-- Results that are wholly written and of a kind that was waited for leave the list (R293). -/
def dropKinds (s : State) (g : Nat) (w : BitVec 6) : State :=
  s.modOps g fun x => { x with pend := x.pend.filter fun p => !(p.done && w.getLsbD (kindBit p.kind)) }

/-- A trap for an illegal clause: its cause is ILLENC (R279, R424). -/
def illegal (s : State) (g : Nat) (p : Part) (lanes : Lanes) (idx : Nat) : State :=
  (s.trapStart g p.quads (s.plainTrap g 0x20 lanes p.pc idx 0)).faultStep g

/-- A part takes the clause that it has fetched; a STEP that waited for a clause has it (R274). -/
def takeClause (s : State) (g : Nat) (p : Part) (h : Header) (is : List Instr) : State :=
  s.onGroup g fun x =>
    { x with
      flow := x.flow.modPart p.quads fun y =>
        { y with clause := some { addr := p.pc, next := p.pc + 4 * (h.nw + 1), wait := h.wait, rgp := h.rgp, yld := h.yld,
                                  instrs := is, idx := 0 } }
      iss := { x.iss with skips := x.iss.skips.filter fun k => k.1 &&& p.quads == 0
                          stepping := if x.iss.stepping = 1 then 2 else x.iss.stepping
                          stepPart := if x.iss.stepping = 1 then p.quads else x.iss.stepPart }
      ops := { x.ops with peek := [], peekErr := [] } }

/-- Before a clause's first instruction issues, results that have come are written, and the group waits for the kinds that
WAIT names (R293). -/
def waitKinds (s : State) (g : Nat) (w : BitVec 6) : State :=
  if w = 0 then s
  else
    let s := (s.flushPend g).dropKinds g w
    if s.kindsOutstanding g w then s.onGroup g fun x => { x with park := .wait (.kinds w) } else s

/-- The words after a clause's header are fetched and decoded, and the clause is taken (R252 items 2 and 3, R279). -/
def fetchBody (s : State) (g : Nat) (p : Part) (lanes : Lanes) (h : Header) : State :=
  let q := s.fetchWords g (p.pc + 4) h.nw
  match q.2 with
  | .error e => q.1.fetchFault g p.quads lanes p.pc 0 none e
  | .ok body =>
    match decodeClause (s.group g).flow.width h body with
    | .error e =>
      let mask := if headerReject e then lanes else q.1.illegalLanes g lanes h.ecl body e.index
      q.1.illegal g p mask e.index
    | .ok is => (q.1.takeClause g p h is).waitKinds g h.wait

/-- The clause at a part's counter starts: debug stops, a fault of the group's slice, the fetch, the decode of the whole
clause, and its WAIT (R252, R273, R279, R293, R303). -/
def startClause (s : State) (g : Nat) (p : Part) : State :=
  let x := s.group g
  let d := s.dbgOf g
  let lanes := x.flow.active &&& quadLanes p.quads
  let breaks := d.en && !passedBreak x p
  let k := s.readSlice g
  if x.iss.stopAsked then s.stopGroup g 1
  else if breaks && breakAt d p.pc then (s.passBreak g p).stopGroup g 4
  else if k.2.isSome then k.1.onGroup g fun x => { x with park := (k.2.map Park.wait).getD .none }
  else
    let s := k.1
    let r := s.fetchWord g p.pc
    let stops := match r.2 with | .ok hw => breaks && hw.getLsbD 16 | .error _ => false
    if stops then (r.1.passBreak g p).stopGroup g 2
    else
      match s.takeSliceFault g p lanes with
      | some t => t
      | none =>
        match r.2 with
        | .error e => r.1.fetchFault g p.quads lanes p.pc 0 none e
        | .ok hw =>
          match Header.decode hw with
          | .error _ => r.1.illegal g p lanes 0
          | .ok h => r.1.fetchBody g p lanes h

/-- The WAIT bits of the clause that a group is to issue next, where it issues one (R155): none before a debug stop or
where the header cannot be read. -/
def waitBits (s : State) (g : Nat) : BitVec 6 :=
  let x := s.group g
  let d := s.dbgOf g
  match issuePart x with
  | none => 0
  | some p =>
    if !betweenClauses p || x.iss.stopAsked then 0
    else
      match (s.fetchWord g p.pc).2 with
      | .error _ => 0
      | .ok hw =>
        if d.en && !passedBreak x p && (breakAt d p.pc || hw.getLsbD 16) then 0
        else match Header.decode hw with
          | .error _ => 0
          | .ok h => h.wait

/-- A group that would issue is not ready while the WAIT bits of its next clause are not satisfied (R155): it waits, and
neither takes its sector's clk nor counts up. -/
def holdWaits (s : State) (g : Nat) : State :=
  let x := s.group g
  if x.park == .none && !x.iss.sw && x.iss.stopped.isNone && !x.ops.captures.any (fun k => k.parked && k.records == [] && k.unwritten == 0)
  then s.waitKinds g (s.waitBits g)
  else s

end State

end Sys2Proof.Machine
end

