-- ==== Sys2Proof/Machine/Start.lean ====
section
/-! DEFINITION. Job records (R116, R117, R153) and the start of a block part from a core's mailbox (R130, R131, R150,
R151, R167, R177, R237, R375, R402). -/

namespace Sys2Proof.Machine

/-! ### Job records (R116) -/

/-- Word k of a job record. -/
def recWord (r : List Byte) (k : Nat) : Nat := natOfBytes ((r.drop (8 * k)).take 8)

def recEntry (r : List Byte) : Nat := nslice (recWord r 0) 56 2 * 4
def recBlocks (r : List Byte) : Nat := nslice (recWord r 1) 39 37 + 1
def recPreload (r : List Byte) (i : Nat) : Bool := recWord r 1 / 2 ^ (13 + i) % 2 == 1
def recIdem (r : List Byte) : Bool := recWord r 1 / 16 % 2 == 1
def recTwin (r : List Byte) : Bool := recWord r 1 / 8 % 2 == 1
def recComm (r : List Byte) : Bool := recWord r 1 / 4 % 2 == 1
def recWidth (r : List Byte) : Nat := 16 * 2 ^ (recWord r 1 % 4)
def recBx (r : List Byte) : Nat := nslice (recWord r 2) 15 0
def recBy (r : List Byte) : Nat := nslice (recWord r 2) 31 16
def recSlice (r : List Byte) : Nat := nslice (recWord r 3) 56 2 * 4
def recFs (r : List Byte) (k : Nat) : DWord := BitVec.ofNat 64 (recWord r (8 + k))

/-- Byte `k` of the claims word: VBASE, VMAX, SBASE, SMAX, TBASE, TMAX, ABASE, AMAX for k = 0 to 7. -/
def recClaim (r : List Byte) (k : Nat) : Nat := recWord r 4 / 2 ^ (8 * k) % 256

/-- Cores of the cohort (R116). -/
def recCores (r : List Byte) : Nat := recBlocks r * State.coresPerBlock (State.threadsOf r)

/-- Threads of one part of the block (R150). -/
def partThreads (r : List Byte) (p : Nat) : Nat := min (State.threadsOf r) (8192 * (p + 1)) - 8192 * p

/-- Groups of one part. -/
def partGroups (r : List Byte) (p : Nat) : Nat := (partThreads r p + recWidth r - 1) / recWidth r

/-- The starting amounts and the maximum of a part (R173). -/
def partBase (r : List Byte) (p : Nat) : Units :=
  { v := partGroups r p * recWidth r * recClaim r 0, s := recClaim r 2, t := recClaim r 4, a := recClaim r 6 }
def partMax (r : List Byte) (p : Nat) : Units :=
  { v := partGroups r p * recWidth r * recClaim r 1, s := recClaim r 3, t := recClaim r 5, a := recClaim r 7 }

/-- A job record that R116 allows, with valid format slots (R233). -/
def recFormed (r : List Byte) : Bool :=
  let w (k : Nat) : Nat := recWord r k
  let t := State.threadsOf r
  decide (r.length = 128) &&
  nslice (w 0) 63 57 == 0 && nslice (w 0) 1 0 == 0 &&
  nslice (w 1) 63 40 == 0 && nslice (w 1) 36 25 == 0 && nslice (w 1) 12 5 == 0 && w 1 % 4 != 3 &&
  nslice (w 2) 63 48 == 0 && t != 0 && decide (t ≤ 32768) &&
  nslice (w 3) 63 57 == 0 && nslice (w 3) 1 0 == 0 &&
  decide (recClaim r 7 ≤ 16) && decide (recClaim r 5 ≤ 32) && decide (recClaim r 3 ≤ 128) && decide (recClaim r 1 ≤ 16) &&
  decide (recClaim r 6 ≤ recClaim r 7) && decide (recClaim r 4 ≤ recClaim r 5) && decide (recClaim r 2 ≤ recClaim r 3) &&
  decide (recClaim r 0 ≤ recClaim r 1) &&
  w 5 == 0 && w 6 == 0 && w 7 == 0 &&
  ((List.range 8).all fun k => fsValid (recFs r k)) &&
  decide (recCores r ≤ 8)

/-- The limits of R153: every part fits a core whose bank roles are not set. -/
def recFits (r : List Byte) : Bool :=
  let cap : Units := { v := Config.vecCapacity, s := 128, t := Config.tileCapacity, a := Config.accCapacity }
  (List.range (State.coresPerBlock (State.threadsOf r))).all fun p =>
    decide (partGroups r p ≤ Config.maxPartGroups) && (partBase r p).le cap && (partMax r p).le cap

/-- A job record that is valid at delivery (R117, R153). -/
def recValid (r : List Byte) : Bool := recFormed r && recFits r

namespace State

/-- The parts of a record fit the cores chosen for them, whose scratchpad capacity their bank roles give (R153, R173,
notes/assumptions/59.md). -/
def fitsRuns (s : State) (r : List Byte) (runs : List (List Nat)) : Bool :=
  let per := coresPerBlock (threadsOf r)
  runs.all fun run => (run.zip (List.range run.length)).all fun ck => (partMax r (ck.2 % per)).le (s.capacity ck.1)

/-! ### Admission (R130, R177) -/

/-- A part is reserved unless its job runs on one core and not under Chervil (R176). -/
def isReserved (k : EvEntry) : Bool := k.twin || decide (1 < recCores k.record)

/-- The account of a part that would start. -/
def newAccount (k : EvEntry) (p : Nat) : Account :=
  { key := 0, hold := if isReserved k then partMax k.record p else partBase k.record p, max := partMax k.record p,
    order := 2 ^ 64 }

/-- A change of a core's bank roles or of its role is pending: MBXPOP on it waits (R191). -/
def rolesPending (s : State) (c : Nat) : Bool := (s.core c).bankroleNew.isSome || (s.core c).roleChange

/-- The head entry of a core's mailbox may start (R177), and no change of bank roles is pending (R191). -/
def headAdmitted (s : State) (c : Nat) : Bool :=
  match (s.core c).mailbox with
  | [] => false
  | (e, _, _, p) :: _ =>
    let k := s.event e
    !s.rolesPending c &&
      decide (partGroups k.record p ≤ 257 - (s.groupsOn c).length) && s.safeAdmit c (newAccount k p)

/-! ### The start of a block part (R402) -/

/-- Preloaded registers of a group whose first thread is f0 (R167). -/
def preload (r : List Byte) (k : EvEntry) (core tenant rank part index f0 w : Nat) (quads : BitVec 16) (g : Regs) : Regs :=
  let lanes := (List.range w).filter fun l => quads.getLsbD (l / 4)
  let vec (g : Regs) (n : Nat) (f : Nat → Nat) : Regs :=
    if recPreload r n && recClaim r 0 != 0 then lanes.foldl (fun g l => g.setV n l (BitVec.ofNat 32 (f l))) g else g
  let uni (g : Regs) (i n x : Nat) : Regs := if recPreload r i then g.setG n (BitVec.ofNat 32 x) else g
  let bx := recBx r
  let bxy := recBx r * recBy r
  let g := vec g 0 fun l => f0 + l
  let g := vec g 1 fun l => (f0 + l) % bx
  let g := vec g 2 fun l => (f0 + l) / bx % recBy r
  let g := vec g 3 fun l => (f0 + l) / bxy
  let g := uni g 4 0 index
  let g := uni (uni (uni g 5 1 k.x) 6 2 k.y) 7 3 k.z
  let g := uni g 8 4 rank
  let g := uni g 9 5 (k.jobid.toNat % 2 ^ 32)
  let g := uni g 10 6 k.iter.toNat
  uni g 11 7 (core + 2 ^ 8 * tenant + 2 ^ 12 * part)

/-- One group of a part that starts (R150, R151, R237, R375). -/
def newGroup (r : List Byte) (k : EvEntry) (tenant key core rank part index placed : Nat) (accs : List Nat) : Group :=
  let w := recWidth r
  let f0 := w * index
  let flow := startFlow w (min w (threadsOf r - f0)) (recEntry r)
  let quads := (flow.parts.head?.map (·.quads)).getD 0
  let seed : Word := BitVec.ofNat 32 k.jobid.toNat
  let z := ((List.range w).filter fun l => quads.getLsbD (l / 4)).map fun l => (l, mixSeed seed (f0 + l))
  let regs :=
    { Regs.init with
      z, srseed := seed
      fs := ((List.range 8).map fun i => (i, recFs r i)).filter fun e => e.2 != 0
      acc := (List.range accs.length).map fun i => (i, accs.getD i 0) }
  { Group.init with
    role := .job, tenant, block := key, index, granules := recClaim r 0
    regs := preload r k core tenant rank part index f0 w quads regs
    flow
    slice :=
      if recSlice r = 0 then Slice.init
      else
        { Slice.init with used := true, unread := some (recSlice r)
                          base := (preload r k core tenant rank part index f0 w quads regs).g }
    iss := { Issuing.init with placed } }

/-- The head entry of a core's mailbox starts in the place of worker `worker`, which issues no more (R130, R131, R402). -/
def startPart (s : State) (c worker : Nat) : State :=
  match (s.core c).mailbox with
  | [] => s
  | (e, run, rank, p) :: rest =>
    let k := s.event e
    let r := k.record
    let s := { (s.noteBoundary c).modCore c fun x => { x with mailbox := rest } with cur := s.cur.filter fun c => c.gid != worker }
    let s := { s with groups := Map.del worker s.groups }
    let t := s.tick
    let key := t.2
    let n := partGroups r p
    let hi := match k.runs with
      | [a, b] => decide ((if run = 0 then b else a).headD 0 < (if run = 0 then a else b).headD 0)
      | _ => false
    let s := t.1.setBlock key
      { tenant := shareOf e, job := e, run, core := c, rank, part := p, bx := k.x, bY := k.y, bz := k.z, width := recWidth r,
        groups := [], ngroups := n, exited := 0, vdrop := 0, vmax := recClaim r 1, smax := recClaim r 3, tmax := recClaim r 5,
        amax := recClaim r 7, reserved := isReserved k, ended := false, dead := false, order := key, spad := [], tiles := [],
        accs := [], entry := recEntry r, hazchk := (s.tenant (shareOf e)).dbg.hazchk, twin := k.twin, twinHi := hi }
    let s := (s.giveSpad key (recClaim r 2)).giveTiles key (recClaim r 4)
    let a := s.giveAccs key (recClaim r 6)
    let first := 8192 * p / recWidth r
    let s := (List.range n).foldl (fun s i =>
      match s.freeEntry c with
      | none => s
      | some gid =>
        let t := s.tick
        let s := t.1.setGroup gid (newGroup r k (shareOf e) key c rank p (first + i) t.2 a.2)
        s.modBlock key fun b => { b with groups := b.groups ++ [gid] }) a.1
    let s := ((s.invalidate c).groups.filter fun x => x.2.role == .job && x.2.block == key).foldl
      (fun s x => (s.readSlice x.1).1) (s.invalidate c)
    if k.st = .mailed then s.modEvent e fun x => { x with st := .running } else s

end State

end Sys2Proof.Machine
end

