-- ==== Sys2Proof/Machine/Ready.lean ====
section
/-! DEFINITION. When a parked group goes on (R155, R192, R220, R259, R292, R293, R362, R366), and which group of a sector
issues (R155, R160). -/

namespace Sys2Proof.Machine

namespace State

/-! ### Objects in the scratchpad (R360, R365) -/

/-- PHASE of an async barrier object at a place (R360). -/
def barPhase (s : State) (p : Nat) : Nat := s.numAt (p + 12) 4

/-- Phase `p` has completed (R362). -/
def phaseDone (s : State) (obj : Nat) (p : BitVec 32) : Bool :=
  let d := (BitVec.ofNat 32 (s.barPhase obj) - p).toNat
  1 ≤ d && d < 2 ^ 31

def qHead (s : State) (p : Nat) : Nat := s.numAt p 4
def qTail (s : State) (p : Nat) : Nat := s.numAt (p + 4) 4
def qAllow (s : State) (p : Nat) : Nat := s.numAt (p + 12) 4

/-- Groups that wait at a queue object, oldest first (R367). -/
def qWaiters (s : State) (obj : Nat) (push : Bool) : List Nat :=
  ((s.cores.flatMap fun c => c.2.waiters).filter fun w => w.obj == obj && w.push == push).map (·.gid)

/-! ### Batches (R192) -/

/-- Every closed batch up to `n` is complete. -/
def batchDone (s : State) (g n : Nat) : Bool :=
  let x := s.group g
  let k := s.core (coreOf g)
  let last := x.ops.batch
  let n : Word := if (BitVec.ofNat 32 n - last).toNat < 2 ^ 31 then last else BitVec.ofNat 32 n
  x.ops.batchCopies.all fun e =>
    !decide ((n - BitVec.ofNat 32 e.1).toNat < 2 ^ 31) || !k.copies.any fun y => y.id == e.2

/-! ### Deferred remote faults (R259) -/

/-- The park waits for an operation of this capture (R259): a switch marker for results, WAIT for its kinds, and PBAR,
SFENCE, AWAIT, releases and fences for every operation. -/
def covers (w : Wait) (k : Capture) : Bool :=
  match w with
  | .switch | .units _ => k.pend != 0
  | .kinds m => if k.pend != 0 then m.getLsbD 5 else m.getLsbD 4
  | .remote | .response _ | .guarded | .deltas | .durable | .batch _ | .captures => true
  | _ => false

/-- Lanes whose packets ended with class V notices are recorded, and their replay is due after the records' resolution. -/
def reportErrs (s : State) (g : Nat) (sel : Capture → Bool) : State :=
  (s.group g).ops.captures.foldl (fun s k =>
    if k.out = 0 ∧ k.errs ≠ [] ∧ !k.parked ∧ sel k then
      let r := s.oweLanes g k.clause k.idx (errLanes k.errs) k.errs true
      r.1.modOps g fun o =>
        { o with captures := o.captures.map fun (x : Capture) =>
            if x.id = k.id then { x with errs := [], left := errLanes k.errs, unwritten := r.2, parked := true } else x }
    else s) s

/-- The park waits for this copy, which has failed (R192, R259, R293, R362, R370). -/
def coversCopy (s : State) (g : Nat) (w : Wait) (k : Copy) : Bool :=
  match w with
  | .batch n => (s.group g).ops.batchCopies.any fun e => e.2 == k.id && decide ((BitVec.ofNat 32 n - BitVec.ofNat 32 e.1).toNat < 2 ^ 31)
  | .kinds m => if k.kind = .mx then m.getLsbD 3 else m.getLsbD 0
  | .phase obj _ => k.barrier == some obj
  | .units _ => true
  | _ => false

/-- A group takes the failures of copies that it waits for: FABINDET for the lanes of the first, which ends its cohort (R358). -/
def reportCopies (s : State) (g : Nat) (sel : Copy → Bool) : State :=
  match (s.core (coreOf g)).copies.find? fun k => k.gid == g && k.failed && sel k with
  | none => s
  | some k =>
    let s := s.modCore (coreOf g) fun x => { x with copies := x.copies.filter fun y => !(y.gid == g && y.failed) }
    s.raiseFrom g (s.plainTrap g 0x32 k.lanes k.clause k.idx 0) true

/-! ### Waits -/

/-- The instruction is a load, which no fence of stores covers. -/
def isLoad : Instr → Bool
  | .ld _ | .lds _ | .ldv _ => true
  | _ => false

/-- A remote store to Pewter, or another write to a peer that the peer may guard (R213, R219). -/
def writeErrand (pewter : Bool) : Errand → Bool
  | .store _ _ _ p => p == pewter
  | .atomic _ _ _ _ _ _ => !pewter
  | _ => false

/-- A request of a group that brings or writes what a test names is outstanding. -/
def taggedAny (s : State) (g : Nat) (p : Errand → Bool) : Bool :=
  (s.group g).ops.tagged.any fun (t : Nat) =>
    match Map.find s.fab.tags t with
    | some k => p k.errand
    | none => false

/-- What SFENCE waits for (R220): deltas, multicasts, writes to peers, and writes whose lanes await their replay (R259). -/
def fenceDue (s : State) (g : Nat) : Bool :=
  (s.group g).ops.deltas != 0 || s.svc.multicasts.any (fun m => m.gid == g) || s.taggedAny g (writeErrand false) ||
    (s.group g).ops.captures.any fun k => !isLoad k.instr && !k.fetch && !k.pewter && (k.errs != [] || k.parked)

/-- What PBAR waits for besides the strict stores (R213): remote stores to Pewter, and those whose lanes await their replay
(R259). -/
def pewterDue (s : State) (g : Nat) : Bool :=
  s.taggedAny g (writeErrand true) || (s.group g).ops.captures.any fun k => k.pewter && (k.errs != [] || k.parked)

/-- The errand brings bytes that an operation reads for itself. -/
def isPeek : Errand → Bool
  | .peek _ _ => true
  | _ => false

/-- A record of an earlier ENQOP to a queue is on its way to a peer (R141). -/
def appending (s : State) (t q : Nat) : Bool :=
  s.fab.tags.any fun k => match k.2.errand with | .append _ _ t' q' => t' == t && q' == q | _ => false

/-- What a parked group waits for has happened. -/
def waitDone (s : State) (g : Nat) : Wait → Bool
  | .switch => (s.group g).ops.pend.all fun p => p.missing == 0
  | .kinds w => !s.kindsOutstanding g w
  | .remote | .response _ => s.remoteClear g none
  | .guarded => (s.group g).ops.deltas == 0
  | .deltas => !s.fenceDue g
  | .durable => !s.pewterDue g
  | .record => false
  | .batch n => s.batchDone g n
  | .phase obj p => s.phaseDone obj p
  | .qroom obj => s.qAllow obj != 0 && (s.qWaiters obj true).head? == some g
  | .qdata obj => s.qHead obj != s.qTail obj && (s.qWaiters obj false).head? == some g
  | .units _ => true
  | .copies => decide ((s.core (coreOf g)).copies.length < 4096)
  | .captures => decide (s.remoteCount g < 8)
  | .boundary i => !(s.tenant (s.group g).tenant).sor.under || (s.tenant (s.group g).tenant).sor.iter != i
  | .tlbinv => !(s.tenant (s.group g).tenant).tlbBusy
  | .bankrole => (s.core (coreOf g)).bankroleNew.isNone
  | .mailbox => ((s.core (coreOf g)).svcFlag.isSome && !s.rolesPending (coreOf g)) || s.headAdmitted (coreOf g)
  | .budget host n =>
    let t := (s.group g).tenant
    if host then s.affordsHost t n else s.affords t n
  | .pass => decide ((s.group g).iss.compares ≤ (s.group g).iss.passed)
  | .peek => !s.taggedAny g isPeek
  | .ring q => !s.appending (s.group g).tenant q

/-- Park a group as at a switch marker, where one waits for its other park to end (R292). -/
def switchDue (s : State) (g : Nat) : State :=
  if (s.group g).iss.sw && (s.group g).park == .none then
    (s.modIss g fun i => { i with sw := false }).onGroup g fun x => { x with park := .wait .switch }
  else s

/-- What the wait leaves to do when it ends: results are written, an acquire is performed. -/
def endWait (s : State) (g : Nat) (w : Wait) : State :=
  let s := s.onGroup g fun x => { x with park := .none }
  match w with
  | .switch => s.dropDone g
  | .kinds m => s.dropKinds g m
  | .response sc => s.acquire g sc
  | _ => s

/-- A parked group goes on if what it waits for has happened (R155). -/
def tryResume (s : State) (g : Nat) : State :=
  let s := match (s.group g).park with
    | .wait w =>
      let s := (s.reportErrs g (covers w)).reportCopies g (s.coversCopy g w)
      let s := match w with
        | .switch | .kinds _ | .remote | .response _ => s.flushPend g
        | _ => s
      if (s.group g).park == Park.wait w && s.waitDone g w then s.endWait g w else s
    | .yield [] _ => s.onGroup g fun x => { x with park := .none }
    | .draining => (s.reportErrs g fun _ => true).reportCopies g fun _ => true
    | _ => s
  s.switchDue g

/-- A sleeping group of a core wakes (R401). -/
def wakeCore (s : State) (c : Nat) : State :=
  (s.groupsOn c).foldl (fun s g =>
    s.onGroup g fun x => { x with park := if x.park = .sleep then .none else x.park }) s

/-! ### Readiness and choice (R155, R160) -/

/-- A replay that is due: every record has been written and resolved (R258). -/
def replayDue (x : Group) : Option Capture :=
  x.ops.captures.find? fun k => k.parked && k.records == [] && k.unwritten == 0

/-- A replay issues next; while the clause of a STEP is under way, or has ended, none does (R274). -/
def replayNext (x : Group) : Bool := (replayDue x).isSome && decide (x.iss.stepping < 2)

/-- A group that may issue. -/
def groupReady (s : State) (g : Nat) : Bool :=
  let x := s.group g
  x.iss.stopped.isNone &&
    (replayNext x ||
      (x.park == .none && !x.iss.sw && x.iss.stepping != 3 && (issuePart x).isSome))

/-- The sector of a group entry (R153). -/
def sectorOf (g : Nat) : Nat := g / 16

/-- Groups of a sector, in the order of choice among those that are not promoted. -/
def sectorGroups (s : State) (sec : Nat) : List Nat := (Map.keys s.groups).filter fun g => sectorOf g == sec

/-- The group with the least value of a measure. -/
def leastBy (f : Nat → Nat) : List Nat → Option Nat
  | [] => none
  | g :: gs =>
    match leastBy f gs with
    | none => some g
    | some h => some (if f g ≤ f h then g else h)

/-- The choice of R155 among ready groups: promoted ones in the order of their promotion, else the earliest-placed; a group
whose last clause hinted a yield is passed over in this clk (R278). -/
def choose (s : State) (gs : List Nat) : Option Nat :=
  let gs := gs.filter fun g => !(s.group g).iss.yielded
  let placed (g : Nat) : Nat := (s.group g).iss.placed
  let up := gs.filter fun g => (s.group g).iss.promoted.isSome
  if up ≠ [] then leastBy (fun g => ((s.group g).iss.promoted.getD 0) * 2 ^ 64 + placed g) up else leastBy placed gs

end State

end Sys2Proof.Machine
end

