-- ==== Sys2Proof/Machine/Chervil.lean ====
section
/-! DEFINITION. Operations that force a compare point of a twin job (R210, R266, R267; notes/assumptions/21.md). -/

namespace Sys2Proof.Machine

namespace State

/-- The chunks of a forcing operation: one for each active lane, with operands A and B (R266). -/
def signForced (s : State) (c : Issue) (x : Ctx) : State :=
  s.modIss c.gid fun i =>
    { i with sig := (laneList x.first).foldl (fun sig l =>
        crcChunk sig (c.clause + 2 ^ 60 * c.idx) 0xFFFF (bytesOf 8 (x.val 0 l) ++ bytesOf 8 (x.val 1 l))) i.sig }

/-- A replay of an instruction of which some lanes have been performed: it has had its compare point (R258). -/
def partlyDone (x : Ctx) : Bool := x.replay.any fun k => !k.stands

/-- An operation of the last row of R210: in a twin group it waits at a compare point first. With mode 1 the lower copy
performs it for both, with mode 2 each copy performs its own. `s0` is the state before operands were read, and `sign`
adds what else the operation puts into the signature. -/
def force (s0 s : State) (c : Issue) (x : Ctx) (mode : Nat) (sign : State → State) (k : State → State) : State :=
  let g := c.gid
  let again (t : State) : State := { t with cur := some { c with adv := .stay } }
  if !s.isTwin g || partlyDone x then k s
  else if (s.group g).iss.forced = 0 then
    let s1 := sign (s0.signForced c x)
    again ((s1.modIss g fun i => { i with forced := mode }).comparePoint g)
  else if (s.group g).iss.passed < (s.group g).iss.compares then again s0
  else if (s.group g).iss.forced = 1 && s.higherTwin g then s
  else k s

/-- The group that issues is a twin: an operation of the last row of R210 then acts once all of its operands are known
(R266). -/
def issuesTwin (s : State) : Bool := s.cur.any fun c => s.isTwin c.gid

/-- A forced operation of a group is complete: the lower copy lets the higher one go on (R267). -/
def endForced (s : State) (g : Nat) : State :=
  if (s.group g).iss.forced = 0 then s
  else
    let s := s.modIss g fun i => { i with forced := 0 }
    if s.higherTwin g then s
    else
      match s.twinOf g with
      | none => s
      | some h => s.modIss h fun i => { i with passed := i.compares }

end State

end Sys2Proof.Machine
end

