-- ==== Sys2Proof/Machine/Engine.lean ====
section
/-! DEFINITION. The asynchronous engines: whole-range checks at issue (R356, R358), pieces, ownership (R207), and the
copies that wait to be written (R192, R208). -/

namespace Sys2Proof.Machine

/-- A checked range: its pages in address order, each with its first address, its length and its place. -/
abbrev Extent := List (Nat × Nat × Loc)

/-- The place of one address of a range, and the bytes of its page from there on. -/
def Extent.find (e : Extent) (a : Nat) : Option (Loc × Nat) :=
  match e.find? fun p => decide (p.1 ≤ a) && decide (a < p.1 + p.2.1) with
  | none => none
  | some (b, n, l) => some (l.plus (a - b), b + n - a)

/-- Pieces that write `n` bytes from `dst` on, none across a destination line, operand row or source page; `fuel` bounds
them. -/
def piecesOf (src dst : Extent) (bytes : Option (List Byte)) (mark sa da : Nat) : Nat → Nat → Nat → List CopySeg
  | 0, _, _ => []
  | fuel + 1, o, n =>
    if n = 0 then []
    else
      match dst.find (da + o) with
      | none => []
      | some (l, room) =>
        let m := min n (min room (State.unitSize l.place - l.place % State.unitSize l.place))
        match bytes with
        | some bs =>
          { src := mark, lit := some ((bs.drop o).take m), dst := l.place, len := m } ::
            piecesOf src dst bytes mark sa da fuel (o + m) (n - m)
        | none =>
          match src.find (sa + o) with
          | none => []
          | some (k, have_) =>
            let m := min m have_
            { src := k.place, lit := none, dst := l.place, len := m } ::
              piecesOf src dst bytes mark sa da fuel (o + m) (n - m)

namespace State

/-- A whole range checked at issue (R183, R253, R358): the pages that passed, and the failures. A peer page takes
PAGEATTR (R356). -/
def checkRange (s : State) (g : Nat) (lane a n : Nat) (write : Bool) : State × Extent × List LaneErr :=
  if n = 0 then (s, [], [])
  else
    let w := s.whoOf g
    match s.addressFault w a n with
    | some e => (s, [], [laneErr lane write e])
    | none =>
      let r := s.rangePages w { write, fetch := false, ban := .peer } (n / 16384 + 2) a n
      r.2.foldl (fun (q : State × Extent × List LaneErr) p =>
        match p.2.2 with
        | .error e => (q.1, q.2.1, q.2.2 ++ [laneErr lane write e])
        | .ok l => (q.1, q.2.1 ++ [(p.1, p.2.1, l)], q.2.2)) (r.1, [], [])

/-- Lines of the global window that pieces write: those that an engine owns (R207, R208). -/
def ownedLines (segs : List CopySeg) : List Nat :=
  ((segs.filter fun k => match placeHome k.dst with | .hbm | .pewter | .host => true | _ => false).map fun k =>
    k.dst / 64).eraseDups

/-- Ownership of lines taken at issue: earlier owners finish, and the core's own dirty bytes go home first (R207). -/
def takeLines (s : State) (g : Nat) (lines : List Nat) : State :=
  lines.foldl (fun s line =>
    let s := ((s.drainLine g line).writeBack (coreOf g) line).recallLine line
    let s := s.dropLine (coreOf g) line
    { s with owned := insertNat line s.owned }) s

/-- Stores of a group to vault lines that an engine is to write leave the store buffer first: they come before the copy in
program order (R192, R196). -/
def drainVault (s : State) (g : Nat) (segs : List CopySeg) : State :=
  ((segs.filter fun k => placeHome k.dst == .vault).map fun k => k.dst / 64).eraseDups.foldl (fun s line => s.drainLine g line) s

/-- An engine operation enters the core's list (R192, R358). `kind` is `as` for ACPY and TCPY and `mx` for AST;
`lanes` are those whose pieces it moves. -/
def startCopy (s : State) (g : Nat) (kind : Kind) (segs : List CopySeg) (barrier : Option Nat) (slots : List Nat)
    (lanes : Lanes) : State :=
  let at_ := (s.cur.map fun c => (c.clause, c.idx)).getD (0, 0)
  let lines := ownedLines segs
  let r := ((s.drainVault g segs).takeLines g lines).tick
  let k : Copy :=
    { id := r.2, gid := g, kind, segs, barrier, lines, pewter := segs.any fun x => placeHome x.dst == .pewter,
      tileSlots := slots, lanes, clause := at_.1, idx := at_.2, failed := false }
  let s := r.1.modCore (coreOf g) fun c => { c with copies := c.copies ++ [k] }
  if kind = .as then s.modOps g fun o => { o with openCopies := o.openCopies ++ [r.2] } else s

/-- A piece that reads or writes host memory. -/
def hostPiece (k : CopySeg) : Bool := placeHome k.dst == .host || (k.lit.isNone && placeHome k.src == .host)

/-- The host link, or an error on a host read, fails a copy that still has host memory to reach: nothing more of it is moved, its
lines are released, and its lane takes FABINDET where its group next waits for it (R207, R358, R259;
notes/assumptions/65.md). -/
def failCopy (s : State) (c id : Nat) : State :=
  match (s.core c).copies.find? fun k => k.id == id with
  | none => s
  | some k =>
    if k.segs.any hostPiece then
      { s.modCore c fun x =>
          { x with copies := x.copies.map fun (y : Copy) => if y.id = id then { y with segs := [], lines := [], failed := true } else y }
        with owned := s.owned.filter fun l => !k.lines.contains l }
    else s

/-- Units of host memory that pieces move (R103). -/
def segUnits (segs : List CopySeg) : Nat :=
  let host (p : Nat) : Bool := placeHome p == .host
  hostUnits (segs.map fun k => (if host k.dst then k.len else 0) + if k.lit.isNone && host k.src then k.len else 0).sum

/-- Host bytes that pieces move, charged to the tenant (R103). -/
def chargeSegs (s : State) (g : Nat) (segs : List CopySeg) : State :=
  if segUnits segs = 0 then s else s.chargeUnits (s.group g).tenant (segUnits segs)

/-- Room for `n` more outstanding requests (R358). What counts as one of a core's 4,096 outstanding requests the spec does
not say (R4): engine operations do here (notes/assumptions/60.md). -/
def copyRoom (s : State) (g n : Nat) : Bool := decide ((s.core (coreOf g)).copies.length + n ≤ 4096)

/-- What `n` engine operations, checked from `s` to `t`, wait for before they issue: room for outstanding requests, or the
HOST budget of their walks and pieces (R103, R358). -/
def engineWait (s t : State) (g n units : Nat) : Option Wait :=
  let k := (s.group g).tenant
  let all := s.walkedUnits t k + units
  if !t.copyRoom g n then some .copies
  else if all ≠ 0 && !s.affordsHost k all then some (.budget true all)
  else none

/-- The place of an object in the scratchpad or cohort window at an alignment, or the cause of the trap (R356, R360,
R365). -/
def objectPlace (s : State) (g a align : Nat) : Except (BitVec 8) Nat :=
  if a % align ≠ 0 ∨ 2 ^ 57 ≤ a then .error 0x2C
  else
    match (windowOf a).1 with
    | .spad | .cohort => (s.windowLoc (s.whoOf g) a).map (·.place)
    | _ => .error 0x2C

/-- Bytes of a checked range, in address order, as an engine reads them. -/
def extentBytes (s : State) (g : Nat) (e : Extent) : State × List Byte :=
  e.foldl (fun (r : State × List Byte) p =>
    let q := r.1.engineBytes g (s.group g).tenant p.2.2.place p.2.1
    (q.1, r.2 ++ q.2)) (s, [])

end State

end Sys2Proof.Machine
end

