-- ==== Sys2Proof/Machine/Integer.lean ====
section
/-! DEFINITION. The INT instructions (R321 to R327): exact integer arithmetic, then one reduction (R225). -/

namespace Sys2Proof.Machine

/-- The low N bits of an operand as an integer: signed for .s types, unsigned otherwise (R310, R321). -/
def readInt (t : Ty) (v : Nat) : Int := if t.isSigned then signedOf t.bits v else (v % 2 ^ t.bits : Nat)

/-- A result reduced modulo 2^N and extended to 32 bits (R310, R321). -/
def writeInt (t : Ty) (r : Int) : Nat :=
  let w := wrapInt t.bits r
  if t.bits < 32 then (if t.isSigned then wrapInt 32 (signedOf t.bits w) else w) else w

/-- The least and the greatest value of a type. -/
def tyMin (t : Ty) : Int := if t.isSigned then -((2 ^ (t.bits - 1) : Nat) : Int) else 0
def tyMax (t : Ty) : Int := if t.isSigned then ((2 ^ (t.bits - 1) : Nat) : Int) - 1 else ((2 ^ t.bits : Nat) : Int) - 1

/-- A result wrapped, or saturated with .sat (R321). -/
def satInt (t : Ty) (sat : Bool) (r : Int) : Nat := writeInt t (if sat then clampInt r (tyMin t) (tyMax t) else r)

/-- SHL, SHR, SAR and ROT of N-bit values by s = B[7:0] (R322). -/
def shiftLeft (n a s : Nat) : Nat := if n ≤ s then 0 else a * 2 ^ s % 2 ^ n
def shiftRight (n a s : Nat) : Nat := if n ≤ s then 0 else a % 2 ^ n / 2 ^ s
def shiftArith (n a s : Nat) : Nat := wrapInt n (signedOf n a / ((2 ^ min s n : Nat) : Int))
def rotateLeft (n a s : Nat) : Nat :=
  let k := s % n
  (a % 2 ^ n * 2 ^ k + a % 2 ^ n / 2 ^ (n - k)) % 2 ^ n

/-- Leading zero bits of an N-bit value (R322). -/
def leadingZeros (n a : Nat) : Nat := if a % 2 ^ n = 0 then n else n - 1 - Nat.log2 (a % 2 ^ n)

/-- The bits of an N-bit value in the opposite order (R322). -/
def bitReverse (n a : Nat) : Nat := ((List.range n).map fun i => if a / 2 ^ i % 2 = 1 then 2 ^ (n - 1 - i) else 0).sum

/-- Position and width of a bit field (R323). -/
def fieldPos (n x : Nat) : Nat := min (x % 256) n
def fieldWid (n x : Nat) : Nat := min (x / 256 % 256) (n - fieldPos n x)

/-- BFX (R323). -/
def bitExtract (t : Ty) (a x : Nat) : Nat :=
  let n := t.bits
  let wid := fieldWid n x
  let f := a % 2 ^ n / 2 ^ fieldPos n x % 2 ^ wid
  if wid = 0 then 0 else if t.isSigned then wrapInt n (signedOf wid f) else f

/-- BFI (R323). -/
def bitInsert (n field base x : Nat) : Nat :=
  let pos := fieldPos n x
  let mask := ((2 ^ fieldWid n x - 1) * 2 ^ pos) % 2 ^ n
  let b := base % 2 ^ n
  (b - (b &&& mask)) + ((field * 2 ^ pos) % 2 ^ n &&& mask)

/-- Bitwise operations on N-bit values (R322). -/
def bitAndNot (n a b : Nat) : Nat := a % 2 ^ n - (a % 2 ^ n &&& b)

namespace Alu

/-- A and B of `n` registers each. -/
def two (o : Alu) (n : Nat) : List (Nat × Opnd × Nat) := [(0, o.a, n), (1, o.b, n)]

/-- A, B and C of `n` registers each. -/
def three (o : Alu) (n : Nat) : List (Nat × Opnd × Nat) := [(0, o.a, n), (1, o.b, n), (2, o.c, n)]

end Alu

/-- An integer instruction of two operands and one destination of its type. -/
def intBinary (i : Instr) (o : Alu) (f : Ty → Int → Int → Nat) (s : State) : Host.Outcome State Fault Refusal :=
  let t := o.ty.orElse .s32
  fixedOp s (ask i o.ctl (Alu.two o t.regs) [(o.d, t.regs)]) o.d t.regs fun x l =>
    f t (readInt t (x.val 0 l)) (readInt t (x.val 1 l))

/-- A bitwise instruction of two operands and one destination of its type. -/
def bitBinary (i : Instr) (o : Alu) (nb : Nat) (f : Nat → Nat → Nat → Nat) (s : State) : Host.Outcome State Fault Refusal :=
  let t := o.ty.orElse .b32
  fixedOp s (ask i o.ctl [(0, o.a, t.regs), (1, o.b, if nb = 0 then t.regs else nb)] [(o.d, t.regs)]) o.d t.regs fun x l =>
    f t.bits (x.val 0 l) (x.val 1 l)

/-- IADD (R321). -/
def execIadd (o : Alu) (s : State) : Host.Outcome State Fault Refusal :=
  intBinary (.iadd o) o (fun t a b => satInt t (o.sub == 1) (a + b)) s

/-- ISUB (R321). -/
def execIsub (o : Alu) (s : State) : Host.Outcome State Fault Refusal :=
  intBinary (.isub o) o (fun t a b => satInt t (o.sub == 1) (a - b)) s

/-- IMUL (R321). -/
def execImul (o : Alu) (s : State) : Host.Outcome State Fault Refusal :=
  intBinary (.imul o) o (fun t a b => writeInt t (a * b)) s

/-- IMULH (R321). -/
def execImulh (o : Alu) (s : State) : Host.Outcome State Fault Refusal :=
  intBinary (.imulh o) o (fun t a b => writeInt t (a * b / ((2 ^ t.bits : Nat) : Int))) s

/-- IMAD (R321). -/
def execImad (o : Alu) (s : State) : Host.Outcome State Fault Refusal :=
  let t := o.ty.orElse .s32
  fixedOp s (ask (.imad o) o.ctl (Alu.three o t.regs) [(o.d, t.regs)]) o.d t.regs fun x l =>
    writeInt t (readInt t (x.val 0 l) * readInt t (x.val 1 l) + readInt t (x.val 2 l))

/-- IABS (R321). -/
def execIabs (o : Alu) (s : State) : Host.Outcome State Fault Refusal :=
  let t := o.ty.orElse .s32
  fixedOp s (ask (.iabs o) o.ctl [(0, o.a, t.regs)] [(o.d, t.regs)]) o.d t.regs fun x l =>
    satInt t (o.sub == 1) ((readInt t (x.val 0 l)).natAbs : Int)

/-- IMIN (R321). -/
def execImin (o : Alu) (s : State) : Host.Outcome State Fault Refusal :=
  intBinary (.imin o) o (fun t a b => writeInt t (if a ≤ b then a else b)) s

/-- IMAX (R321). -/
def execImax (o : Alu) (s : State) : Host.Outcome State Fault Refusal :=
  intBinary (.imax o) o (fun t a b => writeInt t (if a ≤ b then b else a)) s

/-- AND (R322). -/
def execAnd (o : Alu) (s : State) : Host.Outcome State Fault Refusal :=
  bitBinary (.and o) o 0 (fun n a b => (a &&& b) % 2 ^ n) s

/-- OR (R322). -/
def execOr (o : Alu) (s : State) : Host.Outcome State Fault Refusal :=
  bitBinary (.or o) o 0 (fun n a b => (a ||| b) % 2 ^ n) s

/-- XOR (R322). -/
def execXor (o : Alu) (s : State) : Host.Outcome State Fault Refusal :=
  bitBinary (.xor o) o 0 (fun n a b => (a ^^^ b) % 2 ^ n) s

/-- ANDN (R322). -/
def execAndn (o : Alu) (s : State) : Host.Outcome State Fault Refusal := bitBinary (.andn o) o 0 bitAndNot s

/-- SHL (R322): B is 32 bits, s = B[7:0]. -/
def execShl (o : Alu) (s : State) : Host.Outcome State Fault Refusal :=
  bitBinary (.shl o) o 1 (fun n a b => shiftLeft n a (b % 256)) s

/-- SHR (R322). -/
def execShr (o : Alu) (s : State) : Host.Outcome State Fault Refusal :=
  bitBinary (.shr o) o 1 (fun n a b => shiftRight n a (b % 256)) s

/-- SAR (R322). -/
def execSar (o : Alu) (s : State) : Host.Outcome State Fault Refusal :=
  bitBinary (.sar o) o 1 (fun n a b => shiftArith n a (b % 256)) s

/-- ROT (R322). -/
def execRot (o : Alu) (s : State) : Host.Outcome State Fault Refusal :=
  bitBinary (.rot o) o 1 (fun n a b => rotateLeft n a (b % 256)) s

/-- A count of an operand's bits, written as 32 bits (R322). -/
def bitCount (i : Instr) (o : Alu) (f : Nat → Nat → Nat) (s : State) : Host.Outcome State Fault Refusal :=
  let t := o.ty.orElse .s32
  fixedOp s (ask i o.ctl [(0, o.a, t.regs)] [(o.d, 1)]) o.d 1 fun x l => f t.bits (x.val 0 l)

/-- POPC (R322). -/
def execPopc (o : Alu) (s : State) : Host.Outcome State Fault Refusal := bitCount (.popc o) o (fun n a => popCount n a) s

/-- CLZ (R322). -/
def execClz (o : Alu) (s : State) : Host.Outcome State Fault Refusal := bitCount (.clz o) o leadingZeros s

/-- BREV (R322). -/
def execBrev (o : Alu) (s : State) : Host.Outcome State Fault Refusal :=
  let t := o.ty.orElse .b32
  fixedOp s (ask (.brev o) o.ctl [(0, o.a, t.regs)] [(o.d, t.regs)]) o.d t.regs fun x l => bitReverse t.bits (x.val 0 l)

/-- BFX (R323): B is 32 bits. -/
def execBfx (o : Alu) (s : State) : Host.Outcome State Fault Refusal :=
  let t := o.ty.orElse .s32
  fixedOp s (ask (.bfx o) o.ctl [(0, o.a, t.regs), (1, o.b, 1)] [(o.d, t.regs)]) o.d t.regs fun x l =>
    bitExtract t (x.val 0 l) (x.val 1 l)

/-- BFI (R323): A is the field, B the base, C the position and width. -/
def execBfi (o : Alu) (s : State) : Host.Outcome State Fault Refusal :=
  let t := o.ty.orElse .s32
  fixedOp s (ask (.bfi o) o.ctl [(0, o.a, t.regs), (1, o.b, t.regs), (2, o.c, 1)] [(o.d, t.regs)]) o.d t.regs fun x l =>
    bitInsert t.bits (x.val 0 l) (x.val 1 l) (x.val 2 l)

/-- ICMP (R324). -/
def execIcmp (o : Alu) (s : State) : Host.Outcome State Fault Refusal :=
  let t := o.ty.orElse .s32
  fixedOp s (ask (.icmp o) o.ctl (Alu.two o t.regs) [(o.d, 1)]) o.d 1 fun x l =>
    flagBit ((condOf o.sub).any fun k => condInt k (readInt t (x.val 0 l)) (readInt t (x.val 1 l)))

/-- ISEL (R324). -/
def execIsel (o : Alu) (s : State) : Host.Outcome State Fault Refusal :=
  let t := o.ty.orElse .b32
  fixedOp s (ask (.isel o) o.ctl [(0, o.a, t.regs), (1, o.b, t.regs), (2, o.c, 1)] [(o.d, t.regs)]) o.d t.regs fun x l =>
    if x.val 2 l % 2 = 1 then x.val 0 l else x.val 1 l

/-- MOV (R324). -/
def execMov (o : Alu) (s : State) : Host.Outcome State Fault Refusal :=
  let t := o.ty.orElse .b32
  fixedOp s (ask (.mov o) o.ctl [(0, o.a, t.regs)] [(o.d, t.regs)]) o.d t.regs fun x l => x.val 0 l

/-- MOVI (R324). -/
def execMovi (o : MovImm) (s : State) : Host.Outcome State Fault Refusal :=
  fixedOp s (ask (.movi o) o.ctl [] [(o.d, 1)]) o.d 1 fun _ _ => o.imm.toNat

/-- LEA (R325). -/
def execLea (o : Alu) (s : State) : Host.Outcome State Fault Refusal :=
  let t := o.ty.orElse .s32
  fixedOp s (ask (.lea o) o.ctl [(0, o.a, 2), (1, o.b, t.regs)] [(o.d, 2)]) o.d 2 fun x l =>
    wrapInt 64 ((x.val 0 l : Int) + readInt t (x.val 1 l) * ((2 ^ (o.aux.toNat % 8) : Nat) : Int))

/-- CVTI (R326): a .b type reads as unsigned. -/
def execCvti (o : Alu) (s : State) : Host.Outcome State Fault Refusal :=
  let t := o.ty.orElse .s32
  let st := (o.subTy .s32).getD .s32
  fixedOp s (ask (.cvti o) o.ctl [(0, o.a, st.regs)] [(o.d, t.regs)]) o.d t.regs fun x l =>
    satInt t (o.aux.getLsbD 0) (readInt st (x.val 0 l))

/-- A predicate instruction (R327). -/
def predOp (i : Instr) (o : Reg3) (srcs : List (Nat × Opnd × Nat)) (f : Bool → Bool → Bool) (s : State) :
    Host.Outcome State Fault Refusal :=
  fixedOp s (ask i o.ctl srcs [(o.d, 1)]) o.d 1 fun x l => flagBit (f (x.val 0 l % 2 == 1) (x.val 1 l % 2 == 1))

/-- PAND (R327). -/
def execPand (o : Reg3) (s : State) : Host.Outcome State Fault Refusal :=
  predOp (.pand o) o [(0, o.a, 1), (1, o.b, 1)] (fun a b => a && b) s

/-- POR (R327). -/
def execPor (o : Reg3) (s : State) : Host.Outcome State Fault Refusal :=
  predOp (.por o) o [(0, o.a, 1), (1, o.b, 1)] (fun a b => a || b) s

/-- PXOR (R327). -/
def execPxor (o : Reg3) (s : State) : Host.Outcome State Fault Refusal :=
  predOp (.pxor o) o [(0, o.a, 1), (1, o.b, 1)] (fun a b => a != b) s

/-- PNOT (R327). -/
def execPnot (o : Reg3) (s : State) : Host.Outcome State Fault Refusal :=
  predOp (.pnot o) o [(0, o.a, 1)] (fun a _ => !a) s

end Sys2Proof.Machine
end

