-- ==== Sys2Proof/Machine/Special.lean ====
section
/-! DEFINITION. The special functions (R332). FRCP and FSQRT are correctly rounded. Each of the others is the
implementation's own value, a constant without a body, wherever that value keeps the bound of R332, and the nearest
binary32 value otherwise; special and exact cases are as R332 gives them. A reference value is computed in fixed point with
128 fraction bits, or given beside the exact result where it lies closer to a code than that: it never is a code itself, and no
edge of a bound lies between it and the exact result, so that the bounds are those of R332 (notes/assumptions/8.md). -/

namespace Sys2Proof.Machine

/-- One in fixed point. -/
def fixOne : Nat := 2 ^ 128
/-- ln 2, log2 e and 2π in fixed point. -/
def fixLn2 : Nat := 0xb17217f7d1cf79abc9e3b39803f2f6af
def fixLog2e : Nat := 0x171547652b82fe1777d0ffda0d23a7d11
def fixTwoPi : Nat := 0x6487ed5110b4611a62633145c06e0e689

/-- Σ t·x^k / (i·(i+1)·…), for exponentials. -/
def expSeries : Nat → Nat → Nat → Nat → Nat
  | 0, _, _, _ => 0
  | n + 1, i, t, x => t + expSeries n (i + 1) (t * x / fixOne / i) x

/-- The alternating series of sine and cosine, from its term t of degree i. -/
def altSeries : Nat → Nat → Int → Int → Int
  | 0, _, _, _ => 0
  | n + 1, i, t, xx => t + altSeries n (i + 2) (-(t * xx / (fixOne : Int)) / (((i + 1) * (i + 2) : Nat) : Int)) xx

/-- Fraction bits of log2 of a fixed-point number in [1, 2). -/
def logBits : Nat → Nat → Nat
  | 0, _ => 0
  | n + 1, y =>
    let z := y * y / fixOne
    if 2 * fixOne ≤ z then 2 ^ n + logBits n (z / 2) else logBits n z

/-- A finite value as a signed fixed-point number. -/
def toFix (n : Bool) (m : Nat) (e : Int) : Int :=
  let k := e + 128
  let a : Int := (if 0 ≤ k then m * 2 ^ k.toNat else m / 2 ^ (-k).toNat : Nat)
  if n then -a else a

/-- A signed fixed-point number, scaled by 2^k, as a value. -/
def ofFix (x k : Int) : Fp := .fin (decide (x < 0)) x.natAbs (k - 128)

/-- 2^t for a fixed-point t (R332). -/
def exp2Fix (t : Int) : Fp :=
  let n := t / (fixOne : Int)
  let f := (t % (fixOne : Int)).toNat
  ofFix (expSeries 48 1 fixOne (f * fixLn2 / fixOne) : Nat) n

/-- A value within a bound b × 2^f of a reference value. -/
def withinOf (ref w : Fp) (b : Nat) (f : Int) : Bool :=
  match w, Fp.sum [ref, w.negate] with
  | .fin _ _ _, .fin _ m e => if e < f then decide (m ≤ b * 2 ^ (f - e).toNat) else decide (m * 2 ^ (e - f).toNat ≤ b)
  | _, _ => false

/-- `n` units in the last place of binary32 at a reference value: mantissa and exponent. -/
def ulps (n : Nat) (ref : Fp) : Nat × Int :=
  match ref with
  | .fin _ m e => (n, if m = 0 then -149 else Fmt.f32.lsb m e)
  | _ => (0, 0)

/-- The implementation's code where it keeps its bound, else the reference rounded. -/
def pick (ref : Fp) (own : Word) (b : Nat × Int) (ok : Fp → Bool) : Nat :=
  let w := Fmt.f32.decode own.toNat
  if withinOf ref w b.1 b.2 && ok w then own.toNat else Fmt.f32.encode .ne ref

/-- A power of two: its exponent. -/
def powerOf (m : Nat) (e : Int) : Option Int := if m = 2 ^ Nat.log2 m then some (e + Nat.log2 m) else none

/-- 1 / (m × 2^e), with a last bit that stands for what is below. -/
def reciprocal (m : Nat) (e : Int) : Nat × Int :=
  let k := Nat.log2 m + 32
  let q := 2 ^ k / m
  (2 * q + (if 2 ^ k % m = 0 then 0 else 1), -e - k - 1)

/-- √(m × 2^e), likewise. -/
def squareRoot (m : Nat) (e : Int) : Nat × Int :=
  let odd := (e % 2).toNat
  let n := m * 2 ^ (odd + 64)
  let r := isqrt 128 n
  (2 * r + (if r * r = n then 0 else 1), (e - odd - 64) / 2 - 1)

/-- FRCP, as an exact value or one that rounds as it does. -/
def frcpFp : Fp → Fp
  | .nan => .nan
  | .inf n => .fin n 0 0
  | .fin n m e => if m = 0 then .inf n else .fin n (reciprocal m e).1 (reciprocal m e).2

/-- FSQRT. -/
def fsqrtFp : Fp → Fp
  | .nan => .nan
  | .inf n => if n then .nan else .inf false
  | .fin n m e => if m = 0 then .fin n 0 0 else if n then .nan else .fin false (squareRoot m e).1 (squareRoot m e).2

/-- A value strictly between 1 and a neighbour at a distance of 2^-100, below 1 or above it. -/
def besideOne (below : Bool) : Fp := .fin false (if below then 2 ^ 100 - 1 else 2 ^ 100 + 1) (-100)

/-- 1 / √(m × 2^e) to 110 bits, with a last bit that stands for what is below. -/
def rootReciprocal (m : Nat) (e : Int) : Nat × Int :=
  let p := 110 + (e + Nat.log2 m) / 2
  let k := 2 * p - e
  let r := isqrt 128 (2 ^ k.toNat / m)
  (2 * r + 1, -p - 1)

/-- The reference value of FRSQ (notes/assumptions/8.md). -/
def frsqRef (m : Nat) (e : Int) : Fp := .fin false (rootReciprocal m e).1 (rootReciprocal m e).2

/-- The reference value of FEXP2: 0 where the result is far below every code, a value beside 1 where the input is tiny. -/
def fexp2Ref (n : Bool) (m : Nat) (e : Int) : Fp :=
  let t := toFix n m e
  if t / (fixOne : Int) < -400 then .fin false 0 0
  else if withinOf (.fin false 0 0) (.fin n m e) 1 (-98) then besideOne n
  else exp2Fix t

/-- The reference value of FLOG2 of a number that is no power of two. -/
def flog2Ref (m : Nat) (e : Int) : Fp :=
  let b := Nat.log2 m
  ofFix ((e + b) * (fixOne : Int) + (((2 * logBits 90 (m * fixOne / 2 ^ b) + 1) * 2 ^ 37 : Nat) : Int)) 0

/-- The reference value of FSIN and FCOS (`c`): 0, the middle of [−1, 1], for a greater than 2^15 in size. -/
def fsinRef (c n : Bool) (m : Nat) (e : Int) : Fp :=
  if withinOf (.fin false 0 0) (.fin n m e) 1 15 then
    let x := toFix n m e % (fixTwoPi : Int)
    let xx := x * x / (fixOne : Int)
    if withinOf (.fin false 0 0) (.fin n m e) 1 (-45) then (if c then besideOne true else .fin n m e)
    else ofFix (if c then altSeries 40 0 fixOne xx else altSeries 40 1 x xx) 0
  else .fin false 0 0

/-- The reference value of FTANH. -/
def ftanhRef (n : Bool) (m : Nat) (e : Int) : Fp :=
  if withinOf (.fin false 0 0) (.fin n m e) 1 (-13) then
    Fp.sum [.fin n m e, .fin (!n) (m * m * m * fixOne / 3) (3 * e - 128)]
  else if !withinOf (.fin false 0 0) (.fin n m e) 1 4 then .fin n (2 ^ 40 - 1) (-40)
  else
    match exp2Fix (toFix false m e * 2 * (fixLog2e : Int) / (fixOne : Int)) with
    | .fin _ p k =>
      let ex := if 0 ≤ k + 128 then p * 2 ^ (k + 128).toNat else p / 2 ^ (-(k + 128)).toNat
      ofFix ((if n then -1 else 1) * (((ex - fixOne) * fixOne / (ex + fixOne) : Nat) : Int)) 0
    | x => x

/-- FRSQ: binary32 code of the result. -/
def frsqCode (a : Nat) : Nat :=
  let enc := Fmt.f32.encode .ne
  match Fmt.f32.decode a with
  | .nan => enc .nan
  | .inf n => if n then enc .nan else 0
  | .fin n m e =>
    if m = 0 then enc (.inf n)
    else if n then enc .nan
    else
      let own := pick (frsqRef m e) (Config.frsq (BitVec.ofNat 32 a)) (ulps 1 (frsqRef m e)) fun _ => true
      match powerOf m e with
      | some k => if k % 2 = 0 then enc (.fin false 1 (-k / 2)) else own
      | none => own

/-- FEXP2. -/
def fexp2Code (a : Nat) : Nat :=
  let enc := Fmt.f32.encode .ne
  match Fmt.f32.decode a with
  | .nan => enc .nan
  | .inf n => if n then 0 else enc (.inf false)
  | .fin n m e =>
    let k := toFix n m e / (fixOne : Int)
    if 128 ≤ k then enc (.inf false)
    else if m = 0 ∨ (-149 ≤ k ∧ (0 ≤ e ∨ m % 2 ^ (-e).toNat = 0)) then enc (.fin false 1 k)
    else if enc (fexp2Ref n m e) = 0x7F800000 then enc (.inf false)
    else pick (fexp2Ref n m e) (Config.fexp2 (BitVec.ofNat 32 a)) (ulps 2 (fexp2Ref n m e)) fun w => !w.sign

/-- FLOG2. -/
def flog2Code (a : Nat) : Nat :=
  let enc := Fmt.f32.encode .ne
  match Fmt.f32.decode a with
  | .nan => enc .nan
  | .inf n => enc (if n then .nan else .inf false)
  | .fin n m e =>
    if m = 0 then enc (.inf true)
    else if n then enc .nan
    else
      match powerOf m e with
      | some k => enc (.fin (decide (k < 0)) k.natAbs 0)
      | none =>
        let k := e + Nat.log2 m
        pick (flog2Ref m e) (Config.flog2 (BitVec.ofNat 32 a)) (if k = 0 ∨ k = -1 then (1, -22) else ulps 2 (flog2Ref m e))
          fun _ => true

/-- FSIN and FCOS: `c` for the cosine. -/
def fsinCode (c : Bool) (a : Nat) : Nat :=
  let enc := Fmt.f32.encode .ne
  let own := if c then Config.fcos (BitVec.ofNat 32 a) else Config.fsin (BitVec.ofNat 32 a)
  match Fmt.f32.decode a with
  | .nan | .inf _ => enc .nan
  | .fin n m e =>
    if m = 0 then (if c then enc (.fin false 1 0) else enc (.fin n 0 0))
    else
      pick (fsinRef c n m e) own (if withinOf (.fin false 0 0) (.fin n m e) 1 15 then (1, -21) else (1, 0)) fun _ => true

/-- FTANH. -/
def ftanhCode (a : Nat) : Nat :=
  let enc := Fmt.f32.encode .ne
  let own := Config.ftanh (BitVec.ofNat 32 a)
  match Fmt.f32.decode a with
  | .nan => enc .nan
  | .inf n => enc (.fin n 1 0)
  | .fin n m e =>
    if m = 0 then enc (.fin n 0 0)
    else pick (ftanhRef n m e) own (ulps 2 (ftanhRef n m e)) fun w => withinOf (.fin false 0 0) w 1 0

/-- A special function of a type: the input widened to binary32, and its result rounded once more (R332). -/
def specialOp (f : Nat → Nat) (t : Ty) (a : Nat) : Nat :=
  let fmt := fmtOf t
  let r := f (Fmt.f32.encode .ne (fmt.decode a))
  if t = .f32 then r else fmt.encode .ne (Fmt.f32.decode r)

def frcpCode (a : Nat) : Nat := Fmt.f32.encode .ne (frcpFp (Fmt.f32.decode a))
def fsqrtCode (a : Nat) : Nat := Fmt.f32.encode .ne (fsqrtFp (Fmt.f32.decode a))

end Sys2Proof.Machine
end

