-- ==== Sys2Proof/Machine/Floating.lean ====
section
/-! DEFINITION. The FLT instructions (R328 to R333): one rounding of an exact result. -/

namespace Sys2Proof.Machine

/-- A binary operation on values, rounded to nearest. -/
def fltBinary (i : Instr) (o : Alu) (f : Fp → Fp → Fp) (s : State) : Host.Outcome State Fault Refusal :=
  let m := fmtOf o.ty
  fixedOp s (ask i o.ctl (Alu.two o 1) [(o.d, 1)]) o.d 1 fun x l =>
    m.encode .ne (f (m.decode (x.val 0 l)) (m.decode (x.val 1 l)))

/-- FADD (R329). -/
def execFadd (o : Alu) (s : State) : Host.Outcome State Fault Refusal := fltBinary (.fadd o) o Fp.add s

/-- FSUB (R329). -/
def execFsub (o : Alu) (s : State) : Host.Outcome State Fault Refusal :=
  fltBinary (.fsub o) o (fun a b => Fp.add a b.negate) s

/-- FMUL (R329). -/
def execFmul (o : Alu) (s : State) : Host.Outcome State Fault Refusal := fltBinary (.fmul o) o Fp.mul s

/-- A fused multiply-add of three codes (R329). -/
def fusedCode (m : Fmt) (a b c : Nat) : Nat :=
  m.encode .ne (Fp.add (Fp.mul (m.decode a) (m.decode b)) (m.decode c))

/-- FFMA (R329). -/
def execFfma (o : Alu) (s : State) : Host.Outcome State Fault Refusal :=
  fixedOp s (ask (.ffma o) o.ctl (Alu.three o 1) [(o.d, 1)]) o.d 1 fun x l =>
    fusedCode (fmtOf o.ty) (x.val 0 l) (x.val 1 l) (x.val 2 l)

/-- FFMA2 (R329): the low and the high halves of wide operands. -/
def execFfma2 (o : Alu) (s : State) : Host.Outcome State Fault Refusal :=
  fixedOp s (ask (.ffma2 o) o.ctl (Alu.three o 2) [(o.d, 2)]) o.d 2 fun x l =>
    let half (h : Nat) : Nat :=
      fusedCode Fmt.f32 (x.val 0 l / 2 ^ (32 * h)) (x.val 1 l / 2 ^ (32 * h)) (x.val 2 l / 2 ^ (32 * h))
    half 0 + half 1 * 2 ^ 32

/-- HFMA2 (R329): SUB chooses the half of B. -/
def execHfma2 (o : Alu) (s : State) : Host.Outcome State Fault Refusal :=
  fixedOp s (ask (.hfma2 o) o.ctl (Alu.three o 1) [(o.d, 1)]) o.d 1 fun x l =>
    let half (h : Nat) : Nat :=
      let b := if o.sub = 1 then 0 else if o.sub = 2 then 1 else h
      fusedCode (fmtOf o.ty) (x.val 0 l / 2 ^ (16 * h)) (x.val 1 l / 2 ^ (16 * b)) (x.val 2 l / 2 ^ (16 * h))
    half 0 + half 1 * 2 ^ 16

/-- FDOT2 (R329): two exact products and c, rounded once; a zero result is −0 only if every term is −0. -/
def dotCode (m : Fmt) (a b c : Nat) : Nat :=
  let p (h : Nat) : Fp := Fp.mul (m.decode (a / 2 ^ (16 * h))) (m.decode (b / 2 ^ (16 * h)))
  let terms := [p 0, p 1, Fmt.f32.decode c]
  let r := Fmt.f32.encode .ne (Fp.sum terms)
  if r % 2 ^ 31 = 0 then (if terms.all fun t => t.isZero && t.sign then 2 ^ 31 else 0) else r

/-- FDOT2 (R329). -/
def execFdot2 (o : Alu) (s : State) : Host.Outcome State Fault Refusal :=
  fixedOp s (ask (.fdot2 o) o.ctl (Alu.three o 1) [(o.d, 1)]) o.d 1 fun x l =>
    dotCode (fmtOf o.ty) (x.val 0 l) (x.val 1 l) (x.val 2 l)

/-- FMIN (R330). -/
def execFmin (o : Alu) (s : State) : Host.Outcome State Fault Refusal :=
  fltBinary (.fmin o) o (fun a b => if a.isNan || b.isNan then .nan else if Fp.before a b then a else b) s

/-- FMAX (R330). -/
def execFmax (o : Alu) (s : State) : Host.Outcome State Fault Refusal :=
  fltBinary (.fmax o) o (fun a b => if a.isNan || b.isNan then .nan else if Fp.before a b then b else a) s

/-- FCMP (R330, R290). -/
def execFcmp (o : Alu) (s : State) : Host.Outcome State Fault Refusal :=
  let m := fmtOf o.ty
  fixedOp s (ask (.fcmp o) o.ctl (Alu.two o 1) [(o.d, 1)]) o.d 1 fun x l =>
    flagBit ((condOf o.sub).any fun k => condFloat k (Fp.order (m.decode (x.val 0 l)) (m.decode (x.val 1 l))))

/-- FSEL (R330): raw bits of the type. -/
def execFsel (o : Alu) (s : State) : Host.Outcome State Fault Refusal :=
  let m := fmtOf o.ty
  fixedOp s (ask (.fsel o) o.ctl (Alu.three o 1) [(o.d, 1)]) o.d 1 fun x l =>
    (if x.val 2 l % 2 = 1 then x.val 0 l else x.val 1 l) % 2 ^ m.width

/-- An operation on one value, rounded to nearest. -/
def fltUnary (i : Instr) (o : Alu) (f : Fp → Fp) (s : State) : Host.Outcome State Fault Refusal :=
  let m := fmtOf o.ty
  fixedOp s (ask i o.ctl [(0, o.a, 1)] [(o.d, 1)]) o.d 1 fun x l => m.encode .ne (f (m.decode (x.val 0 l)))

/-- FRND (R330). -/
def execFrnd (o : Alu) (s : State) : Host.Outcome State Fault Refusal :=
  fltUnary (.frnd o) o (Fp.rounded (Round.ofCode o.sub.toNat)) s

/-- The least and the greatest value of an integer target. -/
def convertInt (t : Ty) (r : Round) (v : Fp) : Nat := writeInt t (v.toInt r (tyMin t) (tyMax t))

/-- The source value of FCVT (R331). -/
def sourceFp (fs : DWord) (t : Ty) (a : Nat) : Fp :=
  if t = .fs then (fsFmt fs).decode a
  else if t.isInt then Fp.ofInt (readInt t a)
  else (fmtOf t).decode a

/-- FCVT's result in one lane, for a draw (R331). -/
def convertCode (fs : DWord) (dt st : Ty) (mode u a : Nat) : Nat :=
  let v := sourceFp fs st a
  if dt = .fs then (fsFmt fs).convert (fsRound fs u) (fsSat fs) v
  else if dt.isInt then convertInt dt (Round.ofCode mode) v
  else (fmtOf dt).encode (Round.ofCode mode) v

/-- One generator step in each lane of a mask (R237). -/
def drawLanes (r : Regs) (lanes : Lanes) : Regs := (laneList lanes).foldl (fun r l => r.setZ l (drawStep (r.getZ l)).1) r

/-- The key under which an instruction keeps the draw of a lane, so that its replay takes none (R237, R258). -/
def drawKey (l : Nat) : Nat := 64 * 4 + l

/-- The draws of the lanes performed, each with one generator step: kept with the operands (R237). -/
def drawOnce (s : State) (g : Nat) (x : Ctx) : State × Ctx :=
  let fresh := (laneList x.lanes).filter fun l => (Map.find x.vals (drawKey l)).isNone
  let r := (s.group g).regs
  (s.modRegs g fun r => drawLanes r (maskOf fresh),
    { x with vals := fresh.foldl (fun (m : Map Nat) l => Map.put (drawKey l) (drawStep (r.getZ l)).2 m) x.vals })

/-- FCVT (R331). -/
def execFcvt (o : Alu) (s : State) : Host.Outcome State Fault Refusal :=
  let dt := o.ty.orElse .f32
  let st := (o.subTy .f32).getD .f32
  run s (ask (.fcvt o) o.ctl [(0, o.a, st.regs)] [(o.d, dt.regs)]) fun t c x =>
    let fs := (t.group c.gid).regs.getFs o.fsi.toNat
    let r := if dt = .fs ∧ fsRnd fs = 2 then drawOnce t c.gid x else (t, x)
    s.putFixed r.1 c (.fcvt o) r.2 o.d dt.regs fun l =>
      convertCode fs dt st o.aux.toNat (Map.get 0 r.2.vals (drawKey l)) (x.val 0 l)

/-- A special function: variable-latency (R291, R332). -/
def specialUnary (i : Instr) (o : Alu) (f : Nat → Nat) (s : State) : Host.Outcome State Fault Refusal :=
  laterOp s (ask i o.ctl [(0, o.a, 1)] [(o.d, 1)]) .xl o.d 1 fun x l => specialOp f (o.ty.orElse .f32) (x.val 0 l)

/-- FRCP (R332). -/
def execFrcp (o : Alu) (s : State) : Host.Outcome State Fault Refusal := specialUnary (.frcp o) o frcpCode s

/-- FRSQ (R332). -/
def execFrsq (o : Alu) (s : State) : Host.Outcome State Fault Refusal := specialUnary (.frsq o) o frsqCode s

/-- FSQRT (R332). -/
def execFsqrt (o : Alu) (s : State) : Host.Outcome State Fault Refusal := specialUnary (.fsqrt o) o fsqrtCode s

/-- FEXP2 (R332). -/
def execFexp2 (o : Alu) (s : State) : Host.Outcome State Fault Refusal := specialUnary (.fexp2 o) o fexp2Code s

/-- FLOG2 (R332). -/
def execFlog2 (o : Alu) (s : State) : Host.Outcome State Fault Refusal := specialUnary (.flog2 o) o flog2Code s

/-- FSIN (R332). -/
def execFsin (o : Alu) (s : State) : Host.Outcome State Fault Refusal := specialUnary (.fsin o) o (fsinCode false) s

/-- FCOS (R332). -/
def execFcos (o : Alu) (s : State) : Host.Outcome State Fault Refusal := specialUnary (.fcos o) o (fsinCode true) s

/-- FTANH (R332). -/
def execFtanh (o : Alu) (s : State) : Host.Outcome State Fault Refusal := specialUnary (.ftanh o) o ftanhCode s

/-- FSCL (R333): a scale beyond ±1000 gives what ±1000 gives. -/
def execFscl (o : Alu) (s : State) : Host.Outcome State Fault Refusal :=
  let m := fmtOf o.ty
  fixedOp s (ask (.fscl o) o.ctl (Alu.two o 1) [(o.d, 1)]) o.d 1 fun x l =>
    m.encode .ne (Fp.scale (clampInt (signedOf 32 (x.val 1 l)) (-1000) 1000) (m.decode (x.val 0 l)))

/-- The exponent that FFRX writes (R333). -/
def fracExp : Fp → Int
  | .fin _ m e => if m = 0 then 0 else Nat.log2 m + 1 + e
  | _ => 0

/-- FFRX (R333): D takes the fraction and C the exponent. -/
def execFfrx (o : Alu) (s : State) : Host.Outcome State Fault Refusal :=
  let m := fmtOf o.ty
  run s (ask (.ffrx o) o.ctl [(0, o.a, 1)] [(o.d, 1), (o.c, 1)]) fun t c x =>
    let v (l : Nat) : Fp := m.decode (x.val 0 l)
    let t := s.putFixed t c (.ffrx o) x o.d 1 fun l => m.encode .ne (Fp.scale (-(fracExp (v l))) (v l))
    if t.cur.any fun k => k.adv == .stay then t
    else t.putReg c.gid x o.c 1 fun l => wrapInt 32 (fracExp (v l))

/-- The bit that FCLS sets (R333). -/
def classBit (m : Fmt) (v : Fp) : Nat :=
  match v with
  | .nan => 8
  | .inf n => if n then 0 else 7
  | .fin n k _ =>
    if k = 0 then (if n then 3 else 4)
    else if k < 2 ^ m.frac then (if n then 2 else 5)
    else if n then 1 else 6

/-- FCLS (R333). -/
def execFcls (o : Alu) (s : State) : Host.Outcome State Fault Refusal :=
  let m := fmtOf o.ty
  fixedOp s (ask (.fcls o) o.ctl [(0, o.a, 1)] [(o.d, 1)]) o.d 1 fun x l => 2 ^ classBit m (m.decode (x.val 0 l))

end Sys2Proof.Machine
end

