-- ==== Sys2Proof/Machine/Cross.lean ====
section
/-! DEFINITION. The cross-lane instructions (R334 to R338) and the tile row and column instructions (R339, R340). -/

namespace Sys2Proof.Machine

/-- A cross-lane instruction: its lanes act on each other. -/
def askCross (i : Instr) (ctl : Ctl) (srcs : List (Nat × Opnd × Nat)) (dsts : List (Opnd × Nat)) : Ask :=
  { ask i ctl srcs dsts with cross := true }

/-- Every contributing lane of an instruction, those that a replay does not perform among them: whose values the lanes act
on (R308, R338). -/
def team (s : State) (c : Issue) (x : Ctx) : Ctx := { x with contrib := x.part &&& ~~~(s.group c.gid).flow.helper }

/-- A variable-latency cross-lane result: the body sees the issuing quads and the group's width. -/
def crossOp (s : State) (a : Ask) (o : Opnd) (n : Nat) (f : Issue → Nat → Ctx → Nat → Nat) : Host.Outcome State Fault Refusal :=
  run s a fun t c x => s.putLater t c a.instr x .xl o n (f c (t.group c.gid).flow.width (team t c x))

/-- The lane that SHFL reads, before the range check (R335). -/
def shuffleFrom (mode : Nat) (l k : Nat) : Int :=
  if mode = 0 then k else if mode = 1 then (l : Int) - k else if mode = 2 then (l : Int) + k else ((l ^^^ k : Nat) : Int)

/-- SHFL (R335). -/
def execShfl (o : Alu) (s : State) : Host.Outcome State Fault Refusal :=
  let t := o.ty.orElse .b32
  crossOp s (askCross (.shfl o) o.ctl [(0, o.a, t.regs), (1, o.b, 1)] [(o.d, t.regs)]) o.d t.regs fun c w x l =>
    let m := shuffleFrom o.sub.toNat l (x.val 1 l)
    if 0 ≤ m ∧ m < w ∧ c.quads.getLsbD (m.toNat / 4) then x.val 0 m.toNat else x.val 0 l

/-- The lane that QXCH reads (R336). -/
def exchangeFrom (mode : Nat) (l : Nat) : Nat :=
  let q := 4 * (l / 4)
  let i := l % 4
  if mode < 3 then q + (i ^^^ (mode + 1)) else if mode = 3 then q + (i + 1) % 4 else q + (mode - 4) % 4

/-- QXCH (R336): fixed-latency. -/
def execQxch (o : Alu) (s : State) : Host.Outcome State Fault Refusal :=
  let t := o.ty.orElse .b32
  fixedOp s (askCross (.qxch o) o.ctl [(0, o.a, t.regs)] [(o.d, t.regs)]) o.d t.regs fun x l =>
    x.val 0 (exchangeFrom o.sub.toNat l)

/-- Contributing lanes whose A is 1 (R337). -/
def trueLanes (x : Ctx) : List Nat := (laneList x.contrib).filter fun l => x.val 0 l % 2 == 1

/-- BALLOT (R337). -/
def execBallot (o : Reg3) (s : State) : Host.Outcome State Fault Refusal :=
  crossOp s (askCross (.ballot o) o.ctl [(0, o.a, 1)] [(o.d, 2)]) o.d 2 fun _ _ x _ => (maskOf (trueLanes x)).toNat

/-- VOTE's result over the contributing lanes (R337). -/
def voteOf (mode : Nat) (x : Ctx) : Bool :=
  let n := (laneList x.contrib).length
  let k := (trueLanes x).length
  if mode = 0 then k == n else if mode = 1 then k != 0 else if mode = 2 then k == 0 || k == n else k % 2 == 1

/-- VOTE (R337). -/
def execVote (o : Alu) (s : State) : Host.Outcome State Fault Refusal :=
  crossOp s (askCross (.vote o) o.ctl [(0, o.a, 1)] [(o.d, 1)]) o.d 1 fun _ _ x _ => flagBit (voteOf o.sub.toNat x)

/-- MATCH (R337). -/
def execMatch (o : Alu) (s : State) : Host.Outcome State Fault Refusal :=
  let t := o.ty.orElse .b32
  crossOp s (askCross (.match_ o) o.ctl [(0, o.a, t.regs)] [(o.d, 2)]) o.d 2 fun _ _ x l =>
    (maskOf ((laneList x.contrib).filter fun m => x.val 0 m == x.val 0 l)).toNat

/-- FIRSTL (R337). -/
def execFirstl (o : Reg3) (s : State) : Host.Outcome State Fault Refusal :=
  crossOp s (askCross (.firstl o) o.ctl [(0, o.a, 1)] [(o.d, 1)]) o.d 1 fun _ _ x _ =>
    ((trueLanes x).head?).getD 0xFFFFFFFF

/-- Op of R80 on integers and bits of a type: 0 add, 1 min, 2 max, 3 and, 4 or, 5 xor (R338). -/
def combineInt (t : Ty) (op a b : Nat) : Nat :=
  if op = 0 then (a + b) % 2 ^ t.bits
  else if op = 1 then (if readInt t a ≤ readInt t b then a else b)
  else if op = 2 then (if readInt t a ≤ readInt t b then b else a)
  else if op = 3 then a &&& b
  else if op = 4 then a ||| b
  else a ^^^ b

/-- Op of R80 on a floating format. -/
def combineFp (m : Fmt) (op a b : Nat) : Nat :=
  let u := m.decode a
  let v := m.decode b
  if op = 0 then m.encode .ne (Fp.add u v)
  else if u.isNan || v.isNan then m.nanCode
  else if op = 1 then (if Fp.before u v then a else b)
  else (if Fp.before u v then b else a)

/-- The value of an empty set (R338). -/
def identityOf (t : Ty) (op : Nat) : Nat :=
  if t = .f32 then (if op = 1 then 0x7F800000 else if op = 2 then 0xFF800000 else 0)
  else if op = 1 then wrapInt t.bits (tyMax t)
  else if op = 2 then wrapInt t.bits (tyMin t)
  else if op = 3 then 2 ^ t.bits - 1
  else 0

/-- One level of the canonical tree (R79). -/
def pairUp (f : Nat → Nat → Nat) : List Nat → List Nat
  | a :: b :: rest => f a b :: pairUp f rest
  | xs => xs

/-- The canonical tree of R79, with a level for each unit of fuel. -/
def treeReduce (f : Nat → Nat → Nat) : Nat → List Nat → List Nat
  | 0, xs => xs
  | n + 1, xs => treeReduce f n (pairUp f xs)

/-- REDUX over a list of values in ascending lane order (R338). -/
def reduceAll (t : Ty) (op : Nat) (vs : List Nat) : Nat :=
  if t = .f32 then ((treeReduce (combineFp Fmt.f32 op) 7 vs).head?).getD (identityOf t op)
  else vs.foldl (combineInt t op) (identityOf t op)

/-- REDUX (R338). -/
def execRedux (o : Alu) (s : State) : Host.Outcome State Fault Refusal :=
  let t := o.ty.orElse .b32
  crossOp s (askCross (.redux o) o.ctl [(0, o.a, t.regs)] [(o.d, t.regs)]) o.d t.regs fun _ _ x _ =>
    reduceAll t (o.sub.toNat % 8) ((laneList x.contrib).map (x.val 0))

/-- SCAN (R338): SUB[3] leaves out the lane itself. -/
def execScan (o : Alu) (s : State) : Host.Outcome State Fault Refusal :=
  let t := o.ty.orElse .b32
  crossOp s (askCross (.scan o) o.ctl [(0, o.a, t.regs)] [(o.d, t.regs)]) o.d t.regs fun _ _ x l =>
    let excl := o.sub.getLsbD 3
    reduceAll t (o.sub.toNat % 8)
      (((laneList x.contrib).filter fun m => if excl then decide (m < l) else decide (m ≤ l)).map (x.val 0))

/-! ### Tile rows and columns (R339) -/

/-- The slot or quarter-tile that a name binds (R271). -/
def boundTile (x : Group) (isAcc : Bool) (n : Nat) : Option Nat := Map.find (if isAcc then x.regs.acc else x.regs.tile) n

/-- The place of an element of a slot or quarter-tile (R339). -/
def elementPlace (isAcc : Bool) (core slot row word : Nat) : Nat :=
  if isAcc then accPlace core slot row word else tilePlace core slot (256 * row + 4 * word)

/-- Row and word that a lane addresses (R339). -/
def laneElement (col : Bool) (w seg b l : Nat) : Nat × Nat := if col then (w * seg + l, b) else (b, w * seg + l)

/-- The row or column number is in range (R339). -/
def elementOk (col isAcc : Bool) (b : Nat) : Bool :=
  if col then decide (b < if isAcc then 192 else 64) else decide (b < if isAcc then 128 else 256)

/-- A tile row or column instruction: its prologue, the name, and the range of B. -/
def tileOp (i : Instr) (o : TileRow) (col : Bool) (srcs : List (Nat × Opnd × Nat)) (dsts : List (Opnd × Nat))
    (body : State → Issue → Ctx → (Nat → Nat) → State) (s : State) : Host.Outcome State Fault Refusal :=
  let slot := s.cur.bind fun c => boundTile (s.group c.gid) o.isAcc o.idx.toNat
  run s { askCross i o.ctl srcs dsts with
          unheld := slot.isNone
          early := fun _ _ x => if x.known 1 && !elementOk col o.isAcc (x.one 1) then some 0x2C else none } fun t c x =>
    let b := x.one 1
    if !elementOk col o.isAcc b then (if x.contrib = 0 ∧ x.lanes ≠ 0 then t else t.trapHere c x 0x2C)
    else
      body t c x fun l =>
        let e := laneElement col (t.group c.gid).flow.width o.seg.toNat b l
        elementPlace o.isAcc (State.coreOf c.gid) (slot.getD 0) e.1 e.2

/-- The read of TRDROW and TRDCOL: a poisoned element is consumed (R265), and what a copy under way or
another group writes reads old or new (R340). -/
def tileRead (i : Instr) (o : TileRow) (col : Bool) (s : State) : Host.Outcome State Fault Refusal :=
  tileOp i o col [(1, o.row, 1)] [(o.val, 1)] (fun t c x place =>
    let ps := (laneList x.contrib).map place
    let v := (t.raceAt ps).viewFor c.gid ps.contains
    let t := v.1
    let bad := (laneList x.contrib).filter fun l => t.poisoned (place l)
    match bad with
    | l :: _ => t.consumePoison c.gid (maskOf bad) c.clause c.idx (place l)
    | [] => s.putLater t c i x .mx o.val 1 fun l => v.2.numAt (place l) 4) s

/-- Poison of an operand row whose every word a list of places writes, or of an accumulator element written (R265). -/
def clearWritten (s : State) (isAcc : Bool) (places : List Nat) : State :=
  if isAcc then places.foldl (fun s p => s.clearPoison p) s
  else
    (places.map State.poisonUnit).eraseDups.foldl (fun s u =>
      if (List.range 64).all fun k => places.contains (u + 4 * k) then s.clearPoison u else s) s

/-- The write of TWRROW and TWRCOL. -/
def tileWrite (i : Instr) (o : TileRow) (col : Bool) (s : State) : Host.Outcome State Fault Refusal :=
  tileOp i o col [(0, o.val, 1), (1, o.row, 1)] [] (fun t c x place =>
    let t := (laneList x.lanes).foldl (fun t l => (t.noteWrite c.gid (place l) 4).setNum (place l) 4 (x.val 0 l))
      (t.raceAt ((laneList x.lanes).map place))
    clearWritten t o.isAcc ((laneList x.lanes).map place)) s

/-- TRDROW (R339). -/
def execTrdrow (o : TileRow) (s : State) : Host.Outcome State Fault Refusal := tileRead (.trdrow o) o false s

/-- TWRROW (R339). -/
def execTwrrow (o : TileRow) (s : State) : Host.Outcome State Fault Refusal := tileWrite (.twrrow o) o false s

/-- TRDCOL (R339). -/
def execTrdcol (o : TileRow) (s : State) : Host.Outcome State Fault Refusal := tileRead (.trdcol o) o true s

/-- TWRCOL (R339). -/
def execTwrcol (o : TileRow) (s : State) : Host.Outcome State Fault Refusal := tileWrite (.twrcol o) o true s

end Sys2Proof.Machine
end

