-- ==== Sys2Proof/Machine/Inbound.lean ====
section
/-! DEFINITION. Writes that a packet brings: the checks at its destination (R71, R94, R103, R185, R218, R221), and the line
written and acknowledged there (R60, R77, R219). -/

namespace Sys2Proof.Machine

namespace State

/-- Lines that a range touches. -/
def lineSpan (a n : Nat) : List Nat := if n = 0 then [] else (List.range ((a + n - 1) / 64 - a / 64 + 1)).map fun i => a / 64 + i

/-- The code with which a range is refused at its destination, if it is. A multicast of this device to itself names no
inbound window. -/
def inboundCode (s : State) (p : Packet) (a n : Nat) (write : Bool) : Option (BitVec 4) :=
  let t := p.vcn.toNat
  let own := p.typ == 6 && p.src.toNat == s.peer && p.ext.isNone
  if (s.tenant t).st = .resetting ∨ !inMap a n ∨ (!own && !s.inAllowed t a n) then some 4
  else (lineSpan a n).findSome? fun l => s.guardCode t (64 * l) write

/-- The response of a request on lines none of which is guarded goes out at once; otherwise the deltas answer it (R219). -/
def answerWrite (s : State) (p : Packet) (typ : Nat) : State :=
  let waits := s.fab.tags.any fun t =>
    match t.2.errand with
    | .delta _ _ _ (some r) => r.1 == p
    | _ => false
  if waits then s else s.respond p typ (bytesOf 8 0 ++ p.payload)

/-- Bytes of one line performed at its home for a packet; `reply` is the packet whose response a guarded line holds
back. -/
def inboundWrite (s : State) (p : Packet) (typ : Nat) (a : Nat) (bs : List (Option Byte)) : State :=
  let t := p.vcn.toNat
  let s := s.recallLine (a / 64)
  match s.guardAt t a with
  | some (i, row) => s.guardedStore t i row a bs noGroup (some (p, typ))
  | none => s.homeWrite t a bs

/-- The bytes that a WR or MC writes: a whole line, or a mask and a line (R59); none where the length is neither. -/
def writeBytes (p : Packet) : Option (List (Option Byte)) :=
  if p.payload.length = 64 then some (p.payload.map some)
  else if p.payload.length = 72 then
    let m := natOfBytes (p.payload.take 8)
    some ((List.range 64).map fun i => if m / 2 ^ i % 2 = 1 then (p.payload.drop 8)[i]? else none)
  else none

/-- The line address of a packet. -/
def lineOf (p : Packet) : Nat := p.addr.toNat / 64 * 64

/-- WR and MC at their destination (R60, R77): performed at the home, then acknowledged. -/
def takeWrite (s : State) (p : Packet) (ack : Nat) : State :=
  match writeBytes p, s.inboundCode p (lineOf p) 64 true with
  | none, _ => s.refuse p 6
  | _, some c => s.refuse p c
  | some bs, none =>
    let q := { p with payload := [] }
    (s.inboundWrite q ack (lineOf p) bs).answerWrite q ack

end State

end Sys2Proof.Machine
end

