-- ==== Sys2Proof/Machine/Service.lean ====
section
/-! DEFINITION. What instructions and registers ask of the tenant's services: resolving fault records (R256, R257, R260),
invalidations (R248, R250), iteration boundaries (R135, R138), launch queues (R95, R141) and the host's signal register
(R408). -/

namespace Sys2Proof.Machine

namespace State

/-! ### Fault records (R256, R257, R260) -/

/-- The group still waits on other records (R257). -/
def stillParked (s : State) (g : Nat) : Bool :=
  (s.group g).ops.captures.any fun k => k.parked && (k.records != [] || k.unwritten != 0)

/-- A group is promoted, in order (R155, R260). -/
def promote (s : State) (g : Nat) : State :=
  let r := s.tick
  r.1.modIss g fun i => if i.promoted.isSome then i else { i with promoted := some r.2 }

/-- A written record is resolved: its group's capture no longer waits for it; the outcome is FLTRSTAT's (R257). -/
def resolveRecord (s : State) (t : Nat) (seq : Word) (kill : Bool) : State × BitVec 4 :=
  match (s.tenant t).fq.waiting.find? fun w => w.seq == seq with
  | none => (s, 1)
  | some w =>
    let s := s.modFq t fun q => { q with waiting := q.waiting.filter fun w => w.seq != seq }
    let s := s.modOps w.gid fun o =>
      { o with captures := o.captures.map fun (k : Capture) =>
          if k.records.contains seq.toNat then { k with records := k.records.erase seq.toNat, kill := k.kill || kill } else k }
    if s.stillParked w.gid then (s, 2) else (s.promote w.gid, 0)

/-- A write to FLTRES or %fltres (R257). -/
def resolveFault (s : State) (t : Nat) (v : DWord) : State :=
  if !v.getLsbD 63 then s
  else
    let r := if slice v 61 32 ≠ 0 then (s, (3 : BitVec 4)) else s.resolveRecord t (v.setWidth 32) (v.getLsbD 62)
    r.1.modTenant t fun x => { x with fltrstat := r.2 }

/-- The service flag of a tenant is set on its unretired cores; sleeping groups wake (R256, R401). -/
def setServiceFlag (s : State) (t : Nat) : State :=
  (s.coresOf t).foldl (fun s c => (s.modCore c fun k => { k with svcFlag := some t }).wakeCore c) s

/-- Every copy of a tenant's service flag is cleared (R256). -/
def clearServiceFlag (s : State) (t : Nat) : State :=
  { s with cores := s.cores.map fun (c : Nat × Core) =>
      (c.1, if c.2.svcFlag = some t then { c.2 with svcFlag := none } else c.2) }

/-! ### Invalidation (R248) -/

/-- SIZE and VA of TLBINV (R248): the other bits read as zero (R11). -/
def tlbinvFields : DWord := 0x61FFFFFFFFFF0000

/-- An invalidation starts; a value without GO, or one that meets BUSY, is discarded (R248). -/
def startTlbinv (s : State) (t : Nat) (v : DWord) : State :=
  if !v.getLsbD 63 || (s.tenant t).tlbBusy then s else s.modTenant t fun x => { x with tlbBusy := true, tlbinv := v &&& tlbinvFields }

/-! ### Boundaries (R111, R135, R138) -/

/-- The tenant that owns a slot (R111). -/
def slotOwner (s : State) (n : Nat) : Option Nat :=
  let o := slice s.sorOwner (4 * (n / 512) + 3) (4 * (n / 512))
  if o < 8 then some o else none

/-- A boundary request of the current ITER is accepted: the snapshot point (R135). One under way is joined (R138). -/
def requestBoundary (s : State) (t : Nat) : State :=
  if (s.tenant t).sor.under then s
  else
    let mine := s.shadow.filter fun e => s.slotOwner e.1 == some t
    let s := s.modSor t fun k => { k with under := true, snap := mine }
    { s with shadow := s.shadow.filter fun e => s.slotOwner e.1 != some t }

/-! ### Launch queues (R95, R96, R141) -/

/-- QBASE's ring and the address of record `i` (R95, R96). -/
def ringAddr (q : Queue) (i : Word) : Nat := slice q.base 56 12 * 4096 + 32 * (i.toNat % 2 ^ q.log2n.toNat)

/-- The status with which ENQOP is refused, or the place of the ring slot (R141, R403). -/
def ringSlot (s : State) (t : Nat) (q : Queue) : Except Nat Loc :=
  if !q.owner then .error 2
  else if !q.en then .error 3
  else if (q.tail - q.head).toNat = 2 ^ q.log2n.toNat then .error 1
  else
    match s.tenantLoc t (ringAddr q q.tail) 32 true with
    | .error _ => .error 4
    | .ok l => .ok l

/-- A record appended (R141). -/
def appendRecord (s : State) (g t q : Nat) (l : Loc) (bs : List Byte) : State :=
  let s := if l.home = .host then s.chargeHost t 32 else s
  let s := s.performHome t l.place bs g
  s.modQueue t q fun k => { k with tail := k.tail + 1 }

/-! ### HOSTSIG (R408) -/

/-- The value goes to the tenant's HOSTSIG, and vector 3 is signalled where bit 32 was clear (R408). -/
def signalHost (s : State) (t : Nat) (v : Word) : State :=
  let before := (s.tenant t).hostsig.getLsbD 32
  let s := s.modTenant t fun x => { x with hostsig := v.setWidth 33 ||| BitVec.ofNat 33 (2 ^ 32), hostsigLast := v }
  if before then s else s.signal (t + 1) 3

/-! ### Power (R44) -/

/-- The 1 ms average exceeds PWR_CAP (R44). -/
def overCap (s : State) : Bool := decide (s.pwr.cap.toNat < s.pwr.avg.toNat)

/-- A junction exceeds THROTTLE (R44). -/
def hot (s : State) : Bool := decide (s.pwr.throttle.toNat < s.pwr.therm.toNat)

/-- The power alarm (R44). -/
def alarm (s : State) : Bool := s.pwr.alertLow || s.overCap || s.hot || s.pwr.lowv

/-! ### Bytes that a group-wide instruction reads itself (R342) -/

/-- A group-wide instruction whose descriptor or record could not be read, or with `write` not be written: it waits, traps,
or is kept for its replay, as a fault of the lowest active lane (R342, R396). `s0` is the state before operands were
read. -/
def laneHitch (s0 s : State) (c : Issue) (i : Instr) (x : Ctx) (write : Bool) (e : Hitch) : State :=
  match e with
  | .remote ks => s0.peekOn c ks
  | .budget n => s0.blockOn c (.budget true n)
  | .poison p => s.consumePoison c.gid (laneBit x.lead) c.clause c.idx p
  | .snag g =>
    let es := [laneErr x.lead write g]
    if fatalCause g.cause then s.trapLanes c.gid c.clause c.idx (s.restOf c.gid (laneBit x.lead)) es
    else s.parkWhole c i x.vals x.part es

/-- A descriptor or record that could not be read (R342). -/
def descHitch (s0 s : State) (c : Issue) (i : Instr) (x : Ctx) (e : Hitch) : State := s0.laneHitch s c i x false e

/-- An object that a group-wide instruction names: a window fault is one of the lowest active lane, anything else DESCRIPTOR
(R342, R356, R360, R365). -/
def objectFault (s : State) (c : Issue) (x : Ctx) (a : Nat) (cause : BitVec 8) : State :=
  if cause = 0x10 then
    s.trapLanes c.gid c.clause c.idx (s.restOf c.gid (laneBit x.lead)) [laneErr x.lead true (Snag.plain 1 0x10 a)]
  else s.trapHere c x cause

/-- A release at a scope, and then what follows it; the instruction waits until the release is complete (R195). With
`every`, remote operations are waited for at any scope (R201). -/
def releaseEvery (s0 s : State) (c : Issue) (x : Ctx) (sc : Scope) (every : Bool) (k : State → State) : State :=
  match (s0.releaseLocal c.gid sc).releaseWait c.gid sc every x.own with
  | some w => (s0.releaseLocal c.gid sc).blockOn c w
  | none => k (s.releaseLocal c.gid sc)

/-- A release at a scope, and then what follows it (R195). -/
def releaseThen (s0 s : State) (c : Issue) (x : Ctx) (sc : Scope) (k : State → State) : State :=
  s0.releaseEvery s c x sc false k

end State

end Sys2Proof.Machine
end

