-- ==== Sys2Proof/Machine/LoadStore.lean ====
section
/-! DEFINITION. Loads and stores, atomics, fences, durability, cache control and multicast (R195, R201, R205 to R206, R212,
R213, R220, R343 to R354). -/

namespace Sys2Proof.Machine

/-! ### Addresses (R343) -/

/-- An address of a window form: the offset added to a base; an offset of `limit` or more lies in no window. -/
def windowAddr (base limit off : Nat) : Nat := if off < limit then base + off else 2 ^ 57 + (base + off) % 2 ^ 57

/-- EA of LDS and STS: SUB 1 is the cohort window. -/
def spadAddr (sub : BitVec 6) (off : Nat) : Nat :=
  let off := off % 2 ^ 32
  if sub = 1 then windowAddr cohortBase 0x1000000 off else windowAddr spadBase 0x200000 off

/-- EA of LDV and STV: SUB 1 is the vault above the issuing core. -/
def vaultAddr (core : Nat) (sub : BitVec 6) (off : Nat) : Nat :=
  let off := off % 2 ^ 32
  if sub = 1 then windowAddr (vaultBase + 0x2000000 * core) 0x2000000 off else windowAddr vaultBase 0x80000000 off

/-- The accesses of the lanes of a mask. -/
def accsOf (lanes : Lanes) (f : Nat → Nat) : List LaneAcc := (laneList lanes).map fun l => { lane := l, va := f l }

namespace State

/-- A release at a scope that forces a compare point of a twin job (R210). -/
def forcesRelease (s : State) (g : Nat) (sc : Scope) : Bool := scopeWide (s.multiPart g) sc

/-- An operation with release semantics (R195, R196): under Chervil at a compare point of its own, in a mode of `force`. A
replay's lanes come after what the group issued before its park, and so after a release of their own (R259). -/
def strongThen (s0 s : State) (c : Issue) (x : Ctx) (rel : Bool) (sc : Scope) (must : Bool) (mode : Nat)
    (sign : State → State) (k : State → State) : State :=
  let body (t : State) : State := if rel then s0.releaseThen t c x sc k else k t
  if must || (rel && s.forcesRelease c.gid sc) then s0.force s c x mode sign body else body s

end State

/-! ### LD, LDS, LDV -/

/-- A load with its address form (R344, R345). -/
def loadOp (i : Instr) (o : MemOp) (n : Nat) (ea : Issue → Nat → Nat) (s : State) : Host.Outcome State Fault Refusal :=
  let t := o.ty.orElse .b32
  run s (ask i o.ctl [(0, o.a, n)] [(o.d, t.regs)]) fun u c x =>
    s.loadLanes u c i x (accsOf x.lanes fun l => ea c (x.val 0 l))
      { n := t.bytes, sx := if t.isSigned then t.bits else 0, scope := o.scope, ord := o.ord, dst := o.d, nregs := t.regs }

/-- LD (R343, R345). -/
def execLd (o : MemOp) (s : State) : Host.Outcome State Fault Refusal := loadOp (.ld o) o 2 (fun _ a => a) s

/-- LDS (R343, R345). -/
def execLds (o : MemOp) (s : State) : Host.Outcome State Fault Refusal :=
  loadOp (.lds o) o 1 (fun _ a => spadAddr o.sub a) s

/-- LDV (R343, R345). -/
def execLdv (o : MemOp) (s : State) : Host.Outcome State Fault Refusal :=
  loadOp (.ldv o) o 1 (fun c a => vaultAddr (State.coreOf c.gid) o.sub a) s

/-! ### ST, STS, STV -/

/-- A store with its address form (R344, R345); a release comes first with .rel (R195). -/
def storeOp (i : Instr) (o : MemOp) (n : Nat) (ea : Issue → Nat → Nat) (s : State) : Host.Outcome State Fault Refusal :=
  let t := o.ty.orElse .b32
  let rel := o.ord == .rel
  run s { ask i o.ctl [(0, o.a, n), (1, o.b, t.regs)] [] with cross := rel && s.issuesTwin } fun u c x =>
    let addr (l : Nat) : Nat := ea c (x.val 0 l)
    let all := accsOf (x.part &&& ~~~(u.group c.gid).flow.helper) addr
    let data (l : Nat) : List Byte := bytesOf t.bytes (x.val 1 l)
    s.strongThen u c x rel o.scope false 2
      (fun k => (k.signLanes c.gid all data).modIss c.gid fun y => { y with nstores := y.nstores + 1 })
      fun k => s.storeLanes k c i x all (accsOf x.contrib addr) t.bytes o.scope 0 data

/-- ST (R343, R345). -/
def execSt (o : MemOp) (s : State) : Host.Outcome State Fault Refusal := storeOp (.st o) o 2 (fun _ a => a) s

/-- STS (R343, R345). -/
def execSts (o : MemOp) (s : State) : Host.Outcome State Fault Refusal :=
  storeOp (.sts o) o 1 (fun _ a => spadAddr o.sub a) s

/-- STV (R343, R345). -/
def execStv (o : MemOp) (s : State) : Host.Outcome State Fault Refusal :=
  storeOp (.stv o) o 1 (fun c a => vaultAddr (State.coreOf c.gid) o.sub a) s

/-! ### ATOM and RED (R205, R346 to R348) -/

/-- The new value that one lane's step stores (R346). -/
def atomicNew (op : AtomOp) (t : Ty) (old b cmp : Nat) : Nat :=
  let m := 2 ^ t.bits
  let code := match op with | .add => 0 | .min => 1 | .max => 2 | .and => 3 | .or => 4 | .xor => 5 | .exch => 6 | .cas => 7
  match op with
  | .exch => b % m
  | .cas => if old = cmp % m then b % m else old
  | _ => if t = .f32 then combineFp Fmt.f32 code old (b % m) else combineInt t code old (b % m)

/-- The code of an operation in the payload of an AT (notes/assumptions/22.md). -/
def atomCode : AtomOp → Nat
  | .add => 0 | .min => 1 | .max => 2 | .and => 3 | .or => 4 | .xor => 5 | .exch => 6 | .cas => 7

/-- The operation that a code names. -/
def atomOfCode (n : Nat) : AtomOp :=
  match n with
  | 0 => .add | 1 => .min | 2 => .max | 3 => .and | 4 => .or | 5 => .xor | 6 => .exch | _ => .cas

/-- One operand stands for the steps of several lanes on the same bytes: all but compare-and-swap and the rounding sum
(R205, R347). -/
def atCombines (op : AtomOp) (t : Ty) : Bool := op != .cas && !(op == .add && t == .f32)

/-- The operand that stands for one operand and a later one. -/
def atJoin (op : AtomOp) (t : Ty) (a b : Nat) : Nat := if op = .exch then b else atomicNew op t a b 0

/-- The steps of an AT, from those of its lanes in ascending order: offset in the line, operand, compare value. Lanes on
the same bytes are combined where they can be. -/
def atCombine (op : AtomOp) (t : Ty) (steps : List (Nat × Nat × Nat)) : List (Nat × Nat × Nat) :=
  if atCombines op t then
    (steps.map (·.1)).eraseDups.map fun o =>
      let bs := (steps.filter fun k => k.1 == o).map fun k => k.2.1 % 2 ^ t.bits
      (o, bs.tail.foldl (atJoin op t) (bs.headD 0), 0)
  else steps

/-- Bytes of one step in the payload of an AT. -/
def atStepBytes (op : AtomOp) (t : Ty) : Nat := 1 + t.bytes + if op = .cas then t.bytes else 0

/-- A list in pieces of at most `n`; `fuel` bounds their number. -/
def piecesBy {α : Type} (n : Nat) : Nat → List α → List (List α)
  | 0, _ => []
  | _, [] => []
  | fuel + 1, x :: xs => (x :: xs).take n :: piecesBy n fuel ((x :: xs).drop n)

/-- The payloads of an AT (notes/assumptions/22.md): the operation, its type, how many steps, the number of the part and
whether it is the last, and the steps. More than one part is needed only where many lanes' steps cannot be combined. -/
def atPayloads (op : AtomOp) (t : Ty) (steps : List (Nat × Nat × Nat)) : List (List Byte) :=
  let parts := piecesBy (248 / atStepBytes op t) 64 steps
  (List.range parts.length).map fun i =>
    let ks := parts.getD i []
    bytesOf 8 (atomCode op + 2 ^ 8 * t.code.toNat + 2 ^ 16 * ks.length + 2 ^ 32 * i +
        if i + 1 = parts.length then 2 ^ 40 else 0) ++
      ks.flatMap fun k =>
        bytesOf 1 k.1 ++ bytesOf t.bytes k.2.1 ++ if op = .cas then bytesOf t.bytes k.2.2 else []

/-- The old value that each lane receives, from the first old value of each of the bytes named: the sequence of the lanes'
steps rebuilt (R205). `first` gives the i-th distinct bytes' value; lanes come with offset, operand and compare value. -/
def atOlds (op : AtomOp) (t : Ty) (lanes : List (Nat × Nat × Nat × Nat)) (first : Nat → Nat) : List (Nat × Nat) :=
  let offs := (lanes.map fun k => k.2.1).eraseDups
  (List.range offs.length).flatMap fun i =>
    ((lanes.filter fun k => some k.2.1 == offs[i]?).foldl (fun (r : Nat × List (Nat × Nat)) k =>
      (atomicNew op t r.1 k.2.2.1 k.2.2.2, r.2 ++ [(k.1, r.1)])) (first i, [])).2

namespace State

/-- The local steps of an atomic, lane by lane in ascending order (R205, R347): the old values. -/
def atomicSteps (s : State) (g : Nat) (op : AtomOp) (t : Ty) (wide : Bool) (x : Ctx) (ok : List (Nat × List Loc)) :
    State × Map Nat :=
  ok.foldl (fun (r : State × Map Nat) k =>
    let q := r.1.atomicRead g k.2 wide
    let old := natOfBytes q.2.1
    let s := q.1.atomicWrite g k.2 (bytesOf t.bytes (atomicNew op t old (x.val 1 k.1) (x.val 2 k.1))) wide
    (s, Map.put k.1 old r.2)) (s, [])

/-- A peer of the pod that a tenant's requests reach: in the pod, not marked dead, within its ranges (R54, R103). -/
def reaches (s : State) (t peer : Nat) : Bool := s.inPod peer && !s.isDead peer && s.fabAllows t peer

/-- One tagged request whose payload goes in several packets of one tag. -/
def sendParts (s : State) (g typ peer addr : Nat) (parts : List (List Byte)) (errand : Errand) : State :=
  let t := (s.group g).tenant
  let tag := s.freshTag
  let s := s.sendTagged g typ peer addr (parts.headD []) errand
  if s.reaches t peer then parts.tail.foldl (fun s b => s.request typ 0 t peer tag addr b) s else s

/-- The AT packets of an atomic, one AT for each remote line (R75, R205). -/
def sendAtomics (s : State) (g pend cap : Nat) (op : AtomOp) (t : Ty) (x : Ctx) (ok : List (Nat × List Loc)) : State :=
  (remoteKeys ok).foldl (fun s key =>
    let mine := ok.filter fun k => k.2.any fun l => remoteLoc l == some key.1 && l.place / 64 == key.2
    let lanes := mine.map fun k => (k.1, (k.2.head?.map fun l => l.place % 64).getD 0, x.val 1 k.1, x.val 2 k.1)
    s.sendParts g 4 key.1 (64 * key.2) (atPayloads op t (atCombine op t (lanes.map (·.2))))
      (.atomic g pend cap (atomCode op) t.code.toNat lanes)) s

/-- The local lanes of an atomic that read a poisoned unit, each with its place (R265). -/
def spoiltLanes (s : State) (g : Nat) (ok : List (Nat × List Loc)) : List (Nat × Nat) :=
  ok.filterMap fun k => (k.2.find? fun l => s.spoiltFor (coreOf g) l.place 1).map fun l => (k.1, l.place)

/-- ATOM and RED of the contributing lanes (R346 to R348); lanes that read poison end the cohort after the others have
been performed (R265). A helper lane's destination keeps its value (R152; notes/assumptions/50.md). `s0` is the state before operands were read, and `dst` the destination of ATOM. -/
def atomicLanes (s0 s : State) (c : Issue) (i : Instr) (x : Ctx) (o : AtomicOp) (dst : Option Opnd) : State :=
  let g := c.gid
  let t := o.ty.orElse .b32
  let wide := scopeWide (s.multiPart g) o.scope
  let r := s.checkLanes (s.whoOf g) (accsOf x.contrib (x.val 0)) t.bytes true { write := true, fetch := false, ban := .host } 0
  let errs := r.2.errs
  if errs.any fun e => fatalCause e.cause then r.1.trapLanes g c.clause c.idx (s.restOf g x.contrib) errs
  else
    match s.lanesWait r.1 g r.2.ok with
    | some w => s0.blockOn c w
    | none =>
      let local_ := r.2.ok.filter fun k => !isRemote k
      let bad := r.1.spoiltLanes g local_
      let near := local_.filter fun k => !bad.any fun b => b.1 == k.1
      let far := r.2.ok.filter isRemote
      s0.strongThen r.1 c x (o.ord == .rel || o.ord == .acr) o.scope true 1 id fun s =>
        let q := s.atomicSteps g o.op t wide x near
        let missing := maskOf (far.map (·.1)) ||| errLanes errs
        let p := match dst with
          | none => (q.1, 0)
          | some d => q.1.result c { x with lanes := x.contrib } .ld d t.regs 0 missing fun l => Map.get 0 q.2 l
        let s := if errs = [] then p.1 else p.1.parkLanes c i x.vals p.2 (errLanes errs) errs
        let acq := o.ord == .acq || o.ord == .acr
        let s :=
          if far = [] then (if acq then s.acquire g o.scope else s)
          else
            let k := s.captureRemote c i x.vals p.2 (remoteKeys far).length
            let s := k.1.sendAtomics g p.2 k.2 o.op t x far
            if acq then s.onGroup g fun y => { y with park := .wait (.response o.scope) } else s
        match bad with
        | [] => s
        | (_, p) :: _ => s.consumePoison g (maskOf (bad.map (·.1))) c.clause c.idx p

end State

/-- The operands of an atomic. -/
def askAtomic (i : Instr) (o : AtomicOp) (dsts : List (Opnd × Nat)) : Ask :=
  let n := (o.ty.orElse .b32).regs
  ask i o.ctl ([(0, o.a, 2), (1, o.b, n)] ++ if o.op = .cas then [(2, o.c, n)] else []) dsts

/-- ATOM (R346, R347). -/
def execAtom (o : AtomicOp) (s : State) : Host.Outcome State Fault Refusal :=
  run s { askAtomic (.atom o) o [(o.d, (o.ty.orElse .b32).regs)] with cross := s.issuesTwin } fun t c x =>
    s.atomicLanes t c (.atom o) x o (some o.d)

/-- RED (R346, R347). -/
def execRed (o : AtomicOp) (s : State) : Host.Outcome State Fault Refusal :=
  run s { askAtomic (.red o) o [] with cross := s.issuesTwin } fun t c x => s.atomicLanes t c (.red o) x o none

/-! ### FENCE, SFENCE, PBAR (R196, R201, R213, R220, R349 to R351) -/

/-- FENCE (R349): a release, an acquire, or both. An acquire waits for earlier loads from peers (R196); a .acr fence has
every earlier store performed at its home, those at peers among them (R201). -/
def execFence (o : SyncOp) (s : State) : Host.Outcome State Fault Refusal :=
  run s (ask (.fence o) o.ctl [] []) fun t c x =>
    let acq := o.ord == .acq || o.ord == .acr
    let rel := o.ord == .rel || o.ord == .acr
    let after (u : State) : State := if acq then u.acquire c.gid o.scope else u
    let go (u : State) : State :=
      if rel then s.releaseEvery u c x o.scope (o.ord == .acr) after
      else if u.loadsDue c.gid then s.blockOn c (.kinds 0x20) else after u
    if t.forcesRelease c.gid o.scope then s.force t c x 2 id go else go t

/-- SFENCE (R220, R350): the group's guarded stores, local and at peers, and its multicasts are complete; their causes are
written and cleared. -/
def execSfence (o : SyncOp) (s : State) : Host.Outcome State Fault Refusal :=
  run s (ask (.sfence o) o.ctl [] [(o.d, 1)]) fun t c x =>
    s.force t c x 1 id fun t =>
      let g := c.gid
      let drain (u : State) : State := u.drainWhere (State.coreOf g) fun e => e.gid == g && e.guarded.isSome
      let t := drain t
      if t.fenceDue g then (drain s).blockOn c .deltas
      else
        let lost := (t.group g).ops.covered.any fun k =>
          let d := t.stripe (t.group g).tenant k.1
          d.lostv && d.lostidx.toNat == k.2
        let v := (t.group g).ops.sfence.toNat ||| (if lost then 8 else 0)
        let t := t.modOps g fun k => { k with sfence := 0, covered := [] }
        let t := match (if (t.group g).iss.forced = 1 then t.twinOf g else none) with
          | some h => t.writeNow h o.d 1 x.lanes fun _ => v
          | none => t
        s.putFixed t c (.sfence o) x o.d 1 fun _ => v

/-- PBAR (R213, R351): strict stores have reached Pewter, and remote stores to it have their responses. -/
def execPbar (o : SyncOp) (s : State) : Host.Outcome State Fault Refusal :=
  run s (ask (.pbar o) o.ctl [] []) fun t c x =>
    s.force t c x 1 id fun t =>
      let drain (u : State) : State := u.drainWhere (State.coreOf c.gid) fun e => e.gid == c.gid && e.strict
      let t := drain t
      if t.pewterDue c.gid then (drain s).blockOn c .durable else t

/-! ### CFLUSH, CINV, PREF (R212, R352) -/

namespace State

/-- A cache control on the lines that the lanes name: checks of R253 steps 1 and 3, then its effect on each cached
line; walks wait for the HOST budget (R103). `s0` is the state before operands were read. -/
def lineOp (s0 s : State) (c : Issue) (i : Instr) (x : Ctx) (f : State → Nat → State) : State :=
  let g := c.gid
  let helper := (s.group g).flow.helper
  let r := (laneList x.lanes).foldl (fun (r : State × List Nat × List LaneErr) l =>
    let q := r.1.lineLoc (s.whoOf g) (x.val 0 l)
    match q.2 with
    | .ok k => (q.1, if cacheable k.home then insertNat (k.place / 64) r.2.1 else r.2.1, r.2.2)
    | .error e => (q.1, r.2.1, if helper.getLsbD l then r.2.2 else r.2.2 ++ [laneErr l false e])) (s, [], [])
  if r.2.2.any fun e => fatalCause e.cause then r.1.trapLanes g c.clause c.idx (s.restOf g x.lanes) r.2.2
  else
    match s.lanesWait r.1 g [] with
    | some w => s0.blockOn c w
    | none =>
      let s := r.2.1.foldl f r.1
      if r.2.2 = [] then s else s.parkLanes c i x.vals 0 (errLanes r.2.2) r.2.2

/-- The clean bytes of a line leave a core's L1 (R352). -/
def dropClean (s : State) (c line : Nat) : State :=
  match Map.find (s.core c).l1 line with
  | none => s
  | some l =>
    if l.dirty = 0 then s.dropLine c line
    else s.modCore c fun k => { k with l1 := Map.put line { l with valid := l.dirty } k.l1 }

end State

/-- CFLUSH (R212, R352). -/
def execCflush (o : MemOp) (s : State) : Host.Outcome State Fault Refusal :=
  run s (ask (.cflush o) o.ctl [(0, o.a, 2)] []) fun t c x =>
    let core := State.coreOf c.gid
    s.lineOp t c (.cflush o) x fun t line => ((t.drainLine c.gid line).writeBack core line).dropLine core line

/-- CINV (R352). -/
def execCinv (o : MemOp) (s : State) : Host.Outcome State Fault Refusal :=
  run s (ask (.cinv o) o.ctl [(0, o.a, 2)] []) fun t c x =>
    s.lineOp t c (.cinv o) x fun t line => t.dropClean (State.coreOf c.gid) line

/-- PREF (R352): the fetch that it may make is not made. -/
def execPref (o : MemOp) (s : State) : Host.Outcome State Fault Refusal :=
  run s (ask (.pref o) o.ctl [(0, o.a, 2)] []) fun t _ _ => t

/-! ### MCAST (R77, R78, R353, R354) -/

namespace State

/-- Members of a multicast list, or none where it is malformed (R353). -/
def parseMembers (s : State) (n : Nat) (bs : List Byte) : Option (List (BitVec 12)) :=
  let ws := (List.range n).map fun i => natOfBytes ((bs.drop (2 * i)).take 2)
  if ws.all fun w => decide (w < 4096) && s.inPod w then some (ws.map fun w => BitVec.ofNat 12 w) else none

/-- The list of MCAST read at issue: its count, then its members. -/
def readMembers (s : State) (g a : Nat) : State × Except Hitch (Option (List (BitVec 12))) :=
  let h := s.readDesc g a 8
  match h.2 with
  | .error e => (h.1, .error e)
  | .ok hb =>
    let n := natOfBytes hb
    if n = 0 ∨ 64 < n then (h.1, .ok none)
    else
      let r := h.1.readDesc g (a + 8) (2 * n)
      (r.1, r.2.map fun bs => s.parseMembers n bs)

/-- The payload of an MC: the byte mask and the line. -/
def castLine (offs : List (Nat × Byte)) : List Byte :=
  let line := offs.foldl (fun (m : Map Byte) x => Map.put x.1 x.2 m) []
  bytesOf 8 (line.foldl (fun m x => m + 2 ^ x.1) 0) ++ (List.range 64).map fun i => Map.get 0 line i

/-- A member whose copy goes with those of its column (R77): in another column, whose row port is in service and leads to a
device that is not marked dead. Its copy goes by itself otherwise (R65), or where it is to end here (R54, R103) or to
wait (R64). -/
def byColumn (s : State) (t p : Nat) : Bool :=
  let x := colOf p
  decide (x ≠ s.fab.col.toNat) && s.portUp (s.rowPort x) && !s.isDead (s.fab.row.toNat * 32 + x) &&
    !s.fab.restartWait.contains (s.fab.row.toNat * 32 + x) && s.reaches t p && !s.fab.restartWait.contains p

/-- One MC to the router of a column in this device's row, for the members of that column (R77). -/
def sendColumn (s : State) (g addr : Nat) (data : List Byte) (x : Nat) (members : List (Nat × Errand)) : State :=
  let t := (s.group g).tenant
  let ms := (List.range 32).filterMap fun y => members.find? fun m => rowOf m.1 == y
  let r := ms.foldl (fun (r : State × List (Nat × BitVec 16 × BitVec 16)) m =>
    let k := r.1.takeTag { typ := 6, dst := BitVec.ofNat 12 m.1, vcn := t, addr, errand := m.2, first := none }
    (k.1.modOps g fun o => { o with tagged := o.tagged ++ [k.2] }, r.2 ++ [(rowOf m.1, BitVec.ofNat 16 k.2, 0)])) (s, [])
  let tag := (r.2.head?.map fun m => m.2.1.toNat).getD 0
  (r.1.coverRow g addr).inject (s.mkPacket 6 0 t (s.fab.row.toNat * 32 + x) tag addr (castPayload data r.2) none)

/-- The copy of a multicast for its own device is written at once: after what the group has stored to the line, and with the
core's own copy gone (R77, R196, R197). It waits for a tag as the others do (R72). -/
def sendOwn (s : State) (g addr : Nat) (data : List Byte) (errand : Errand) : State :=
  let t := (s.group g).tenant
  let s := (s.settleLine g (addr / 64)).dropLine (coreOf g) (addr / 64)
  let r := s.takeTag { typ := 6, dst := BitVec.ofNat 12 s.peer, vcn := t, addr, errand, first := none }
  let s := (r.1.modOps g fun o => { o with tagged := o.tagged ++ [r.2] }).coverRow g addr
  if 65536 ≤ r.2 then s.request 6 0 t s.peer r.2 addr data
  else s.takeWrite (s.mkPacket 6 0 t s.peer r.2 addr data none) 7

/-- The copies of a multicast leave, one for each distinct member, with the bitmap's positions kept: those of another
column in one packet that its router replicates, the others by themselves (R77, R78). -/
def sendMulticast (s : State) (g pend : Nat) (members : List (BitVec 12)) (addr : Nat) (data : List Byte) : State :=
  let t := (s.group g).tenant
  let r := s.tick
  let m : Multicast :=
    { id := r.2, gid := g, pend, members, done := [], guarded := (s.guardOf t addr).isSome }
  let s := r.1.modSvc fun v => { v with multicasts := v.multicasts ++ [m] }
  let all := members.eraseDups.map fun p => (p.toNat, Errand.member r.2 (members.idxOf p))
  let room := decide ((s.fab.tags.length + s.fab.retired.length + all.length) ≤ 65536)
  let grouped := all.filter fun m => room && s.byColumn t m.1
  let alone := all.filter fun m => !(room && s.byColumn t m.1)
  let s := alone.foldl (fun s m => if m.1 = s.peer then s.sendOwn g addr data m.2 else s.sendTagged g 6 m.1 addr data m.2) s
  (List.range 32).foldl (fun s x =>
    match grouped.filter fun m => colOf m.1 == x with
    | [] => s
    | ms => s.sendColumn g addr data x ms) s

/-- Bytes of the contributing lanes lie outside the line of the lowest (R354). -/
def farBytes (x : Ctx) (o : MemOp) : Bool :=
  let accs := accsOf x.contrib (x.val 0)
  let line (a : LaneAcc) : Nat := a.va / 64
  accs.any fun a => some (line a) != accs.head?.map line || decide ((a.va + (o.ty.orElse .b32).bytes - 1) / 64 ≠ line a)

/-- The DESCRIPTOR of an MCAST on the operands known, which comes before a fault of its queue operands (R252): bytes outside the
line, or a member list that is malformed. -/
def castCause (s : State) (c : Issue) (x : Ctx) (o : MemOp) : Option (BitVec 8) :=
  if x.contrib = 0 then none
  else if farBytes x o then some 0x2C
  else if x.known 2 then
    match (s.readMembers c.gid (x.one 2)).2 with
    | .ok none => some 0x2C
    | _ => none
  else none

/-- MCAST after its list has been read and its bytes found in one line (R354). -/
def multicast (s0 s : State) (c : Issue) (x : Ctx) (o : MemOp) (members : List (BitVec 12)) : State :=
  let g := c.gid
  let i : Instr := .mcast o
  let t := o.ty.orElse .b32
  let rel := o.ord == .rel
  let accs := accsOf x.contrib (x.val 0)
  let r := s.checkLanes (s.whoOf g) accs t.bytes rel { write := true, fetch := false, ban := .odd } 0
  let errs := r.2.errs
  if errs.any fun e => fatalCause e.cause then r.1.trapLanes g c.clause c.idx (s.restOf g x.contrib) errs
  else if errs ≠ [] then r.1.parkWhole c i x.vals x.part errs
  else
    match s.lanesWait r.1 g (r.2.ok.map fun k => (k.1, [])) with
    | some w => s0.blockOn c w
    | none =>
      let base := (r.2.ok.head?.bind fun k => k.2.head?.map (·.place)).getD 0 / 64 * 64
      let offs := r.2.ok.flatMap fun k =>
        (k.2.zip (bytesOf t.bytes (x.val 1 k.1))).map fun lb => (lb.1.place % 64, lb.2)
      s0.strongThen r.1 c x rel o.scope true 1 id fun s =>
        let p := s.result c x .fb o.d 2 0 x.lanes fun _ => 0
        p.1.sendMulticast g p.2 members base (castLine offs)

end State

/-- MCAST (R353, R354). -/
def execMcast (o : MemOp) (s : State) : Host.Outcome State Fault Refusal :=
  let i : Instr := .mcast o
  let n := (o.ty.orElse .b32).regs
  run s { ask i o.ctl [(0, o.a, 2), (1, o.b, n), (2, o.c, 2)] [(o.d, 2)] with
      cross := true, early := fun t c x => t.castCause c x o } fun t c x =>
    if x.contrib = 0 then s.putLater t c i x .fb o.d 2 fun _ => 0
    else if State.farBytes x o then t.trapHere c x 0x2C
    else
      let r := t.readMembers c.gid (x.one 2)
      match r.2 with
      | .error e => s.descHitch r.1 c i x e
      | .ok none => r.1.trapHere c x 0x2C
      | .ok (some members) => s.multicast r.1 c x o members

end Sys2Proof.Machine
end

