-- ==== Sys2Proof/Machine/Narrow.lean ====
section
/-! DEFINITION. Scaled rows, the nibble stream of scale codes, sparse operands, and the accumulation of matrix products
(R240 to R245). -/

namespace Sys2Proof.Machine

/-! ### Scale codes (R240 to R242) -/

/-- A block's scale: its code, or NaN (R241). -/
structure Scale where
  code : Int
  bad : Bool
  deriving DecidableEq, Repr

/-- A value with its block's scale (R241). -/
def scaled (k : Scale) (x : Fp) : Fp := if k.bad then .nan else Fp.scale (k.code - 127) x

/-- The nibbles of a byte string, low nibble first. -/
def nibblesOf (bs : List Byte) : List Nat := bs.flatMap fun b => [b.toNat % 16, b.toNat / 16]

/-- `n` codes of a nibble stream (R240, R241); `first` marks the row's first block. -/
def readNibbles : Nat → Bool → Int → List Nat → List Scale
  | 0, _, _, _ => []
  | n + 1, first, prev, ds =>
    match ds with
    | 8 :: lo :: hi :: rest =>
      let s : Int := ((lo + 16 * hi : Nat) : Int)
      { code := s, bad := s == 255 } :: readNibbles n false s rest
    | d :: rest =>
      let s : Int := prev + signedOf 4 d
      { code := s, bad := first || decide (s < 0) || decide (254 < s) } :: readNibbles n false s rest
    | [] => { code := 127, bad := true } :: readNibbles n false prev []

/-- The scales of a row's first `n` blocks, from its scale row (R240, R241). -/
def readScales (scl n : Nat) (bs : List Byte) : List Scale :=
  if scl = 1 then (List.range n).map fun i =>
    let b := (bs.getD i 0).toNat
    { code := (b : Int), bad := b == 255 }
  else readNibbles n true 127 (nibblesOf bs)

/-- The nibbles of a list of codes (R240, R242). -/
def writeNibbles : Bool → Nat → List Nat → List Nat
  | _, _, [] => []
  | first, prev, s :: rest =>
    let d : Int := (s : Int) - (prev : Int)
    let out := if first || decide (d < -7) || decide (7 < d) then [8, s % 16, s / 16] else [wrapInt 4 d]
    out ++ writeNibbles false s rest

/-- Bytes from nibbles, low nibble first. -/
def packNibbles : List Nat → List Byte
  | [] => []
  | [a] => [BitVec.ofNat 8 a]
  | a :: b :: rest => BitVec.ofNat 8 (a + 16 * b) :: packNibbles rest

/-- The encoded scale row of a list of codes (R240, R242). -/
def encodeScales (scl : Nat) (codes : List Nat) : List Byte :=
  if scl = 1 then codes.map fun c => BitVec.ofNat 8 c else packNibbles (writeNibbles true 127 codes)

/-- floor(Log2 |x|) of a nonzero finite value. -/
def logFloor : Fp → Int
  | .fin _ m e => Nat.log2 m + e
  | _ => 0

/-- Emax of an element format (R242). -/
def emaxOf (f : Fmt) : Int :=
  let k := f.mag f.maxCode
  Nat.log2 k.1 + k.2

/-- The scale code that a conversion chooses for a block (R242). -/
def chooseScale (f : Fmt) (first : Bool) (prev : Nat) (xs : List Fp) : Nat :=
  let infinite := xs.any fun x => match x with | .inf _ => true | _ => false
  let big := xs.filter fun x => match x with | .fin _ m _ => m != 0 | _ => false
  if infinite then 254
  else
    match big with
    | [] => if first then 127 else prev
    | x :: more =>
      (clampInt (more.foldl (fun (k : Int) y => max k (logFloor y)) (logFloor x) - emaxOf f + 127) 0 254).toNat

/-- The codes of consecutive blocks (R242). -/
def chooseScales (f : Fmt) : Bool → Nat → List (List Fp) → List Nat
  | _, _, [] => []
  | first, prev, b :: rest =>
    let s := chooseScale f first prev b
    s :: chooseScales f false s rest

/-- Runs of `n` elements; `fuel` bounds their number. -/
def chunks {α : Type} (n : Nat) : Nat → List α → List (List α)
  | 0, _ => []
  | fuel + 1, xs => if xs.isEmpty then [] else xs.take n :: chunks n fuel (xs.drop n)

/-! ### Bit streams -/

/-- Element `i` of `b` bits of a byte string (R372). -/
def streamElem (b : Nat) (bs : List Byte) (i : Nat) : Nat :=
  let lo := b * i / 8
  natOfBytes ((bs.drop lo).take 5) / 2 ^ (b * i % 8) % 2 ^ b

/-- A number from elements of `b` bits, the first lowest. -/
def packElems (b : Nat) : List Nat → Nat
  | [] => 0
  | x :: xs => x % 2 ^ b + 2 ^ b * packElems b xs

/-! ### Operand rows (R243, R372, R379) -/

/-- A logical position: its value, and whether it contributes a product (R243). -/
structure Elem where
  val : Fp
  live : Bool
  deriving DecidableEq, Repr

/-- Set bits of a metadata word among positions 0 to 47. -/
def metaCount (m : Nat) : Nat := popCount 48 m

/-- The metadata words of a compressed row. -/
def metaWords (g : Nat) (row : List Byte) : List Nat := (List.range g).map fun i => natOfBytes ((row.drop (8 * i)).take 8)

/-- One group of 48 positions of a compressed row: `j` counts the values taken so far. -/
def sparseGroup (f : Fmt) (vals : List Byte) (m : Nat) : Nat → Nat → Nat → List Elem
  | 0, _, _ => []
  | n + 1, i, j =>
    if m / 2 ^ i % 2 = 1 then
      { val := f.decode (streamElem f.width vals j), live := true } :: sparseGroup f vals m n (i + 1) (j + 1)
    else { val := .fin false 0 0, live := false } :: sparseGroup f vals m n (i + 1) j

/-- The K logical positions of an operand row with their block scales (R241, R243, R372, R379). -/
def operandRow (d : DWord) (k : Nat) (row scales : List Byte) : List Elem :=
  let f := fsFmt d
  let n := fsSpn d
  let raw : List Elem :=
    if n = 0 then (List.range k).map fun i => { val := f.decode (streamElem f.width row i), live := true }
    else
      let g := k / 48
      let ms := metaWords g row
      (List.range g).flatMap fun i => sparseGroup f (row.drop (8 * g)) (ms.getD i 0) 48 0 (n * i)
  let b := fsBlock d
  if b = 0 then raw
  else
    let ss := readScales (fsScl d) ((k + b - 1) / b) scales
    (List.range k).map fun i =>
      let e := raw.getD i { val := .fin false 0 0, live := false }
      { e with val := scaled (ss.getD (i / b) { code := 127, bad := true }) e.val }

/-! ### Accumulation (R244, R245) -/

/-- One group of 16 positions applied to an accumulator. -/
def accumulate (acc : Nat) (a b : List Elem) : Nat :=
  let f := Fmt.f32
  let x := f.decode acc
  let pairs := a.zip b
  let prods := (pairs.filter fun p => p.1.live && p.2.live).map fun p => Fp.mul p.1.val p.2.val
  if pairs.any fun p => p.1.val.isNan || p.2.val.isNan then f.nanCode
  else
    let r := f.encode .ne (Fp.sum (x :: prods))
    if r % 2 ^ 31 = 0 then
      (if x.sign && x.isZero && prods.all fun p => p.sign && p.isZero then 2 ^ 31 else 0)
    else r

/-- Every group of 16 positions, in ascending order. -/
def dotRow (acc : Nat) (a b : List Elem) : Nat :=
  ((chunks 16 (a.length / 16 + 1) a).zip (chunks 16 (b.length / 16 + 1) b)).foldl (fun acc p => accumulate acc p.1 p.2) acc

/-! ### Storage of operands (R377 to R379) -/

/-- The pair of element formats is accepted (R377). -/
def pairOk (a b : DWord) : Bool :=
  (fsKind a == 0 && fsKind b == 0) || ((fsKind a == 1 || fsKind a == 2) && (fsKind b == 1 || fsKind b == 2)) ||
    (fsKind a == 3 && fsKind b == 3)

/-- A row of K elements fits in 256 bytes (R377, R379). -/
def rowFits (d : DWord) (k : Nat) : Bool :=
  let b := (fsFmt d).width
  let n := fsSpn d
  if n = 0 then decide ((k * b + 7) / 8 ≤ 256)
  else decide (8 * (k / 48) + (k / 48 * n * b + 7) / 8 ≤ 256)

/-- The K of a multiply (R378): AUX, or the largest that both rows hold; none where it does not fit. -/
def extentOf (a b : DWord) (sparse : Bool) (ku : Nat) : Option Nat :=
  let ok (k : Nat) : Bool := rowFits a k && rowFits b k
  if ku ≠ 0 then (if ok (16 * ku) then some (16 * ku) else none)
  else
    let step := if sparse then 48 else 16
    ((List.range (512 / step)).reverse.map fun i => step * (i + 1)).find? ok

end Sys2Proof.Machine
end

