-- ==== Sys2Proof/Machine/Resource.lean ====
section
/-! DEFINITION. ACQ, TRYACQ, REL and CLAIMQ (R178 to R180, R368 to R371). -/

namespace Sys2Proof.Machine

namespace State

/-- Accumulator names that a request names: from `first` upward. -/
def namesFrom (first n : Nat) : List Nat := (List.range (min n 17)).map fun i => first + i

/-- The check that a request meets before Sage is asked (R369). -/
def requestFault (s : State) (g : Nat) (cls : ResClass) (n first : Nat) : Option (BitVec 8) :=
  let bound := (s.group g).regs.acc
  if s.overClaim g cls n || (cls == .acc && decide (16 < bound.length + n)) then some 0x26
  else if cls = .acc ∧ (16 < first + n ∨ (namesFrom first n).any fun a => (Map.find bound a).isSome) then some 0x2C
  else none

/-- An earlier request of the same part is parked (R369). -/
def queuedBehind (s : State) (g : Nat) : Bool :=
  (s.core (coreOf g)).sageQueue.any fun h => (s.group h).block == (s.group g).block

/-- Slots of a part that no tile name of a group of it that has not exited names, ascending (R164, R370, R376). -/
def unnamedSlots (s : State) (key : Nat) : List Nat :=
  match s.block? key with
  | none => []
  | some b =>
    let live := b.groups.filter fun g => (s.group g).park != .draining
    (List.range 32).filter fun q => b.tiles.contains q && !live.any fun g => (s.group g).regs.tile.any fun e => e.2 == q

/-- Operations of a part's groups that address scratchpad granules are outstanding (R370). -/
def spadBusy (s : State) (b : Block) (gs : List Nat) : Bool :=
  let inside (p : Nat) : Bool := gs.any fun g => decide (spadPlace b.core (16384 * g) ≤ p) && decide (p < spadPlace b.core (16384 * (g + 1)))
  let touches (p n : Nat) : Bool := inside p || inside (p + n - 1)
  let mine (g : Nat) : Bool := b.groups.contains g
  (s.core b.core).copies.any (fun k => mine k.gid && ((k.barrier.any inside) ||
      k.segs.any fun e => touches e.src e.len || touches e.dst e.len)) ||
    (s.cores.any fun c => c.2.waiters.any fun w => mine w.gid && inside w.obj) ||
    (b.groups.any fun g => match (s.group g).park with | .wait (.phase obj _) => inside obj | _ => false) ||
    s.svc.colls.any fun k => k.dests.any fun d => d.core == b.core && (inside d.barrier || inside d.status)

/-- An MX operation of a part's groups has lanes that have not been performed (R370). -/
def matrixBusy (s : State) (b : Block) : Bool :=
  b.groups.any fun g => (s.group g).ops.pend.any fun p => p.kind == .mx && p.missing != 0

/-- Copies that name tile slots or, as `accUnit`, quarter-tiles are outstanding on a core (R370). -/
def unitsBusy (s : State) (core : Nat) (us : List Nat) : Bool :=
  (s.core core).copies.any fun k => k.tileSlots.any us.contains

/-- Operations that name tile slots are outstanding on a part's core (R370). -/
def slotsBusy (s : State) (b : Block) (qs : List Nat) : Bool :=
  s.matrixBusy b || s.unitsBusy b.core qs ||
    s.svc.copies.any (fun k => k.dests.any fun d => d.1 == b.core && qs.contains d.2) ||
    s.svc.colls.any fun k => k.started && k.dests.any fun d => d.core == b.core && qs.contains d.slot

/-- The units of one class that REL would return, where it may: vector granules and accumulators of the group, others
of the part (R370). -/
inductive Return where
  | trap (cause : BitVec 8)
  | busy
  | done (s : State)

/-- Vector granules returned. -/
def relVreg (s : State) (g n : Nat) : Return :=
  let k := (s.group g).granules
  if k < n then .trap 0x26
  else
    let s := s.flushPend g
    if (s.group g).ops.pend.any fun p => p.missing != 0 then .busy
    else .done (s.onGroup g fun x => { x with granules := k - n, regs := clearVecs x.regs (8 * (k - n)) (8 * k) })

/-- Scratchpad granules returned. -/
def relSpad (s : State) (g n : Nat) : Return :=
  let key := (s.group g).block
  match s.block? key with
  | none => if n = 0 then .done s else .trap 0x26
  | some b =>
    if b.spad.length < n then .trap 0x26
    else if s.spadBusy b (b.spad.drop (b.spad.length - n)) then .busy
    else .done (s.setBlock key { b with spad := b.spad.take (b.spad.length - n) })

/-- Tile slots returned. -/
def relTile (s : State) (g n : Nat) : Return :=
  let key := (s.group g).block
  let qs := (s.unnamedSlots key).take n
  match s.block? key with
  | none => if n = 0 then .done s else .trap 0x26
  | some b =>
    if qs.length < n then .trap 0x26
    else if s.slotsBusy b qs then .busy
    else .done (s.setBlock key { b with tiles := b.tiles.filter fun q => !qs.contains q })

/-- Quarter-tiles returned: unbound from every name of every group of the part. A name that is none, or that is bound to
nothing, is one that holds nothing (R252, R370). -/
def relAcc (s : State) (g n first : Nat) : Return :=
  let key := (s.group g).block
  let names := namesFrom first n
  let bound := (s.group g).regs.acc
  let held := ((s.block? key).map fun b => b.accs.length).getD 0
  if held < n ∨ (names.any fun a => decide (a < 16) && (Map.find bound a).isNone) then .trap 0x26
  else if 16 < first + n then .trap 0x2C
  else
    let qs := names.filterMap fun a => Map.find bound a
    match s.block? key with
    | none => .done s
    | some b =>
      if s.matrixBusy b || s.unitsBusy b.core (qs.map accUnit) then .busy
      else
      let s := b.groups.foldl (fun s h => s.modRegs h fun r => { r with acc := r.acc.filter fun e => !qs.contains e.2 }) s
      .done (s.setBlock key { b with accs := b.accs.filter fun q => !qs.contains q })

/-- REL of one class (R370). -/
def returnUnits (s : State) (g : Nat) (cls : ResClass) (n first : Nat) : Return :=
  match cls with
  | .vreg => s.relVreg g n
  | .spad => s.relSpad g n
  | .tile => s.relTile g n
  | .acc => s.relAcc g n first

/-- The cause with which REL of one class traps (R370). -/
def returnFault (s : State) (g : Nat) (cls : ResClass) (n first : Nat) : Option (BitVec 8) :=
  match s.returnUnits g cls n first with
  | .trap cause => some cause
  | _ => none

/-- CLAIMQ's result (R371); the maximum of resident code, which has no claim, is a free value. -/
def claimWord (s : State) (g : Nat) (cls : ResClass) : State × Nat :=
  let x := s.group g
  let u := s.avail (coreOf g)
  let free := if cls = .vreg then min (u.v / x.flow.width) 65535 else u.get cls
  match s.blockOf g with
  | some b =>
    let hold := if cls = .vreg then x.granules else (s.holdOf b).get cls
    let m := match cls with | .vreg => b.vmax | .spad => b.smax | .tile => b.tmax | .acc => b.amax
    (s, hold + 2 ^ 8 * m + 2 ^ 16 * free)
  | none =>
    (s.free.1, (if cls = .vreg then x.granules else 0) + 2 ^ 8 * (s.free.2.toNat % 256) + 2 ^ 16 * free)

end State

/-- A request for units whose count is known takes the fault of R369's checks before one of its queue operands (R252). -/
def earlyRequest (o : SageOp) (t : State) (c : Issue) (x : Ctx) : Option (BitVec 8) :=
  let n := x.one 0 % 2 ^ 32
  if x.known 0 && n != 0 then t.requestFault c.gid o.cls n o.first.toNat else none

/-- The same of REL (R252, R370). -/
def earlyReturn (o : SageOp) (t : State) (c : Issue) (x : Ctx) : Option (BitVec 8) :=
  if x.known 0 then t.returnFault c.gid o.cls (x.one 0 % 2 ^ 32) o.first.toNat else none

/-- ACQ (R178, R179, R369): the group parks until the pass of Sage grants the request. -/
def execAcq (o : SageOp) (s : State) : Host.Outcome State Fault Refusal :=
  let i : Instr := .acq o
  run s { ask i o.ctl [(0, o.a, 1)] [(o.d, 1)] with early := earlyRequest o } fun t c x =>
    let n := x.one 0 % 2 ^ 32
    let first := o.first.toNat
    if n = 0 then s.putFixed t c i x o.d 1 fun _ => 0
    else
      match t.requestFault c.gid o.cls n first with
      | some cause => t.trapHere c x cause
      | none =>
        if x.replay.isSome then
          if t.queuedBehind c.gid || t.verdict c.gid o.cls n != .granted then s.blockOn c (.units o.cls)
          else s.putFixed (t.giveUnits c.gid o.cls n first) c i x o.d 1 fun _ => 0
        else
          let t := t.onGroup c.gid fun y => { y with park := .sage o.cls n first o.d c.quads }
          let t := t.modCore (State.coreOf c.gid) fun k => { k with sageQueue := k.sageQueue ++ [c.gid] }
          t.staysHeld.sagePass (State.coreOf c.gid)

/-- TRYACQ (R178, R369): judged in its place of the pass that its arrival makes (R179). -/
def execTryacq (o : SageOp) (s : State) : Host.Outcome State Fault Refusal :=
  let i : Instr := .tryacq o
  run s { ask i o.ctl [(0, o.a, 1)] [(o.d, 1)] with early := earlyRequest o } fun t c x =>
    let n := x.one 0 % 2 ^ 32
    let status (t : State) (k : Nat) : State := s.putFixed t c i x o.d 1 fun _ => k
    if n = 0 then status t 0
    else
      match t.requestFault c.gid o.cls n o.first.toNat with
      | some cause => t.trapHere c x cause
      | none =>
        t.sagePassThen (State.coreOf c.gid) (t.group c.gid).block fun t =>
        if t.queuedBehind c.gid then status t 3
        else
          match t.verdict c.gid o.cls n with
          | .granted => status (t.giveUnits c.gid o.cls n o.first.toNat) 0
          | .unavailable => status t 1
          | .unsafe_ => status t 2

/-- REL (R180, R370). -/
def execRel (o : SageOp) (s : State) : Host.Outcome State Fault Refusal :=
  run s { ask (.rel o) o.ctl [(0, o.a, 1)] [] with early := earlyReturn o } fun t c x =>
    match t.returnUnits c.gid o.cls (x.one 0 % 2 ^ 32) o.first.toNat with
    | .trap cause => t.trapHere c x cause
    | .busy => s.blockOn c (.units o.cls)
    | .done t => t.sagePass (State.coreOf c.gid)

/-- CLAIMQ (R371). -/
def execClaimq (o : SageOp) (s : State) : Host.Outcome State Fault Refusal :=
  run s (ask (.claimq o) o.ctl [] [(o.d, 1)]) fun t c x =>
    let r := t.claimWord c.gid o.cls
    s.putFixed r.1 c (.claimq o) x o.d 1 fun _ => r.2

end Sys2Proof.Machine
end

