-- ==== Sys2Proof/Machine/Matrix.lean ====
section
/-! DEFINITION. The MTX instructions (R372 to R390). -/

namespace Sys2Proof.Machine

/-- The slot or quarter-tile that a name of the issuing group binds. -/
def State.slotOf (s : State) (isAcc : Bool) (n : Nat) : Option Nat :=
  s.cur.bind fun c => Map.find (if isAcc then (s.group c.gid).regs.acc else (s.group c.gid).regs.tile) n

namespace State

/-- The format slot of an instruction in the issuing group. -/
def slotFs (s : State) (c : Issue) (n : BitVec 3) : DWord := (s.group c.gid).regs.getFs n.toNat

/-- A program trap of an instruction that works by rows or lanes; helper lanes alone raise none (R152). What a slot
holds is checked whichever lanes take part (R374, R387). -/
def trapRows (s : State) (c : Issue) (x : Ctx) (cause : BitVec 8) : State :=
  if x.contrib = 0 ∧ x.lanes ≠ 0 then s else s.trapHere c x cause

/-- Rows whose owner is in a lane mask (R373). -/
def rowsOf (w : Nat) (lanes : Lanes) : List Nat := (List.range 128).filter fun r => lanes.getLsbD (r % w)

/-! ### Names (R376) -/

/-- The slot that MCLAIM binds. -/
def claimSlot (s : State) (g : Nat) (at_ : Option Nat) : Option Nat :=
  match at_ with
  | none => (s.unnamedSlots (s.group g).block).head?
  | some q =>
    match s.blockOf g with
    | none => none
    | some b => if b.tiles.contains q then some q else none

/-! ### Operand rows and accumulators (R372, R373) -/

/-- The bytes of an operand row and of its scale row. -/
def rowBytes (s : State) (core slot n : Nat) : List Byte := s.bytesAt (tilePlace core slot (256 * n)) 256
def scaleBytes (s : State) (core slot n : Nat) : List Byte := s.bytesAt (tilePlace core slot (0xC000 + 64 * n)) 64

/-- An operand row, or its scale row where the slot has block scales, is poisoned (R374). -/
def rowPoisoned (s : State) (core slot n : Nat) (d : DWord) : Option Nat :=
  let a := tilePlace core slot (256 * n)
  let b := tilePlace core slot (0xC000 + 64 * n)
  if s.poisoned a then some a else if fsBlk d ≠ 0 && s.poisoned b then some b else none

/-- The first poisoned element of an accumulator row. -/
def accPoisoned (s : State) (core q r : Nat) : Option Nat :=
  ((List.range 192).map fun n => accPlace core q r n).find? fun p => s.poisoned p

/-- The power state that a matrix operation starts in (R46, R47, R386), and the burst it counts down (R385). -/
def startArray (s : State) (g : Nat) : State :=
  let half := s.alarm && (s.core (coreOf g)).mtxMode != 0
  let s := s.modCore (coreOf g) fun k => { k with half, gap := false, ramped := false }
  s.modOps g fun o => { o with burst := o.burst - 1 }

/-- The metadata of a taken row that does not hold exactly N marks (R243, R380). -/
def badMeta (s : State) (core slot k n : Nat) (rows : List Nat) : Bool :=
  rows.any fun r => (metaWords (k / 48) (s.rowBytes core slot r)).any fun m => metaCount m != n

/-- MMA and MMAS (R377 to R380): `taken` are the rows of contributing lanes, whose metadata and poison are checked whether
or not the band mask closes them, `rows` the rows taken that it leaves open, and `own` those of contributing lanes. `v` is the state as the
group sees the slots (R340). -/
def multiply (s v : State) (c : Issue) (x : Ctx) (o : MtxMul) (sparse : Bool) (q sa sb : Nat) (taken rows own : List Nat) : State :=
  let core := coreOf c.gid
  let da := s.slotFs c o.fsa
  let db := s.slotFs c o.fsb
  let zero := o.sub == 1
  if (sparse != (fsSpn da != 0)) || fsSpn db != 0 || !pairOk da db then s.trapRows c x 0x2C
  else
    match extentOf da db sparse o.ku.toNat with
    | none => s.trapRows c x 0x2C
    | some k =>
      if sparse && v.badMeta core sa k (fsSpn da) taken then s.trapRows c x 0x2B
      else
        let bad := (taken.findSome? fun r => s.rowPoisoned core sa r da).orElse fun _ =>
          ((if taken = [] then [] else List.range 192).findSome? fun n => s.rowPoisoned core sb n db).orElse fun _ =>
            if zero then none else own.findSome? fun r => s.accPoisoned core q r
        match bad with
        | some p => s.consumePoison c.gid x.lanes c.clause c.idx p
        | none =>
          let bs := if rows = [] then [] else
            (List.range 192).map fun n => operandRow db k (v.rowBytes core sb n) (v.scaleBytes core sb n)
          let t := s.startArray c.gid
          rows.foldl (fun t r =>
            let a := operandRow da k (v.rowBytes core sa r) (v.scaleBytes core sa r)
            let t := t.noteWrite c.gid (accPlace core q r 0) 768
            (bs.zip (List.range 192)).foldl (fun t b =>
              let p := accPlace core q r b.2
              let t := t.setNum p 4 (dotRow (if zero then 0 else v.numAt p 4) a b.1)
              if zero then t.clearPoison p else t) t) t

end State

/-- MMA and MMAS: the shared prologue and the rows (R374, R380). -/
def matrixOp (i : Instr) (o : MtxMul) (sparse : Bool) (s : State) : Host.Outcome State Fault Refusal :=
  let q := s.slotOf true o.acc.toNat
  let sa := s.slotOf false o.ta.toNat
  let sb := s.slotOf false o.tb.toNat
  run s { ask i o.ctl [(2, o.mask, 1)] [] with unheld := q.isNone || sa.isNone || sb.isNone } fun t c x =>
    let w := (t.group c.gid).flow.width
    let band := x.one 2
    let rows (m : Lanes) : List Nat := (State.rowsOf w m).filter fun r => band / 2 ^ (r / w) % 2 == 0
    let core := State.coreOf c.gid
    let v := ((t.raceSlot core (sa.getD 0)).raceSlot core (sb.getD 0)).viewFor c.gid fun p =>
      State.inSlot core (sa.getD 0) p || State.inSlot core (sb.getD 0) p || State.inAcc core (q.getD 0) p
    v.1.multiply v.2 c x o sparse (q.getD 0) (sa.getD 0) (sb.getD 0)
      (State.rowsOf w x.contrib) (rows x.lanes) (rows x.contrib)

/-- MMA (R380). -/
def execMma (o : MtxMul) (s : State) : Host.Outcome State Fault Refusal := matrixOp (.mma o) o false s

/-- MMAS (R380). -/
def execMmas (o : MtxMul) (s : State) : Host.Outcome State Fault Refusal := matrixOp (.mmas o) o true s

/-- MCLAIM (R376). -/
def execMclaim (o : MtxName) (s : State) : Host.Outcome State Fault Refusal :=
  let reg : Opnd := .g (o.aux.setWidth 6)
  run s (ask (.mclaim o) o.ctl (if o.sub = 1 then [(0, reg, 1)] else []) []) fun t c x =>
    match t.claimSlot c.gid (if o.sub = 1 then some (x.one 0) else none) with
    | none => t.trapHere c x 0x26
    | some q =>
      if (Map.find (t.group c.gid).regs.tile o.idx.toNat).isSome then t.trapHere c x 0x2C
      else t.modRegs c.gid fun r => { r with tile := Map.put o.idx.toNat q r.tile }

/-- MREL (R376). -/
def execMrel (o : MtxName) (s : State) : Host.Outcome State Fault Refusal :=
  run s (ask (.mrel o) o.ctl [] []) fun t c _ =>
    t.modRegs c.gid fun r => { r with tile := Map.del o.idx.toNat r.tile }

/-- AZERO (R382). -/
def execAzero (o : MtxName) (s : State) : Host.Outcome State Fault Refusal :=
  let q := s.slotOf true o.idx.toNat
  run s { ask (.azero o) o.ctl [] [] with unheld := q.isNone } fun t c x =>
    (State.rowsOf (t.group c.gid).flow.width x.lanes).foldl (fun t r =>
      (t.noteWrite c.gid (accPlace (State.coreOf c.gid) (q.getD 0) r 0) 768).wipeRange
        (accPlace (State.coreOf c.gid) (q.getD 0) r 0) (accPlace (State.coreOf c.gid) (q.getD 0) (r + 1) 0)) t

namespace State

/-- The rows of one lane of AST: each row's checked range, or the failures (R383). -/
def storeRows (s : State) (g l a step w : Nat) : State × List (Nat × Nat × Extent) × List LaneErr :=
  match (List.range (128 / w)).findSome? fun j => s.addressFault (s.whoOf g) ((a + step * j) % 2 ^ 64) 768 with
  | some e => (s, [], [laneErr l true e])
  | none =>
    if a % 4 ≠ 0 then (s, [], [laneErr l true (Snag.plain 2 0x12 a)])
    else
    (List.range (128 / w)).foldl (fun (r : State × List (Nat × Nat × Extent) × List LaneErr) j =>
      let va := (a + step * j) % 2 ^ 64
      let k := r.1.checkRange g l va 768 true
      (k.1, r.2.1 ++ [(l + w * j, va, k.2.1)], r.2.2 ++ k.2.2)) (s, [], [])

/-- The pieces of one row of AST. -/
def rowPieces (s : State) (core q : Nat) (row : Nat × Nat × Extent) : List CopySeg :=
  piecesOf [] row.2.2 (some (s.bytesAt (accPlace core q row.1 0) 768)) 0 0 row.2.1 400 0 768

/-- A piece's data comes from a poisoned element: `base` is the row's place and `o` the piece's offset in it. -/
def markPieces (s : State) (base : Nat) : Nat → List CopySeg → List CopySeg
  | _, [] => []
  | o, k :: rest =>
    let bad := (List.range ((k.len + 3) / 4 + 1)).find? fun i =>
      decide ((o + 4 * i) / 4 * 4 < o + k.len) && s.poisoned (base + (o + 4 * i) / 4 * 4)
    { k with src := match bad with | some i => base + (o + 4 * i) / 4 * 4 | none => 0 } :: markPieces s base (o + k.len) rest

/-- AST (R383) over the contributing lanes that have not been performed, on the accumulators as `v` shows them (R340). -/
def storeTile (s0 sIn v : State) (c : Issue) (x : Ctx) (o : MtxStore) (q : Nat) : State :=
  let s := sIn
  let g := c.gid
  let w := (s.group g).flow.width
  let core := coreOf g
  let step := if o.step = 0 then 768 * w else 256 * o.step.toNat
  let r := (laneList x.contrib).foldl
    (fun (r : State × List (Nat × List (Nat × Nat × Extent)) × List LaneErr) l =>
      let k := r.1.storeRows g l (x.val 1 l) step w
      if k.2.2 = [] then (k.1, r.2.1 ++ [(l, k.2.1)], r.2.2) else (k.1, r.2.1, r.2.2 ++ k.2.2)) (s, [], [])
  if r.2.2.any fun e => fatalCause e.cause then r.1.trapLanes g c.clause c.idx (s.restOf g x.contrib) r.2.2
  else
    let s := r.1
    let segsOf (rows : List (Nat × Nat × Extent)) : List CopySeg := rows.flatMap fun row =>
      s.markPieces (accPlace core q row.1 0) 0 (v.rowPieces core q row)
    let owned := r.2.1.any fun k => ownedLines (segsOf k.2) != []
    match sIn.engineWait s g r.2.1.length ((r.2.1.map fun k => segUnits (segsOf k.2)).sum) with
    | some w => s0.blockOn c w
    | none =>
      let sign (t : State) : State := r.2.1.foldl (fun t k => k.2.foldl (fun t row =>
        t.signStore g row.2.1 (v.bytesAt (accPlace core q row.1 0) 768)) t) t
      let go (t : State) : State :=
        let t := r.2.1.foldl (fun t k => (t.chargeSegs g (segsOf k.2)).startCopy g .mx (segsOf k.2) none [accUnit q]
          (laneBit k.1)) t
        if r.2.2 = [] then t else t.parkLanes c (.ast o) x.vals 0 (errLanes r.2.2) r.2.2
      if owned then s0.force s c x 1 sign go else if s.isTwin g then go (sign s) else go s

end State

/-- AST (R383). -/
def execAst (o : MtxStore) (s : State) : Host.Outcome State Fault Refusal :=
  let q := s.slotOf true o.acc.toNat
  run s { ask (.ast o) o.ctl [(1, o.addr, 2)] [] with unheld := q.isNone } fun t c x =>
    let v := t.viewFor c.gid (State.inAcc (State.coreOf c.gid) (q.getD 0))
    s.storeTile v.1 v.2 c x o (q.getD 0)

namespace State

/-- The conversion of accumulator values to elements of a slot's format, with a generator (R234 to R239, R384). -/
def convertRow (d : DWord) (codes : List Nat) : Word → List Fp → Word × List Nat
  | z, [] => (z, codes.reverse)
  | z, v :: rest =>
    let r := if fsRnd d = 2 then drawStep z else (z, 0)
    convertRow d ((fsFmt d).convert (fsRound d r.2) (fsSat d) v :: codes) r.1 rest

/-- One row of ACVT (R384), on the accumulators as `v` shows them (R340). With KIND 0 the elements are copied and nothing is
drawn, whatever RND says (notes/assumptions/62.md). -/
def acvtRow (v s : State) (g core slot q c0 : Nat) (d : DWord) (r : Nat) : State :=
  let f := fsFmt d
  let w := (s.group g).flow.width
  let n := min (192 - 16 * c0) (2048 / f.width)
  let raw := (List.range n).map fun i => v.numAt (accPlace core q r (16 * c0 + i)) 4
  let vals := raw.map fun x => Fmt.f32.decode x
  let b := fsBlock d
  let groups := if b = 0 then [] else chunks b (n / b + 1) vals
  let codes := chooseScales f true 127 groups
  let qs := if b = 0 then vals else (List.range n).map fun i =>
    Fp.scale (127 - ((codes.getD (i / b) 127 : Nat) : Int)) (vals.getD i .nan)
  let out := convertRow d [] ((s.group g).regs.getZ (r % w)) qs
  let elems := if fsKind d = 0 then raw else out.2
  let s := (s.noteWrite g (tilePlace core slot (256 * r)) 256).setBytes (tilePlace core slot (256 * r)) (bytesOf 256 (packElems f.width elems))
  let s := s.clearPoison (tilePlace core slot (256 * r))
  let s := if fsRnd d = 2 && fsKind d != 0 then s.modRegs g fun k => k.setZ (r % w) out.1 else s
  if b = 0 then s
  else
    let bs := encodeScales (fsScl d) codes
    (s.noteWrite g (tilePlace core slot (0xC000 + 64 * r)) 64).setBytes (tilePlace core slot (0xC000 + 64 * r)) (bs ++ List.replicate (64 - bs.length) 0)

/-- ACVT (R384): the rows taken, in ascending order. -/
def convertTile (s v : State) (c : Issue) (x : Ctx) (o : MtxCvt) (slot q : Nat) : State :=
  let core := coreOf c.gid
  let w := (s.group c.gid).flow.width
  let d := s.slotFs c o.fsi
  if fsSpn d ≠ 0 then s.trapRows c x 0x2C
  else
    let n := min (192 - 16 * o.c0.toNat) (2048 / (fsFmt d).width)
    let bad := (rowsOf w x.contrib).findSome? fun r =>
      ((List.range n).map fun i => accPlace core q r (16 * o.c0.toNat + i)).find? fun p => s.poisoned p
    match bad with
    | some p => s.consumePoison c.gid x.lanes c.clause c.idx p
    | none => (rowsOf w x.lanes).foldl (fun s r => v.acvtRow s c.gid core slot q o.c0.toNat d r) s

end State

/-- ACVT (R384). -/
def execAcvt (o : MtxCvt) (s : State) : Host.Outcome State Fault Refusal :=
  let q := s.slotOf true o.acc.toNat
  let slot := s.slotOf false o.tile.toNat
  run s { ask (.acvt o) o.ctl [] [] with unheld := q.isNone || slot.isNone } fun t c x =>
    let v := (t.raceSlot (State.coreOf c.gid) (slot.getD 0)).viewFor c.gid (State.inAcc (State.coreOf c.gid) (q.getD 0))
    v.1.convertTile v.2 c x o (slot.getD 0) (q.getD 0)

/-- MBURST (R385): with ramp fillers selected, the ramp-up filler starts after an idle gap, and the group's declaration
is held. -/
def execMburst (o : Reg3) (s : State) : Host.Outcome State Fault Refusal :=
  run s (ask (.mburst o) o.ctl [(0, o.a, 1)] []) fun t c x =>
    let n := min (x.one 0 % 2 ^ 32) 65535
    if n ≠ 0 ∧ (t.core (State.coreOf c.gid)).mtxMode = 1 then t
    else
      let t := t.modOps c.gid fun k => { k with burst := n }
      if n = 0 then t else t.modCore (State.coreOf c.gid) fun k => { k with ramped := k.ramped || k.gap }

/-! ### Register forms (R387 to R390) -/

/-- The narrow code and the scale code of a register (R387). -/
def codeOf (f : Fmt) (x : Nat) : Nat := x % 2 ^ f.width
def scaleOf (x : Nat) : Nat := x / 256 % 256

/-- A scaled code's value as binary32 (R388). -/
def widen (d : DWord) (x s : Nat) : Nat :=
  let f := fsFmt d
  Fmt.f32.encode .ne (scaled { code := (s : Int), bad := s == 255 } (f.decode (codeOf f x)))

/-- The block scales of CVTN over the contributing lanes (R388). -/
def laneScales (d : DWord) (w : Nat) (x : Ctx) : List Nat :=
  let b := fsBlock d
  if b = 0 then []
  else
    chooseScales (fsFmt d) true 127 ((List.range (w / b)).map fun k =>
      ((List.range b).map fun i => b * k + i).filterMap fun l =>
        if x.contrib.getLsbD l then some (Fmt.f32.decode (x.val 0 l)) else none)

/-- CVTN's result in one lane, for a draw. -/
def narrowCode (d : DWord) (scales : List Nat) (u a l : Nat) : Nat :=
  let b := fsBlock d
  let s := if b = 0 then 127 else scales.getD (l / b) 127
  256 * s + (fsFmt d).convert (fsRound d u) (fsSat d) (Fp.scale (127 - (s : Int)) (Fmt.f32.decode a))

/-- The encoded scale stream of SCLX (R389). -/
def scaleStream (d : DWord) (w : Nat) (x : Ctx) : List Byte :=
  let b := fsBlock d
  encodeScales (fsScl d) ((List.range (w / b)).map fun k => scaleOf (x.val 0 (b * k)))

/-- The packed stream of PACKN as a number (R390). -/
def packedStream (k w : Nat) (x : Ctx) : Nat :=
  packElems k ((List.range w).map fun l => if x.lanes.getLsbD l then x.val 0 l else x.one 1)

/-- The stream that UNPKN reads (R390): words of the issuing part's lanes. -/
def unpackedStream (quads : BitVec 16) (w : Nat) (x : Ctx) : Nat :=
  packElems 32 ((List.range w).map fun l => if quads.getLsbD (l / 4) then x.val 0 l else 0)

/-- A register form of narrow conversion: the slot must be narrow and dense, and its block no wider than the group
(R387). -/
def narrowOp (i : Instr) (o : MtxReg) (srcs : List (Nat × Opnd × Nat)) (needBlk : Bool)
    (body : State → Issue → Ctx → DWord → Nat → State × (Nat → Nat)) (s : State) : Host.Outcome State Fault Refusal :=
  let bad (t : State) (c : Issue) : Bool :=
    let d := t.slotFs c o.fsi
    fsKind d != 3 || fsSpn d != 0 || decide ((t.group c.gid).flow.width < fsBlock d) || (needBlk && fsBlk d == 0)
  run s { ask i o.ctl srcs [(o.d, 1)] with
          cross := true, early := fun t c _ => if bad t c then some 0x2C else none } fun t c x =>
    let d := t.slotFs c o.fsi
    let w := (t.group c.gid).flow.width
    if bad t c then t.trapRows c x 0x2C
    else
      let r := body t c x d w
      s.putLater r.1 c i x .mx o.d 1 r.2

/-- CVTN (R388). -/
def execCvtn (o : MtxReg) (s : State) : Host.Outcome State Fault Refusal :=
  narrowOp (.cvtn o) o [(0, o.a, 1)] false (fun t c x d w =>
    let r := (t.group c.gid).regs
    let ss := laneScales d w x
    (if fsRnd d = 2 then t.modRegs c.gid fun r => drawLanes r x.lanes else t,
      fun l => narrowCode d ss (drawStep (r.getZ l)).2 (x.val 0 l) l)) s

/-- CVTW (R388). -/
def execCvtw (o : MtxReg) (s : State) : Host.Outcome State Fault Refusal :=
  narrowOp (.cvtw o) o [(0, o.a, 1)] false (fun t _ x d _ =>
    (t, fun l => widen d (x.val 0 l) (if fsBlk d = 0 then 127 else scaleOf (x.val 0 l)))) s

/-- SCLX (R389). -/
def execSclx (o : MtxReg) (s : State) : Host.Outcome State Fault Refusal :=
  narrowOp (.sclx o) o [(0, o.a, 1)] true (fun t _ x d w =>
    let bs := scaleStream d w x
    (t, fun l => natOfBytes ((bs.drop (4 * l)).take 4))) s

/-- PACKN (R390). -/
def execPackn (o : MtxReg) (s : State) : Host.Outcome State Fault Refusal :=
  narrowOp (.packn o) o [(0, o.a, 1), (1, o.b, 1)] false (fun t _ x d w =>
    let n := packedStream (narrowWidth d) w x
    (t, fun l => n / 2 ^ (32 * l) % 2 ^ 32)) s

/-- UNPKN (R390): SUB 1 receives the code itself. -/
def execUnpkn (o : MtxReg) (s : State) : Host.Outcome State Fault Refusal :=
  narrowOp (.unpkn o) o ([(0, o.a, 1)] ++ if o.sub = 1 then [] else [(1, o.b, 1)]) false (fun t c x d w =>
    let k := narrowWidth d
    let n := unpackedStream c.quads w x
    (t, fun l =>
      let code := n / 2 ^ (k * l) % 2 ^ k
      if o.sub = 1 then code else widen d code (if fsBlk d = 0 then 127 else scaleOf (x.val 1 l)))) s

end Sys2Proof.Machine
end

