-- ==== Sys2Proof/Machine/Async.lean ====
section
/-! DEFINITION. Asynchronous copies, async barrier objects, block and cohort barriers, and scratchpad queues (R192, R193,
R355 to R367). -/

namespace Sys2Proof.Machine

/-! ### ACPY (R355, R356, R358) -/

/-- One lane's copy: destination, source and length. -/
structure LaneCopy where
  lane : Nat
  dst : Nat
  src : Nat
  len : Nat
  deriving DecidableEq, Repr

/-- Bytes per lane of a gather; 0 for a range copy (R355). -/
def gatherSize (sub : BitVec 11) : Nat :=
  let k := SyncOp.copyGather sub
  if k = 0 then 0 else 2 * 2 ^ k

/-- The copies of the contributing lanes (R356); `first` is the lowest lane that contributes, performed before or not. -/
def laneCopies (o : SyncOp) (x : Ctx) (first : Nat) : List LaneCopy :=
  let e := gatherSize o.sub
  let a0 := x.val 0 first
  (laneList x.contrib).map fun l =>
    if e = 0 then { lane := l, dst := x.val 0 l, src := x.val 1 l, len := x.val 2 l % 2 ^ 32 }
    else { lane := l, dst := (a0 + e * l) % 2 ^ 64, src := x.val 1 l, len := e }

/-- A range copy that R356 does not allow. -/
def badCopy (k : LaneCopy) : Bool :=
  decide (65536 < k.len) || (k.len != 0 && decide (k.src < k.dst + k.len) && decide (k.dst < k.src + k.len))

namespace State

/-- Both ranges of one lane's copy checked (R356, R358): source and destination extents, and the failures. -/
def checkCopy (s : State) (g : Nat) (e : Nat) (k : LaneCopy) : State × (LaneCopy × Extent × Extent) × List LaneErr :=
  let w := s.whoOf g
  let away (write : Bool) (a : Nat) : Option LaneErr := (s.addressFault w a (if e = 0 then k.len else e)).map (laneErr k.lane write)
  let odd (write : Bool) (a : Nat) : Option LaneErr :=
    if a % e ≠ 0 then some (laneErr k.lane write (Snag.plain 2 0x12 a)) else none
  match (if k.len = 0 then none else (((away false k.src).orElse fun _ => away true k.dst).orElse fun _ =>
      if e = 0 then none else (odd false k.src).orElse fun _ => odd true k.dst)) with
  | some f => (s, (k, [], []), [f])
  | none =>
    let r := s.checkRange g k.lane k.src k.len false
    let q := r.1.checkRange g k.lane k.dst k.len true
    (q.1, (k, r.2.1, q.2.1), r.2.2 ++ q.2.2)

/-- A barrier named by a copy: its place, or the cause of the trap; none where BAR is 0 (R356). -/
def copyBarrier (s : State) (g : Nat) (bar : Bool) (a : Nat) : Except (BitVec 8) (Option Nat) :=
  if bar then (s.objectPlace g a 16).map some else .ok none

/-- The destinations of two lanes of one ACPY overlap: some byte of storage is written by both, by whatever window. -/
def meets (ks : List (LaneCopy × List CopySeg)) : Bool :=
  ks.any fun a => ks.any fun b => a.1.lane != b.1.lane && a.2.any fun x => b.2.any fun y => overlaps x.dst x.len y.dst y.len

/-- The copies of one ACPY start: one for each lane, or, where destinations overlap, a single one whose pieces are in lane
order, so that the higher lane's byte stands (R341). -/
def startLanes (s : State) (g : Nat) (ks : List (LaneCopy × List CopySeg)) (bar : Option Nat) : State :=
  if meets ks then
    let segs := ks.flatMap (·.2)
    (s.chargeSegs g segs).startCopy g .as segs bar [] (maskOf ((ks.filter fun k => k.2.any hostPiece).map (·.1.lane)))
  else ks.foldl (fun s k =>
    if k.1.len = 0 then s else (s.chargeSegs g k.2).startCopy g .as k.2 bar [] (laneBit k.1.lane)) s

/-- An object's place is refused with DESCRIPTOR. -/
def misplaced {α : Type} (b : Except (BitVec 8) α) : Bool :=
  match b with
  | .error cause => cause == 0x2C
  | .ok _ => false

/-- The copies of an ACPY's lanes that are performed now. -/
def contributions (s : State) (c : Issue) (x : Ctx) (o : SyncOp) : List LaneCopy :=
  laneCopies o x ((lowest (x.part &&& ~~~(s.group c.gid).flow.helper)).getD 0)

/-- The DESCRIPTOR of an ACPY: of a range copy, or of its barrier's place (R356). -/
def copyCause (s : State) (c : Issue) (x : Ctx) (o : SyncOp) : Option (BitVec 8) :=
  let bad := misplaced (s.copyBarrier c.gid (SyncOp.copyBar o.sub) (x.one 3))
  if (gatherSize o.sub == 0 && (s.contributions c x o).any badCopy) || bad then some 0x2C else none

/-- ACPY of the contributing lanes (R356, R358). -/
def copyLanes (s0 s : State) (c : Issue) (x : Ctx) (o : SyncOp) : State :=
  let g := c.gid
  let i : Instr := .acpy o
  let ks := s.contributions c x o
  let e := gatherSize o.sub
  let b := s.copyBarrier g (SyncOp.copyBar o.sub) (x.one 3)
  if (s.copyCause c x o).isSome then s.trapRows c x 0x2C
  else
    match b with
    | .error cause => if x.contrib = 0 then s else s.objectFault c x (x.one 3) cause
    | .ok bar =>
      let r := ks.foldl (fun (r : State × List (LaneCopy × Extent × Extent) × List LaneErr) k =>
        let q := r.1.checkCopy g e k
        if q.2.2 = [] then (q.1, r.2.1 ++ [q.2.1], r.2.2) else (q.1, r.2.1, r.2.2 ++ q.2.2)) (s, [], [])
      if r.2.2.any fun e => fatalCause e.cause then r.1.trapLanes g c.clause c.idx (s.restOf g x.contrib) r.2.2
      else
      let segs (k : LaneCopy × Extent × Extent) : List CopySeg :=
        piecesOf k.2.1 k.2.2 none 0 k.1.src k.1.dst (k.1.len + 1) 0 k.1.len
      match s.engineWait r.1 g r.2.1.length ((r.2.1.map fun k => segUnits (segs k)).sum) with
      | some w => s0.blockOn c w
      | none =>
        let sign (t : State) : State := r.2.1.foldl (fun t k =>
          let b := t.extentBytes g k.2.1
          b.1.signStore g k.1.dst b.2) t
        let go (t : State) : State :=
          let t := t.startLanes g (r.2.1.map fun k => (k.1, segs k)) bar
          if r.2.2 = [] then t else t.parkLanes c i x.vals 0 (errLanes r.2.2) r.2.2
        if r.2.1.any fun k => ownedLines (segs k) != [] then s0.force r.1 c x 1 sign go
        else if r.1.isTwin g then go (sign r.1) else go r.1

end State

/-- ACPY (R355, R356). -/
def execAcpy (o : SyncOp) (s : State) : Host.Outcome State Fault Refusal :=
  let n := if SyncOp.copyGather o.sub = 0 then [(2, o.c, 1)] else []
  let d := if SyncOp.copyBar o.sub then [(3, o.d, 2)] else []
  run s { ask (.acpy o) o.ctl ([(0, o.a, 2), (1, o.b, 2)] ++ n ++ d) [] with early := fun t c x => t.copyCause c x o }
    fun t c x => s.copyLanes t c x o

/-- ABATCH (R192, R359): the open copies form the next batch. -/
def execAbatch (o : Reg3) (s : State) : Host.Outcome State Fault Refusal :=
  run s (ask (.abatch o) o.ctl [] [(o.d, 1)]) fun t c x =>
    let k := (t.group c.gid).ops
    let n := k.batch + 1
    let t := t.modOps c.gid fun k =>
      { k with batch := n, openCopies := [], batchCopies := k.batchCopies ++ k.openCopies.map fun i => (n.toNat, i) }
    s.putFixed t c (.abatch o) x o.d 1 fun _ => n.toNat

/-- AWAIT (R192, R359). -/
def execAwait (o : Reg3) (s : State) : Host.Outcome State Fault Refusal :=
  run s (ask (.await o) o.ctl [(0, o.a, 1)] []) fun t c x =>
    let n := x.one 0 % 2 ^ 32
    if t.batchDone c.gid n then t else s.blockOn c (.batch n)

/-! ### TCPY (R357) -/

/-- The descriptor of a tensor copy (R357). -/
structure TensorDesc where
  base : Nat
  stride : Int
  rows : Nat
  row0 : Nat
  bytes : Nat
  deriving DecidableEq, Repr

/-- Rows, first row and row length from bytes 4 to 7 of a field group (R357, R391); none where they are malformed. -/
def parseRows (bs : List Byte) : Option (Nat × Nat × Nat) :=
  let m := (bs.getD 0 0).toNat
  let r0 := (bs.getD 1 0).toNat
  let n := natOfBytes ((bs.drop 2).take 2)
  if 255 < r0 + m ∨ n = 0 ∨ 256 < n then none else some (m + 1, r0, n)

/-- A tensor descriptor. -/
def parseTensor (bs : List Byte) : Option TensorDesc :=
  match parseRows (bs.drop 12) with
  | none => none
  | some (rows, row0, bytes) =>
    if (bs.drop 16).any fun b => b != 0 then none
    else some { base := natOfBytes (bs.take 8), stride := signedOf 32 (natOfBytes ((bs.drop 8).take 4)), rows, row0, bytes }

namespace State

/-- The extent of a tile slot, addressed from 0. -/
def slotExtent (core slot : Nat) : Extent := [(0, 65536, { place := tilePlace core slot 0, home := .spad, strict := false })]

/-- The source rows of a tensor copy checked (R357): each row's pieces, and the failures. -/
def checkRows (s : State) (g l core slot : Nat) (d : TensorDesc) : State × List CopySeg × List LaneErr :=
  (List.range d.rows).foldl (fun (r : State × List CopySeg × List LaneErr) (k : Nat) =>
    let a : Nat := wrapInt 64 ((d.base : Int) + d.stride * (k : Int))
    let q := r.1.checkRange g l a d.bytes false
    (q.1, r.2.1 ++ piecesOf q.2.1 (slotExtent core slot) none 0 a (256 * (d.row0 + k)) (d.bytes + 1) 0 d.bytes,
      r.2.2 ++ q.2.2)) (s, [], [])

end State

/-- TCPY (R357). -/
def execTcpy (o : SyncTile) (s : State) : Host.Outcome State Fault Refusal :=
  let i : Instr := .tcpy o
  let slot := s.slotOf false o.tile.toNat
  let bar := SyncOp.copyBar o.sub
  run s { ask i o.ctl ([(0, o.x, 2)] ++ if bar then [(1, o.y, 2)] else []) [] with unheld := slot.isNone } fun t c x =>
    let g := c.gid
    let l := x.lead
    let b := t.copyBarrier g bar (x.one 1)
    if x.one 0 % 32 ≠ 0 ∨ State.misplaced b = true then t.trapHere c x 0x2C
    else
      let r := t.readDesc g (x.one 0) 32
      match r.2 with
      | .error e => s.descHitch r.1 c i x e
      | .ok bs =>
        match parseTensor bs, b with
        | none, _ => r.1.trapHere c x 0x2C
        | some _, .error cause => r.1.objectFault c x (x.one 1) cause
        | some d, .ok b =>
          let q := r.1.checkRows g l (State.coreOf g) (slot.getD 0) d
          if q.2.2.any fun e => State.fatalCause e.cause then q.1.trapLanes g c.clause c.idx (t.restOf g (laneBit l)) q.2.2
          else if q.2.2 ≠ [] then q.1.parkWhole c i x.vals x.part q.2.2
          else
            match t.engineWait q.1 g 1 (State.segUnits q.2.1) with
            | some w => s.blockOn c w
            | none => (q.1.chargeSegs g q.2.1).startCopy g .as q.2.1 b [slot.getD 0] (laneBit l)

/-! ### Async barrier objects (R360 to R362) -/

/-- A barrier object that an instruction does not accept: PENDING above EXPECTED, and but for BARI (`init`) EXPECTED 0
(R360). -/
def barrierBad (s : State) (init : Bool) (p : Nat) : Bool :=
  decide (s.numAt (p + 10) 2 < s.numAt (p + 8) 2) || (!init && s.numAt (p + 10) 2 == 0)

/-- The DESCRIPTOR of an instruction on an object, which comes before a fault of its window and of its queue operands
(R252): operand B, where it is known, is out of range, or the object is misplaced or bad. -/
def objectCause (s : State) (c : Issue) (x : Ctx) (align : Nat) (badB : Nat → Bool) (bad : State → Nat → Bool) :
    Option (BitVec 8) :=
  if x.known 1 && badB (x.one 1 % 2 ^ 32) then some 0x2C
  else
    match s.objectPlace c.gid (x.one 0) align with
    | .error cause => if cause = 0x2C then some cause else none
    | .ok p => if bad s p && !s.poisoned p then some 0x2C else none

/-- A barrier instruction: its object, the checks of R360 and of operand B, and its effect. `init` is BARI. -/
def barrierOp (i : Instr) (o : SyncOp) (init rel : Bool) (badB : Nat → Bool) (body : State → Issue → Ctx → Nat → Nat → State)
    (s : State) : Host.Outcome State Fault Refusal :=
  let early (t : State) (c : Issue) (x : Ctx) : Option (BitVec 8) :=
    objectCause t c x 16 badB fun t p =>
      barrierBad t init p || (rel && x.known 1 && decide (t.numAt (p + 8) 2 < x.one 1 % 2 ^ 32))
  run s { ask i o.ctl [(0, o.a, 2), (1, o.b, 1)] [(o.d, 1)] with cross := true, early := early } fun t c x =>
    if badB (x.one 1 % 2 ^ 32) then t.trapHere c x 0x2C
    else
    match t.objectPlace c.gid (x.one 0) 16 with
    | .error cause => t.objectFault c x (x.one 0) cause
    | .ok p =>
      if t.poisoned p then t.consumePoison c.gid (laneBit x.lead) c.clause c.idx p
      else if barrierBad t init p then t.trapHere c x 0x2C
      else
        let go (t : State) : State := body t c x p (x.one 1 % 2 ^ 32)
        if rel && t.forcesRelease c.gid o.scope then s.force t c x 2 id go else go t

/-- BARI (R361). -/
def execBari (o : SyncOp) (s : State) : Host.Outcome State Fault Refusal :=
  barrierOp (.bari o) o true false (fun b => b == 0 || decide (65535 < b)) (fun t c x p b =>
    let t := (((t.setNum p 8 0).setNum (p + 8) 2 b).setNum (p + 10) 2 b).setNum (p + 12) 4 0
    s.putLater t c (.bari o) x .ld o.d 1 fun _ => 0) s

/-- BARX (R361, R362): D takes PHASE as it stood. -/
def execBarx (o : SyncOp) (s : State) : Host.Outcome State Fault Refusal :=
  barrierOp (.barx o) o false false (fun _ => false) (fun t c x p b =>
    let n := t.barPhase p
    s.putLater (t.barAdd p b) c (.barx o) x .ld o.d 1 fun _ => n) s

/-- BARA (R361, R362): a release, and then the arrivals. -/
def execBara (o : SyncOp) (s : State) : Host.Outcome State Fault Refusal :=
  barrierOp (.bara o) o false true (fun b => b == 0 || decide (65535 < b)) (fun t c x p b =>
    if t.numAt (p + 8) 2 < b then t.trapHere c x 0x2C
    else s.releaseThen t c x o.scope fun t =>
      let n := t.barPhase p
      s.putLater ((t.setNum (p + 8) 2 (t.numAt (p + 8) 2 - b)).barCheck p) c (.bara o) x .ld o.d 1 fun _ => n) s

/-- BARW (R362): a wait for the phase, or a poll; a completed phase is acquired (R193). -/
def execBarw (o : SyncOp) (s : State) : Host.Outcome State Fault Refusal :=
  barrierOp (.barw o) o false false (fun _ => false) (fun t c x p b =>
    let poll := o.sub.getLsbD 0
    if t.phaseDone p (BitVec.ofNat 32 b) then
      let n := if poll then 1 else t.barPhase p
      s.putLater (t.acquire c.gid o.scope) c (.barw o) x .ld o.d 1 fun _ => n
    else if poll then s.putLater t c (.barw o) x .ld o.d 1 fun _ => 0
    else s.blockOn c (.phase p (BitVec.ofNat 32 b))) s

/-! ### BSYNC and CSYNC (R363, R364) -/

namespace State

/-- Arrival at a block or cohort barrier: outstanding MX operations are waited for, a release is performed, and the part
parks (R364). -/
def arrive (s0 s : State) (c : Issue) (x : Ctx) (sc : Scope) (h : Hold) : State :=
  let s := s.flushPend c.gid
  if s.kindsOutstanding c.gid 0x08 then (s0.flushPend c.gid).blockOn c (.kinds 0x08)
  else s0.releaseThen s c x sc fun t =>
    (t.modFlow c.gid fun f => f.modPart c.quads fun p => { p with hold := h }).staysHeld

end State

/-- BSYNC and CSYNC: the barrier's number is known, and 16 or more (R363). -/
def earlyBarrier (_ : State) (_ : Issue) (x : Ctx) : Option (BitVec 8) :=
  if x.known 0 && decide (16 ≤ x.one 0 % 2 ^ 32) then some 0x2C else none

/-- BSYNC (R363): number 16 or more takes DESCRIPTOR. -/
def execBsync (o : SyncOp) (s : State) : Host.Outcome State Fault Refusal :=
  run s { ask (.bsync o) o.ctl [(0, o.a, 1)] [] with early := earlyBarrier } fun t c x =>
    let n := x.one 0 % 2 ^ 32
    if 16 ≤ n then t.trapHere c x 0x2C
    else
      let go (t : State) : State := s.arrive t c x .blk (.bsync n)
      if t.forcesRelease c.gid .blk then s.force t c x 2 id go else go t

/-- CSYNC (R363). -/
def execCsync (o : SyncOp) (s : State) : Host.Outcome State Fault Refusal :=
  run s { ask (.csync o) o.ctl [(0, o.a, 1)] [] with early := earlyBarrier } fun t c x =>
    let n := x.one 0 % 2 ^ 32
    if 16 ≤ n then t.trapHere c x 0x2C
    else s.force t c x 2 id fun t => s.arrive t c x .coh (.csync n)

/-! ### Scratchpad queues (R365 to R367) -/

namespace State

/-- A queue object that R365 allows. -/
def queueOk (s : State) (p : Nat) : Bool :=
  let cap := s.numAt (p + 8) 4
  let n := (BitVec.ofNat 32 (s.qTail p) - BitVec.ofNat 32 (s.qHead p) : Word).toNat
  decide (1 ≤ cap) && decide (cap ≤ 4096) && decide (n ≤ cap) && s.qAllow p == cap - n && s.numAt (p + 16) 8 == 0 &&
    s.numAt (p + 24) 8 == 0

/-- The generic address of entry `i` of the queue object at an address and place. -/
def entryAddr (s : State) (a p i : Nat) : Nat := a + 32 + 4 * (i % s.numAt (p + 8) 4)

/-- The place of entry `i` of the queue object at a generic address. -/
def entryPlace (s : State) (g a p i : Nat) : Except (BitVec 8) Nat :=
  (s.windowLoc (s.whoOf g) (s.entryAddr a p i)).map (·.place)

/-- A group waits at a queue object, behind those that wait there already (R367). -/
def joinQueue (s : State) (g obj : Nat) (push : Bool) : State :=
  if (s.qWaiters obj push).contains g then s
  else s.modCore ((obj - 2 ^ 61) / 2 ^ 21) fun k => { k with waiters := k.waiters ++ [{ obj, gid := g, push }] }

/-- A group that has been served waits no longer. -/
def leaveQueue (s : State) (g obj : Nat) (push : Bool) : State :=
  s.modCore ((obj - 2 ^ 61) / 2 ^ 21) fun k =>
    { k with waiters := k.waiters.filter fun w => !(w.obj == obj && w.gid == g && w.push == push) }

/-- Nobody waits at a queue object, to push or to pop: a QTRY fails otherwise (R367). -/
def nobodyWaits (s : State) (obj : Nat) : Bool := s.qWaiters obj true == [] && s.qWaiters obj false == []

/-- A group's turn at a queue object: nobody else waits before it (R367). -/
def queueTurn (s : State) (g obj : Nat) (push : Bool) : Bool :=
  match s.qWaiters obj push with
  | [] => true
  | h :: _ => h == g

/-- One entry pushed (R366). -/
def pushEntry (s : State) (p e v : Nat) : State :=
  ((s.setNum e 4 v).setNum (p + 4) 4 (s.qTail p + 1)).setNum (p + 12) 4 (s.qAllow p - 1)

/-- One entry popped (R366). -/
def popEntry (s : State) (p : Nat) : State := (s.setNum p 4 (s.qHead p + 1)).setNum (p + 12) 4 (s.qAllow p + 1)

end State

/-- A queue instruction: its object, the checks of R365, and its effect. `init` is QINIT, which reads nothing. -/
def queueOp (i : Instr) (o : SyncOp) (srcs : List (Nat × Opnd × Nat)) (dsts : List (Opnd × Nat)) (init rel : Bool)
    (body : State → Issue → Ctx → Nat → State) (s : State) : Host.Outcome State Fault Refusal :=
  let badB (b : Nat) : Bool := init && (b == 0 || decide (4096 < b))
  let early (t : State) (c : Issue) (x : Ctx) : Option (BitVec 8) :=
    objectCause t c x 32 badB fun t p => !init && !t.queueOk p
  run s { ask i o.ctl srcs dsts with early := early } fun t c x =>
    if badB (x.one 1 % 2 ^ 32) then t.trapHere c x 0x2C
    else
    match t.objectPlace c.gid (x.one 0) 32 with
    | .error cause => t.objectFault c x (x.one 0) cause
    | .ok p =>
      if t.poisoned p then t.consumePoison c.gid (laneBit x.lead) c.clause c.idx p
      else if !init && !t.queueOk p then t.trapHere c x 0x2C
      else if rel && t.forcesRelease c.gid o.scope then s.force t c x 2 id fun t => body t c x p
      else body t c x p

/-- QINIT (R366). -/
def execQinit (o : SyncOp) (s : State) : Host.Outcome State Fault Refusal :=
  queueOp (.qinit o) o [(0, o.a, 2), (1, o.b, 1)] [] true false (fun t _ x p =>
    let b := x.one 1 % 2 ^ 32
    (((t.setNum p 4 0).setNum (p + 4) 4 0).setNum (p + 8) 4 b).setNum (p + 12) 4 b) s

/-- The push of QPUSH and QTRY, after a release (R366); `k` follows it. -/
def pushAfter (s0 t : State) (c : Issue) (x : Ctx) (o : SyncOp) (p : Nat) (k : State → State) : State :=
  match t.entryPlace c.gid (x.one 0) p (t.qTail p) with
  | .error cause => t.objectFault c x (t.entryAddr (x.one 0) p (t.qTail p)) cause
  | .ok e => s0.releaseThen t c x o.scope fun t => k ((t.pushEntry p e (x.one 1)).leaveQueue c.gid p true)

/-- The pop of QPOP and QTRY, with its acquire (R366): `k` takes the entry. -/
def popAfter (t : State) (c : Issue) (x : Ctx) (o : SyncOp) (p : Nat) (k : State → Nat → State) : State :=
  match t.entryPlace c.gid (x.one 0) p (t.qHead p) with
  | .error cause => t.objectFault c x (t.entryAddr (x.one 0) p (t.qHead p)) cause
  | .ok e =>
    if t.poisoned e then t.consumePoison c.gid (laneBit x.lead) c.clause c.idx e
    else
      let v := t.numAt e 4
      k (((t.popEntry p).leaveQueue c.gid p false).acquire c.gid o.scope) v

/-- QPUSH (R366, R367). -/
def execQpush (o : SyncOp) (s : State) : Host.Outcome State Fault Refusal :=
  queueOp (.qpush o) o [(0, o.a, 2), (1, o.b, 1)] [] false true (fun t c x p =>
    if t.qAllow p ≠ 0 ∧ t.queueTurn c.gid p true = true then pushAfter s t c x o p id
    else (s.joinQueue c.gid p true).blockOn c (.qroom p)) s

/-- QPOP (R366, R367). -/
def execQpop (o : SyncOp) (s : State) : Host.Outcome State Fault Refusal :=
  queueOp (.qpop o) o [(0, o.a, 2)] [(o.d, 1)] false false (fun t c x p =>
    if t.qHead p ≠ t.qTail p ∧ t.queueTurn c.gid p false = true then
      popAfter t c x o p fun t v => s.putLater t c (.qpop o) x .ld o.d 1 fun _ => v
    else (s.joinQueue c.gid p false).blockOn c (.qdata p)) s

/-- QTRY (R366, R367): it never passes a waiting group. -/
def execQtry (o : SyncOp) (s : State) : Host.Outcome State Fault Refusal :=
  let i : Instr := .qtry o
  if o.sub = 0 then
    queueOp i o [(0, o.a, 2), (1, o.b, 1)] [(o.d, 1)] false true (fun t c x p =>
      if t.qAllow p ≠ 0 ∧ t.nobodyWaits p = true then
        pushAfter s t c x o p fun t => s.putLater t c i x .ld o.d 1 fun _ => 1
      else s.putLater t c i x .ld o.d 1 fun _ => 0) s
  else
    queueOp i o [(0, o.a, 2)] [(o.d, 2)] false false (fun t c x p =>
      if t.qHead p ≠ t.qTail p ∧ t.nobodyWaits p = true then
        popAfter t c x o p fun t v => s.putLater t c i x .ld o.d 2 fun _ => v + 2 ^ 32
      else s.putLater t c i x .ld o.d 2 fun _ => 0) s

end Sys2Proof.Machine
end

