-- ==== Sys2Proof/Machine/Collective.lean ====
section
/-! DEFINITION. Remote copies and collectives (R55, R79 to R81, R391 to R398; notes/assumptions/23.md). -/

namespace Sys2Proof.Machine

/-- A global fabric address (R55). -/
structure FabAddr where
  pod : Nat
  ddev : Nat
  addr : Nat
  deriving DecidableEq, Repr

/-- Sixteen bytes as a global fabric address; none where a reserved bit is set (R55). -/
def parseFab (bs : List Byte) : Option FabAddr :=
  let n := natOfBytes (bs.take 16)
  if nslice n 127 84 ≠ 0 ∨ nslice n 63 45 ≠ 0 then none
  else some { pod := nslice n 83 74, ddev := nslice n 73 64, addr := nslice n 44 0 }

/-- Codes that leave an operation indeterminate (R71). -/
def indeterminate (c : BitVec 4) : Bool := decide (7 ≤ c.toNat) && decide (c.toNat ≤ 9)

namespace State

/-- One tagged request of a group to a device of any pod (R58, R72, R103). -/
def sendFabric (s : State) (g typ pod ddev addr : Nat) (payload : List Byte) (errand : Errand) : State :=
  let t := (s.group g).tenant
  let r := s.takeTag { typ, dst := BitVec.ofNat 12 ddev, vcn := t, addr, errand, first := none }
  let s := r.1.modOps g fun o => { o with tagged := o.tagged ++ [r.2] }
  if pod = s.fab.pod.toNat then s.request typ 0 t ddev r.2 addr payload
  else s.requestOff typ t pod ddev r.2 addr payload

/-- The tile slots that an operation of a group acts on: its own, and that of the other copy of a twin job (R210). -/
def slotsFor (s : State) (g tile : Nat) : List (Nat × Nat) :=
  let one (h : Nat) : List (Nat × Nat) := ((Map.find (s.group h).regs.tile tile).map fun q => (coreOf h, q)).toList
  one g ++ match s.twinOf g with | none => [] | some h => one h

/-- A slot row written by the engine operation `op` (R392, R397), which others read old or new until it is complete (R208,
R340). -/
def writeRow (s : State) (op core slot row : Nat) (bs : List Byte) : State :=
  (s.noteEngine core slot op (tilePlace core slot (256 * row)) (min 256 ((bs.length + 3) / 4 * 4))).homeWrite 8 (tilePlace core slot (256 * row)) (bs.map some)

/-! ### RCPY (R391 to R394) -/

/-- The status of a remote copy (R393). -/
def copyStatus (k : RemoteCopy) : Nat :=
  let rows := (k.failed.map (·.1)).eraseDups
  let first : Option (BitVec 4) :=
    match minNat rows with
    | none => k.flagFailed
    | some r => (k.failed.find? fun f => f.1 == r).map (·.2)
  let indet := (k.failed.any fun f => indeterminate f.2) || (k.flagFailed.any indeterminate)
  let noflag := k.flag.isSome && (k.failed != [] || k.flagFailed.isSome)
  ((first.map (·.toNat)).getD 0) + (if indet then 16 else 0) + (if noflag then 32 else 0) + 256 * rows.length

/-- A remote copy is complete: D receives its status (R393). -/
def finishCopy (s : State) (k : RemoteCopy) : State :=
  let s := s.modSvc fun v => { v with copies := v.copies.filter fun x => x.id != k.id }
  (s.forgetOp k.id).fillPend k.gid k.pend (fullMask 64) fun _ => copyStatus k

/-- Every row has been answered: the flag goes out if no row has failed, and the copy is complete otherwise (R393,
R394). -/
def endRows (s : State) (k : RemoteCopy) : State :=
  match k.flag with
  | none => s.finishCopy k
  | some (pod, ddev, addr, value) =>
    if k.failed ≠ [] then s.finishCopy k
    else s.sendFabric k.gid 8 pod ddev addr (bytesOf 8 value) (.flag k.id)

/-- The bytes of a row from the pieces that have arrived: offset and data. -/
def joinPieces (n : Nat) (ps : List (Nat × List Byte)) : List Byte :=
  ps.foldl (fun bs p => bs.take p.1 ++ p.2 ++ bs.drop (p.1 + p.2.length)) (List.replicate n 0)

/-- A piece of a row has its answer: nothing for .put, its offset and data for .get, or an error code. A .get row whose
pieces have all arrived is written (R392). -/
def rowAnswer (s : State) (rc r : Nat) (a : Except (BitVec 4) (Nat × List Byte)) : State :=
  match s.svc.copies.find? fun k => k.id == rc with
  | none => s
  | some k =>
    let k : RemoteCopy := match a with
      | .error c => { k with failed := k.failed ++ [(r, c)] }
      | .ok p => if k.put then k else { k with data := Map.put r (Map.get [] k.data r ++ [p]) k.data }
    let due : List (Nat × Nat) := (k.due.map fun d => if d.1 = r then (r, d.2 - 1) else d).filter fun d => d.2 != 0
    let k := { k with due }
    let s := s.modSvc fun v => { v with copies := v.copies.map fun (x : RemoteCopy) => if x.id = rc then k else x }
    let s :=
      if !k.put && (due.all fun d => d.1 != r) && (k.failed.all fun f => f.1 != r) then
        k.dests.foldl (fun s d => s.writeRow rc d.1 d.2 (k.row0 + r) (joinPieces k.rowBytes (Map.get [] k.data r))) s
      else s
    if due.isEmpty then s.endRows k else s

/-- The flag has its answer (R394). -/
def flagAnswer (s : State) (rc : Nat) (code : Option (BitVec 4)) : State :=
  match s.svc.copies.find? fun k => k.id == rc with
  | none => s
  | some k => s.finishCopy { k with flagFailed := code }

end State

/-- The descriptor of a remote copy (R391). -/
structure CopyDesc where
  target : FabAddr
  stride : Int
  rows : Nat
  row0 : Nat
  bytes : Nat
  flag : Option FabAddr
  value : Nat
  deriving DecidableEq, Repr

/-- A remote copy descriptor; none where it is malformed (R391). -/
def parseCopy (pod : Nat) (put : Bool) (bs : List Byte) : Option CopyDesc :=
  let fl := natOfBytes ((bs.drop 24).take 16)
  match parseFab bs, parseRows (bs.drop 20), parseFab (bs.drop 24) with
  | some target, some (rows, row0, bytes), some f =>
    if (!put && (target.pod != pod || fl != 0)) || f.addr % 8 != 0 || (bs.drop 48).any (fun b => b != 0) then none
    else
      some { target, stride := signedOf 32 (natOfBytes ((bs.drop 16).take 4)), rows, row0, bytes,
             flag := if fl = 0 then none else some f, value := natOfBytes ((bs.drop 40).take 8) }
  | _, _, _ => none

/-- The pieces of `n` bytes at an address, one for each 64-byte line: offset, offset in the line, length. -/
def linePieces (a n : Nat) : List (Nat × Nat × Nat) :=
  if n = 0 then []
  else (List.range ((a + n - 1) / 64 - a / 64 + 1)).map fun i =>
    let lo := max a (64 * (a / 64 + i))
    let hi := min (a + n) (64 * (a / 64 + i) + 64)
    (lo - a, lo % 64, hi - lo)

/-- The remote address of row `r` (R392). -/
def CopyDesc.rowAddr (d : CopyDesc) (r : Nat) : Nat := wrapInt 45 ((d.target.addr : Int) + d.stride * (r : Int))

/-- Packets of one row. -/
def CopyDesc.packets (d : CopyDesc) (put : Bool) (r : Nat) : Nat :=
  if put ∨ 2 ^ 45 < d.rowAddr r + d.bytes then 1 else (linePieces (d.rowAddr r) d.bytes).length

namespace State

/-- One row of a remote copy goes out (R392), read as `v` shows the slot (R340). A row past the end of the map is refused as its destination would (R71). -/
def sendRow (v s : State) (g rc : Nat) (put : Bool) (core slot : Nat) (d : CopyDesc) (r : Nat) : State :=
  let a := d.rowAddr r
  let p := tilePlace core slot (256 * (d.row0 + r))
  if 2 ^ 45 < a + d.bytes then s.rowAnswer rc r (.error 4)
  else if put then
    if s.poisoned p then s.rowAnswer rc r (.error 5)
    else s.sendFabric g 8 d.target.pod d.target.ddev a (v.bytesAt p d.bytes) (.row rc r 0 0 0)
  else
    (linePieces a d.bytes).foldl (fun s k =>
      s.sendFabric g 0 d.target.pod d.target.ddev ((a + k.1) / 64 * 64) [] (.row rc r k.1 k.2.1 k.2.2)) s

/-- A remote copy starts. -/
def startRemote (s : State) (c : Issue) (x : Ctx) (o : SyncTile) (put : Bool) (d : CopyDesc) : State :=
  let g := c.gid
  let dests := s.slotsFor g o.tile.toNat
  let p := s.result c x .fb o.x 1 0 x.lanes fun _ => 0
  let t := p.1.tick
  let k : RemoteCopy :=
    { id := t.2, gid := g, pend := p.2, put, dests, row0 := d.row0, rowBytes := d.bytes,
      due := (List.range d.rows).map fun r => (r, d.packets put r), data := [], failed := [],
      flag := d.flag.map fun f => (f.pod, f.ddev, f.addr, d.value), flagFailed := none }
  let s := t.1.modSvc fun v => { v with copies := v.copies ++ [k] }
  let at_ := dests.headD (0, 0)
  let v := s.slotView g at_.1 at_.2
  (List.range d.rows).foldl (fun s r => v.2.sendRow s g t.2 put at_.1 at_.2 d r) v.1

end State

/-- RCPY (R391 to R394). -/
def execRcpy (o : SyncTile) (s : State) : Host.Outcome State Fault Refusal :=
  let i : Instr := .rcpy o
  let put := !o.sub.getLsbD 0
  run s { ask i o.ctl [(0, o.y, 2)] [(o.x, 1)] with unheld := (s.slotOf false o.tile.toNat).isNone } fun t c x =>
    if x.one 0 % 64 ≠ 0 then t.trapHere c x 0x2C
    else
      let r := t.readDesc c.gid (x.one 0) 64
      match r.2 with
      | .error e => s.descHitch r.1 c i x e
      | .ok bs =>
        match parseCopy s.fab.pod.toNat put bs with
        | none => r.1.trapHere c x 0x2C
        | some d => s.force r.1 c x 1 id fun t => t.startRemote c x o put d

/-! ### The communicator (R396) -/

/-- A communicator descriptor. -/
structure Comm where
  collid : Nat
  myidx : Nat
  op : Nat
  fmt : Nat
  root : Nat
  rows : Nat
  row0 : Nat
  bytes : Nat
  members : List (Nat × Nat)         -- pod and device index
  deriving DecidableEq, Repr

/-- The element type of a FMT code (R396). -/
def commType (fmt : Nat) : Ty :=
  match fmt with
  | 0 => .f32 | 1 => .bf16 | 2 => .f16 | 3 => .s32 | 4 => .n32 | 5 => .s64 | _ => .n64

/-- Members of a communicator, or none where they are malformed. -/
def parseTeam (n : Nat) (bs : List Byte) : Option (List (Nat × Nat)) :=
  let ws := (List.range n).map fun i => natOfBytes ((bs.drop (4 * i)).take 4)
  if ws.any (fun w => nslice w 31 20 != 0) || ws.eraseDups.length != n then none
  else some (ws.map fun w => (nslice w 19 10, nslice w 9 0))

/-- NMEM, where it is a number of members (R396). -/
def commSize (hd : List Byte) : Option Nat :=
  let n := natOfBytes ((hd.drop 4).take 2)
  if n = 0 ∨ 1024 < n then none else some n

/-- A communicator descriptor of 64 bytes and its members; none where it is malformed (R396, R80). -/
def parseComm (pod peer : Nat) (hd ms : List Byte) : Option Comm :=
  let f (o n : Nat) : Nat := natOfBytes ((hd.drop o).take n)
  match commSize hd with
  | none => none
  | some n =>
    match parseTeam n ms, parseRows (hd.drop 12) with
    | some members, some (rows, row0, bytes) =>
      let op := f 8 1
      let fmt := f 9 1
      let bad := decide (n ≤ f 6 2) || members[f 6 2]? != some (pod, peer) || decide (7 ≤ op) || decide (7 ≤ fmt) ||
        (decide (3 ≤ op) && decide (op < 6) && decide (fmt < 3)) || decide (n ≤ f 10 2) || bytes % (commType fmt).bytes != 0 ||
        (hd.drop 24).any fun b => b != 0
      if bad then none
      else
        some { collid := f 0 4, myidx := f 6 2, op, fmt, root := f 10 2, rows, row0, bytes, members }
    | _, _ => none

/-- A descriptor held by a collective. -/
def Coll.comm (s : State) (k : Coll) : Option Comm := parseComm s.fab.pod.toNat s.peer (k.desc.take 64) (k.desc.drop 64)

/-- The ADDR that keys a packet of a collective: a part of the peer-local map that holds nothing (R185). -/
def collKey (collid c : Nat) : Nat := 2 ^ 43 + 2 ^ 32 * c + collid

/-- COLLID and chunk of such an ADDR. -/
def keyColl (a : Nat) : Nat × Nat := (a % 2 ^ 32, a / 2 ^ 32 % 256)

/-- The ADDR of a packet of a collective. -/
def isCollKey (a : Nat) : Bool := a / 2 ^ 40 == 8

/-! ### Reductions (R79 to R81) -/

/-- The elements of a chunk. -/
def chunkElems (n : Nat) (bs : List Byte) : List Nat :=
  (List.range (bs.length / n)).map fun i => natOfBytes ((bs.drop (n * i)).take n)

/-- One element combined by the canonical order (R79, R80). -/
def combineAll (op fmt : Nat) (vs : List Nat) : Nat :=
  let t := commType fmt
  let f (a b : Nat) : Nat :=
    match fmt with
    | 0 => combineFp Fmt.f32 op a b
    | 1 => combineFp Fmt.bf16 op a b
    | 2 => combineFp Fmt.f16 op a b
    | _ => combineInt t op a b
  ((treeReduce f 10 vs).head?).getD 0

/-- Contributions in the canonical order. -/
def insertPart (p : Contribution) : List Contribution → List Contribution
  | [] => [p]
  | q :: qs => if p.order < q.order then p :: q :: qs else q :: insertPart p qs

/-- The reduced chunk. -/
def reduceChunk (op fmt n : Nat) (parts : List Contribution) : List Byte :=
  let sz := (commType fmt).bytes
  let cols := (parts.foldl (fun ps p => insertPart p ps) []).map fun p => chunkElems sz p.data
  (List.range (n / sz)).flatMap fun e => bytesOf sz (combineAll op fmt (cols.map fun xs => xs.getD e 0))

/-- The bitmap of contributions received, by device index (R81). -/
def partsBitmap (parts : List Contribution) : List Byte :=
  bytesOf 128 ((parts.map fun p => p.order % 1024).eraseDups.map fun i => 2 ^ i).sum

namespace State

/-- STATUS of a collective (R398). -/
def collStatus (k : Coll) : Nat :=
  let bad := k.answered.filter fun a => a.2.1
  let coded := bad.filter fun a => a.2.2 != 0
  let code := match minNat (coded.map (·.1)) with
    | none => 0
    | some c => ((coded.find? fun a => a.1 == c).map fun a => a.2.2.toNat).getD 0
  (if bad = [] then 0 else 1) + 2 ^ 8 * code + 2 ^ 16 * bad.length

/-- The driver's group. -/
def driver (k : Coll) : Nat := k.drivers.headD 0

/-- The collective is over: the last chunk's bytes are subtracted (R398). -/
def closeColl (s : State) (k : Coll) (n : Nat) : State :=
  let s := k.dests.foldl (fun s d => s.barBytes d.barrier n) s
  (s.forgetOp k.id).modSvc fun v => { v with colls := v.colls.filter fun x => x.id != k.id }

/-- STATUS written as a relaxed store of the communication group (R398): a peer's copy is acknowledged first. -/
def writeStatus (s : State) (k : Coll) (n : Nat) : State :=
  let g := driver k
  let bs := bytesOf 8 (collStatus k)
  let far := k.dests.filter fun d => match placeHome d.status with | .peer _ => true | _ => false
  let near := k.dests.filter fun d => match placeHome d.status with | .peer _ => false | _ => true
  let s := near.foldl (fun s d =>
    if placeHome d.status = .spad then s.setBytes d.status bs
    else (s.settleLine g (d.status / 64)).performHome (s.group g).tenant d.status bs g |>.updateCopy (coreOf g) d.status bs) s
  match far with
  | [] => s.closeColl k n
  | d :: _ =>
    match placeHome d.status with
    | .peer p =>
      let a := placeAddr d.status
      s.sendFabric g 2 s.fab.pod.toNat p (a / 64 * 64)
        (linePayload ((List.range 8).map fun i => (a % 64 + i, bs.getD i 0))) (.status k.id)
    | _ => s.closeColl k n

/-- A chunk is done at this member: its row is written, or keeps the member's contribution (R397); after the last one
STATUS is written. -/
def chunkDone (s : State) (id c : Nat) (r : Except (BitVec 4) (Option (List Byte))) : State :=
  match s.svc.colls.find? fun k => k.id == id with
  | none => s
  | some k =>
    match k.comm s with
    | none => s
    | some m =>
      if k.answered.any fun a => a.1 == c then s
      else
        let k := { k with answered := k.answered ++
          [match r with | .ok _ => (c, false, 0) | .error code => (c, true, code)] }
        let s := s.modSvc fun v => { v with colls := v.colls.map fun (x : Coll) => if x.id = id then k else x }
        let s := match r with
          | .ok (some bs) => k.dests.foldl (fun s d => s.writeRow id d.core d.slot (m.row0 + c) bs) s
          | _ => s
        if k.answered.length < m.rows then k.dests.foldl (fun s d => s.barBytes d.barrier m.bytes) s
        else s.writeStatus k m.bytes

/-- The result of a reduction to one contributor: REDRES with the chunk, or incomplete with the bitmap (R81). ADDR bit 40
marks an incomplete one. -/
def sendResult (s : State) (p : Packet) (r : Option (List Byte)) (bitmap : List Byte) : State :=
  match r with
  | some bs => s.respond p 11 bs
  | none => s.respond { p with addr := p.addr ||| BitVec.ofNat 45 (2 ^ 40) } 11 bitmap

/-- A chunk is answered: every contributor has its result, and the buffer is freed (R81). -/
def answerChunk (s : State) (k : Reduction) (r : Option (List Byte)) : State :=
  let key := (k.vcn, k.collid, k.chunk)
  let s := s.modSvc fun v =>
    { v with reductions := v.reductions.filter fun x => (x.vcn, x.collid, x.chunk) != key, answered := key :: v.answered }
  k.parts.foldl (fun s p =>
    match p.pkt, k.coll with
    | some q, _ => s.sendResult q r (partsBitmap k.parts)
    | none, some id => s.chunkDone id k.chunk (match r with | some bs => .ok (some bs) | none => .error 0)
    | none, none => s) s

/-- The reduction of a chunk at this root. -/
def reduction (s : State) (vcn collid c : Nat) : Option Reduction :=
  s.svc.reductions.find? fun k => k.vcn == vcn && k.collid == collid && k.chunk == c

/-- A member of a collective is marked dead (R81). -/
def hasDead (s : State) (m : Comm) : Bool := m.members.any fun p => p.1 == s.fab.pod.toNat && s.isDead p.2

/-- A chunk whose contributions are all there is reduced; one that can no longer be completed is answered incomplete
(R81, R397). -/
def tryChunk (s : State) (vcn collid c : Nat) : State :=
  match s.reduction vcn collid c with
  | none => s
  | some k =>
    match k.coll.bind fun id => s.svc.colls.find? fun x => x.id == id with
    | none => s
    | some x =>
      match x.comm s with
      | none => s
      | some m =>
        if s.hasDead m || k.parts.any fun p => p.data.length != m.bytes then s.answerChunk k none
        else if m.members.length ≤ k.parts.length then s.answerChunk k (some (reduceChunk m.op m.fmt m.bytes k.parts))
        else s

/-- A contribution has been ended here with an error notice: its chunk is answered incomplete (R81). -/
def failChunk (s : State) (p : Packet) : State :=
  let key := keyColl p.addr.toNat
  match s.reduction p.vcn.toNat key.1 key.2 with
  | none => s
  | some k => s.answerChunk k none

/-- A contribution enters its chunk's reduction (R81). -/
def contribute (s : State) (vcn collid c : Nat) (coll : Option Nat) (p : Contribution) : State :=
  let s := s.modSvc fun v =>
    { v with reductions :=
        if v.reductions.any fun k => k.vcn == vcn && k.collid == collid && k.chunk == c then
          v.reductions.map fun (k : Reduction) =>
            if k.vcn = vcn ∧ k.collid = collid ∧ k.chunk = c then { k with parts := k.parts ++ [p], coll := coll.or k.coll }
            else k
        else v.reductions ++ [{ vcn, collid, chunk := c, parts := [p], coll }] }
  s.tryChunk vcn collid c

/-- A contribution of another device arrives (R81): a chunk that is remembered as answered stays so. -/
def takeContribution (s : State) (p : Packet) : State :=
  let key := keyColl p.addr.toNat
  let pod := (p.ext.map fun e => e.spod.toNat).getD s.fab.pod.toNat
  let part : Contribution := { order := 1024 * pod + p.src.toNat, pkt := some p, data := p.payload }
  if s.svc.answered.contains (p.vcn.toNat, key.1, key.2) then s.sendResult p none (partsBitmap [part])
  else s.contribute p.vcn.toNat key.1 key.2 none part

/-! ### The chunks of a collective at this member (R397) -/

/-- The row of a chunk as this member holds it and its communication group sees it (R340); none where it is poisoned. -/
def chunkRow (s : State) (k : Coll) (m : Comm) (c : Nat) : State × Option (List Byte) :=
  match k.dests with
  | [] => (s, none)
  | d :: _ =>
    let p := tilePlace d.core d.slot (256 * (m.row0 + c))
    let v := s.slotView d.gid d.core d.slot
    (v.1, if s.poisoned p then none else some (v.2.bytesAt p m.bytes))

/-- An answer to one of a BCAST root's sends (R397): the chunk is done with the last one. -/
def castAnswer (s : State) (id c : Nat) (code : Option (BitVec 4)) : State :=
  match s.svc.colls.find? fun k => k.id == id with
  | none => s
  | some k =>
    match Map.find k.casts c with
    | none => s
    | some (n, old) =>
      let new := if old = 0 then code.getD 0 else old
      let s := s.modSvc fun v =>
        { v with colls := v.colls.map fun (x : Coll) => if x.id = id then { x with casts := Map.put c (n - 1, new) x.casts } else x }
      if 1 < n then s else s.chunkDone id c (if new = 0 then .ok none else .error new)

/-- The row of a BCAST as its root's packet brings it (R397). -/
def takeCast (s : State) (p : Packet) : Option State :=
  let key := keyColl p.addr.toNat
  match s.svc.colls.find? fun k =>
      k.started && k.tenant == p.vcn.toNat && ((k.comm s).any fun m => m.collid == key.1 && m.op == 6) &&
        (k.comm s).any (fun m => decide (key.2 < m.rows)) && !k.answered.any fun a => a.1 == key.2 with
  | none => none
  | some k => some ((s.chunkDone k.id key.2 (.ok (some p.payload))).respond p 9 (bytesOf 8 0))

/-- One chunk starts (R397). -/
def startChunk (s : State) (id c : Nat) : State :=
  match s.svc.colls.find? fun k => k.id == id with
  | none => s
  | some k =>
    match k.comm s with
    | none => s
    | some m =>
      let g := driver k
      let key := collKey m.collid c
      let r := s.chunkRow k m c
      let s := r.1
      let row := r.2
      if m.op = 6 then
        if m.myidx ≠ m.root then s
        else
          let others := m.members.eraseIdx m.myidx
          match row with
          | none => s.chunkDone id c (.error 5)
          | some bs =>
            if others = [] then s.chunkDone id c (.ok none)
            else
              let s := s.modSvc fun v =>
                { v with colls := v.colls.map fun (x : Coll) =>
                    if x.id = id then { x with casts := Map.put c (others.length, 0) x.casts } else x }
              others.foldl (fun s p => s.sendFabric g 8 p.1 p.2 key bs (.cast id c)) s
      else
        let root := (m.root + c) % m.members.length
        match row with
        | none => s.chunkDone id c (.error 5)
        | some bs =>
          if root = m.myidx then
            if s.svc.answered.contains (k.tenant, m.collid, c) then s.chunkDone id c (.error 0)
            else s.contribute k.tenant m.collid c (some id)
              { order := 1024 * s.fab.pod.toNat + s.peer, pkt := none, data := bs }
          else
            let p := m.members.getD root (0, 0)
            s.sendFabric g 10 p.1 p.2 key bs (.chunk id c)

/-- BCAST rows that arrived early are looked at again (R397). -/
def replayEarly (s : State) : State :=
  let ps := s.svc.early
  ps.foldl (fun s p =>
    match s.takeCast p with
    | some t => t
    | none => s.modSvc fun v => { v with early := v.early ++ [p] }) (s.modSvc fun v => { v with early := [] })

/-- A group's tile name, its barrier and STATUS, in one copy of its block. -/
def collDest (s : State) (g tile bar status : Nat) : Option CollDest :=
  (Map.find (s.group g).regs.tile tile).map fun slot => { gid := g, core := coreOf g, slot, barrier := bar, status }

/-- The counting is complete: the collective starts, or the block takes DESCRIPTOR when it has not exactly one
communication group (R395). -/
def beginColl (s : State) (k : Coll) : State :=
  let g := if k.drivers.length = 1 then driver k else k.counted.headD 0
  let x := (s.group g).flow
  let pc := (x.parts.head?.map fun p => (p.clause.map (·.addr)).getD p.pc).getD 0
  let drop (s : State) : State := s.modSvc fun v => { v with colls := v.colls.filter fun y => y.id != k.id }
  if k.drivers.length ≠ 1 then (drop s).trapNow g 0x2C x.living pc 0
  else
    match k.comm s, k.dests.filterMap fun d => s.collDest d.gid k.tile d.barrier d.status with
    | some m, d :: ds =>
      let k := { k with started := true, dests := d :: ds }
      let s := s.modSvc fun v => { v with colls := v.colls.map fun (y : Coll) => if y.id = k.id then k else y }
      ((List.range m.rows).foldl (fun s c => s.startChunk k.id c) s).replayEarly
    | _, _ => (drop s).trapNow g 0x22 x.living pc 0

/-- Every group of the block that has not exited has counted (R395). -/
def collReady (s : State) (k : Coll) : Bool :=
  let gs := s.groupsOfRun k.job k.run (some k.rank)
  !k.started && !s.unstarted k.job k.run (some k.rank) && gs != [] && gs.all fun g => k.counted.contains g

/-- Collectives that may start do so. -/
def startColls (s : State) : State :=
  s.svc.colls.foldl (fun s k =>
    match s.svc.colls.find? fun x => x.id == k.id with
    | some y => if s.collReady y then s.beginColl y else s
    | none => s) s

/-- A COLL counts (R395): `d` is what the communication group brings. -/
def countColl (s : State) (g tile : Nat) (d : Option (List Byte × List CollDest)) : State :=
  match s.blockOf g with
  | none => s
  | some b =>
    let n := (s.group g).ops.colls
    let s := s.modOps g fun o => { o with colls := n + 1 }
    let mine (k : Coll) : Bool := k.job == b.job && k.run == b.run && k.rank == b.rank && k.k == n
    let s :=
      if s.svc.colls.any mine then s
      else
        let t := s.tick
        t.1.modSvc fun v =>
          { v with colls := v.colls ++ [{ id := t.2, job := b.job, run := b.run, rank := b.rank, k := n, counted := [],
                                          drivers := [], tenant := b.tenant, tile := 0, desc := [], dests := [],
                                          started := false, casts := [], answered := [] }] }
    let s := s.modSvc fun v =>
      { v with colls := v.colls.map fun (k : Coll) =>
          if mine k then
            match d with
            | none => { k with counted := k.counted ++ [g] }
            | some (desc, dests) => { k with counted := k.counted ++ [g], drivers := k.drivers ++ [g], tile, desc, dests }
          else k }
    s.startColls

/-! ### COLL (R395, R396) -/

/-- What the communication group's COLL checks when it issues: the descriptor, the barrier and STATUS (R396). -/
def readComm (s : State) (g a bar tile : Nat) :
    State × Except ((Bool × Hitch) ⊕ BitVec 8) (List Byte × List CollDest) :=
  if a % 64 ≠ 0 then (s, .error (.inr 0x2C))
  else
    match s.objectPlace g bar 16 with
    | .error c => (s, .error (.inr c))
    | .ok p =>
      let h := s.readDesc g a 64
      match h.2 with
      | .error e => (h.1, .error (.inl (false, e)))
      | .ok hd =>
        match commSize hd with
        | none => (h.1, .error (.inr 0x2C))
        | some n =>
          let r := h.1.readDesc g (a + 64) (4 * n)
          match r.2 with
          | .error e => (r.1, .error (.inl (false, e)))
          | .ok ms =>
            match parseComm s.fab.pod.toNat s.peer hd ms with
            | none => (r.1, .error (.inr 0x2C))
            | some _ =>
              let w := r.1.access (r.1.whoOf g) (a + 16) 8 true { write := true, fetch := false }
              match w.2 with
              | .error e => (w.1, .error (.inl (true, .snag e)))
              | .ok ls =>
                let st := (ls.head?.map Loc.key).getD 0
                let own : CollDest := { gid := g, core := coreOf g, slot := tile, barrier := p, status := st }
                let twin := (w.1.twinOf g).bind fun h =>
                  match w.1.objectPlace h bar 16 with
                  | .ok q =>
                    let st := match (w.1.access (w.1.whoOf h) (a + 16) 8 true { write := true, fetch := false }).2 with
                      | .ok (l :: _) => l.key
                      | _ => st
                    some ({ gid := h, core := coreOf h, slot := tile, barrier := q, status := st } : CollDest)
                  | .error _ => none
                (w.1, .ok (hd ++ ms, own :: twin.toList))

end State

/-- COLL (R395): outstanding MX operations are waited for, a release at .blk is performed, and the group counts. -/
def execColl (o : SyncTile) (s : State) : Host.Outcome State Fault Refusal :=
  let i : Instr := .coll o
  let drv := o.sub.getLsbD 0
  let tile := o.tile.toNat
  run s (ask i o.ctl [(0, o.x, 2), (1, o.y, 2)] []) fun t c x =>
    let t := t.flushPend c.gid
    if t.kindsOutstanding c.gid 0x08 then (s.flushPend c.gid).blockOn c (.kinds 0x08)
    else if (t.blockOf c.gid).isNone then t.trapHere c x 0x2C
    else
      let go (t : State) (d : Option (List Byte × List CollDest)) : State :=
        s.force t c x 1 id fun t => s.releaseThen t c x .blk fun t => t.countColl c.gid tile d
      if !drv then go t none
      else
        let r := t.readComm c.gid (x.one 0) (x.one 1) tile
        match r.2 with
        | .error (.inl e) => s.laneHitch r.1 c i x e.1 e.2
        | .error (.inr cause) => r.1.objectFault c x (x.one 1) cause
        | .ok d => go r.1 (some d)

end Sys2Proof.Machine
end

