-- ==== Sys2Proof/Machine/Control.lean ====
section
/-! DEFINITION. The control instructions: branches, hardware loops, rejoin masks, exits, traps and waits (R156 to R164,
R295, R313 to R320, R399 to R401). -/

namespace Sys2Proof.Machine

/-- A control instruction without sources. -/
def askBare (i : Instr) (ctl : Ctl) : Ask := ask i ctl [] []

namespace State

/-- An address in sequence moved by a signed word offset (R13, R313). -/
def offsetFrom (a : Nat) (off : BitVec 16) : Nat := wrapInt 64 ((a : Int) + 4 * signedOf 16 off.toNat)

/-- A clause inside the body of an active loop, and a target outside it (R314). -/
def leavesBody (loops : List Loop) (clause target : Nat) : Bool :=
  let inside (l : Loop) (a : Nat) : Bool := decide (l.start ≤ a) && decide (a < l.exit)
  loops.any fun l => l.active && inside l clause && !inside l target

/-- The issuing part leaves its clause: each lane with a target branches, the others go on in sequence (R156, R313); a
contributing lane that would leave an active loop's body takes LOOPBUF (R314). The part leaves as one: every lane that
takes part counts, in a replay too. -/
def branchTo (s : State) (c : Issue) (x : Ctx) (tgt : Nat → Option Nat) : State :=
  let f := (s.group c.gid).flow
  let out := (laneList (x.part &&& ~~~f.helper)).any fun l =>
    match tgt l with
    | none => false
    | some a => leavesBody f.loops c.clause a
  if out then s.trapNow c.gid 0x2A x.part c.clause c.idx
  else
    match f.partOf? c.quads with
    | none => s
    | some p =>
      let r := f.leave p c.clause c.next c.rgp tgt
      (s.commitFlow c.gid r.1 r.2 c.clause c.idx).moved

/-- The targets of the lanes that take part. -/
def taken (x : Ctx) (f : Nat → Nat) (l : Nat) : Option Nat := if x.part.getLsbD l then some (f l) else none

/-! ### Loops -/

/-- The walk over a body's headers (R295, R317): the instructions counted, nothing where a condition of R295 fails, or
the hitch of a read. -/
def loopWalk (s : State) (g : Nat) : Nat → Nat → Nat → Nat → State × Except Hitch (Option Nat)
  | 0, _, _, _ => (s, .ok none)
  | fuel + 1, a, last, n =>
    if last < a then (s, .ok none)
    else
      let r := s.fetchWord g a
      match r.2 with
      | .error e => (r.1, .error e)
      | .ok w =>
        let m := n + slice w 31 28
        let next := a + 4 * (slice w 15 11 + 1)
        if 256 < m then (r.1, .ok none)
        else if a = last then (r.1, .ok (some next))
        else r.1.loopWalk g fuel next last m

/-- The part stands at an address, where lanes that wait become active (R156). -/
def standAt (f : Flow) (quads : BitVec 16) (pc : Nat) : Flow :=
  let f := (quadsOf quads).foldl (fun (f : Flow) q => f.arrive q pc) f
  f.modPart quads fun p => { p with pc, clause := none, hold := .run }

/-- Checks and start of a LOOP whose quads have met (R317 steps 2 and 3). `s0` is the state before operands were read. -/
def loopStart (s0 s : State) (c : Issue) (x : Ctx) (o : LoopOp) : State :=
  let g := c.gid
  let loops := (s.group g).flow.loops
  let act := loops.filter (·.active)
  let last := c.clause + 4 * o.off.toNat
  if decide (3 ≤ act.length) || act.any (fun l => l.lc == o.lc.toNat || decide (l.last < last)) || o.off == 0 then
    s.trapHere c x 0x2A
  else
    let ready (s : State) : State := s.modFlow g fun f => f.modPart c.quads fun p => { p with hold := .loopReady }
    let r := s.loopWalk g (o.off.toNat + 1) c.next last 0
    match r.2 with
    | .error (.remote ks) => (ready s0).peekOn c ks
    | .error (.budget n) => (ready s0).blockOn c (.budget true n)
    | .error e => ((ready r.1).fetchFault g c.quads c.active c.clause c.idx (some (.loop o, x.vals)) e).moved
    | .ok none => r.1.trapHere c x 0x2A
    | .ok (some exit) =>
      let count : Word := BitVec.ofNat 32 (x.one 0)
      let f := (r.1.group g).flow
      let f' :=
        if count = 0 then standAt f c.quads exit
        else
          standAt { f with loops := f.loops.filter (fun l => l.lc != o.lc.toNat) ++
            [{ lc := o.lc.toNat, count, start := c.next, last, exit, active := true }] } c.quads c.next
      (r.1.commitFlow g f' [] c.clause c.idx).moved

/-- LOOP's rendezvous (R317 step 1): the part parks; when its quads alone have met, or the met quads issue again, the
checks follow. -/
def loopMeet (s0 s : State) (c : Issue) (x : Ctx) (o : LoopOp) : State :=
  let g := c.gid
  let holdOf (t : State) : Option Hold := ((t.group g).flow.partOf? c.quads).map (·.hold)
  if x.replay.isSome || holdOf s == some .loopReady then s0.loopStart s c x o
  else
    let park (t : State) : State :=
      t.commitFlow g ((t.group g).flow.modPart c.quads fun p => { p with hold := .loop c.clause }) [] c.clause c.idx
    if holdOf (park s) == some .loopReady then s0.loopStart (park s) c x o
    else (park s0).stayed

/-- LBRK on a loop that has been started (R319): it and the active loops started after it end, and lanes that wait at
their ends go to their exits. -/
def endLoops (f : Flow) (lc : Nat) : Flow :=
  let later := (f.loops.dropWhile fun l => l.lc != lc)
  let ended := later.filter fun l => l.active || l.lc == lc
  let off (l : Loop) : Bool := ended.any fun e => e.lc == l.lc
  let f := { f with loops := f.loops.map fun (l : Loop) => if off l then { l with count := 0, active := false } else l }
  (later.filter (·.active)).foldl (fun (f : Flow) l =>
    let lanes := f.lanesWith fun c => c == .atEnd l.lc
    let arrived := f.parts.foldl (fun (m : Lanes) p => if p.hold = .loopEnd l.lc then m ||| quadLanes p.quads else m) 0
    let f := (f.setLanes (lanes &&& arrived) .active).setLanes (lanes &&& ~~~arrived) (.waiting l.exit)
    { f with parts := f.parts.map fun (p : Part) =>
        if p.hold = .loopEnd l.lc then { p with pc := l.exit, clause := none, hold := .run } else p }) f

/-! ### Exits -/

/-- Lanes of the issuing part exit (R164, R316, R399): quads with active lanes left go on with the clause. A group that
leaves elements of its slice behind takes ACCMISM (R172). -/
def exitLanes (s : State) (c : Issue) (x : Ctx) (lanes : Lanes) : State :=
  let g := c.gid
  match (s.group g).flow.partOf? c.quads with
  | none => s
  | some p =>
    let r := s.overPart g p (exitQuad lanes)
    let f := r.1.1.resplit p r.2
    if f.parts = [] ∧ sliceLeft (s.group g) then s.trapHere c x 0x25
    else
      let stay := (r.2.filterMap fun o => if o.2 = .same then some o.1 else none).foldl
        (fun (m : BitVec 16) q => m ||| BitVec.ofNat 16 (2 ^ q)) 0
      let s := (s.modRegs g fun _ => r.1.2).commitFlow g f (Flow.stuckOf r.2) c.clause c.idx
      let s := if stay = 0 then s.moved
        else { s with cur := s.cur.map fun (k : Issue) => { k with quads := stay } }
      if (s.group g).flow.parts = [] ∧ (s.group g).role ≠ .job ∧ (s.group g).park ≠ .draining then s.endResident g else s

end State

/-! ### Branches (R313) -/

/-- NOP (R315). -/
def execNop (o : Bare) (s : State) : Host.Outcome State Fault Refusal := run s (askBare (.nop o) o.ctl) fun t _ _ => t

/-- BRA (R313). -/
def execBra (o : Branch) (s : State) : Host.Outcome State Fault Refusal :=
  run s (askBare (.bra o) o.ctl) fun t c x => t.branchTo c x (State.taken x fun _ => State.offsetFrom c.clause o.off)

/-- BRD (R313): taken where A[31:0] is not zero. -/
def execBrd (o : Imm) (s : State) : Host.Outcome State Fault Refusal :=
  run s { ask (.brd o) o.ctl [(0, o.a, 1)] [] with joint := true } fun t c x =>
    t.branchTo c x fun l =>
      if x.val 0 l % 2 ^ 32 = 0 then none else State.taken x (fun _ => State.offsetFrom c.clause o.imm) l

/-- BRI (R313): each lane goes to its own A. -/
def execBri (o : Reg3) (s : State) : Host.Outcome State Fault Refusal :=
  run s { ask (.bri o) o.ctl [(0, o.a, 2)] [] with joint := true } fun t c x => t.branchTo c x (State.taken x (x.val 0))

/-- CALL (R313): D takes the address of the next clause in sequence. -/
def execCall (o : Branch) (s : State) : Host.Outcome State Fault Refusal :=
  run s (ask (.call o) o.ctl [] [(o.d, 2)]) fun t c x =>
    (t.writeNow c.gid o.d 2 x.lanes fun _ => c.next).branchTo c x
      (State.taken x fun _ => State.offsetFrom c.clause o.off)

/-- RET (R313). -/
def execRet (o : Reg3) (s : State) : Host.Outcome State Fault Refusal :=
  run s { ask (.ret o) o.ctl [(0, o.a, 2)] [] with joint := true } fun t c x => t.branchTo c x (State.taken x (x.val 0))

/-! ### Loops (R317, R319) -/

/-- LOOP (R295, R317). -/
def execLoop (o : LoopOp) (s : State) : Host.Outcome State Fault Refusal :=
  run s (ask (.loop o) o.ctl [(0, o.count, 1)] []) fun t c x => s.loopMeet t c x o

/-- LBRK (R319). -/
def execLbrk (o : LoopOp) (s : State) : Host.Outcome State Fault Refusal :=
  run s (askBare (.lbrk o) o.ctl) fun t c x =>
    match (t.group c.gid).flow.loops.find? fun l => l.lc == o.lc.toNat with
    | none => t.trapHere c x 0x2A
    | some l =>
      let t := t.modFlow c.gid fun f => State.endLoops f o.lc.toNat
      match (t.group c.gid).flow.partOf? c.quads with
      | none => t
      | some p =>
        let r := (t.group c.gid).flow.leave p c.clause c.next c.rgp (State.taken x fun _ => l.exit)
        (t.commitFlow c.gid r.1 r.2 c.clause c.idx).moved

/-! ### Rejoin masks and REGANG (R158, R161, R320) -/

/-- ENROL (R158): the lanes that take part enter the mask. -/
def execEnrol (o : JoinOp) (s : State) : Host.Outcome State Fault Refusal :=
  run s (askBare (.enrol o) o.ctl) fun t c x =>
    t.modRegs c.gid fun r => r.setJ o.j.toNat (r.getJ o.j.toNat ||| x.lanes)

/-- STRIKE (R158): the lanes that take part leave the mask, and the release tests run. -/
def execStrike (o : JoinOp) (s : State) : Host.Outcome State Fault Refusal :=
  run s (askBare (.strike o) o.ctl) fun t c x =>
    let k := t.group c.gid
    let r := k.regs.setJ o.j.toNat (k.regs.getJ o.j.toNat &&& ~~~x.lanes)
    let fr := (quadsOf c.quads).foldl (fun fr q => retestQuad [o.j.toNat] q fr) (k.flow, r)
    t.onGroup c.gid fun y => { y with flow := fr.1, regs := fr.2 }

/-- PARK (R158): the active lanes become held, and the release test runs in each quad. -/
def execPark (o : JoinOp) (s : State) : Host.Outcome State Fault Refusal :=
  run s (askBare (.park o) o.ctl) fun t c _ =>
    match (t.group c.gid).flow.partOf? c.quads with
    | none => t
    | some p =>
      let r := t.overPart c.gid p (parkQuad c.clause c.next o.j.toNat)
      ((t.modRegs c.gid fun _ => r.1.2).commitFlow c.gid (r.1.1.resplit p r.2) (Flow.stuckOf r.2) c.clause c.idx).moved

/-- REGANG (R161): the part parks until every quad of the group has. -/
def execRegang (o : Bare) (s : State) : Host.Outcome State Fault Refusal :=
  run s (askBare (.regang o) o.ctl) fun t c _ =>
    let f := (t.group c.gid).flow.modPart c.quads fun p => { p with clause := none, hold := .regang c.clause c.next }
    (t.commitFlow c.gid f [] c.clause c.idx).moved

/-! ### Waits, exits and traps -/

/-- YIELD (R315): the group waits for one clause step of every other ready group of its sector, or 16 clk. -/
def execYield (o : Bare) (s : State) : Host.Outcome State Fault Refusal :=
  run s (askBare (.yield o) o.ctl) fun t c _ =>
    let others := (t.sectorGroups (State.sectorOf c.gid)).filter fun h => h != c.gid && t.groupReady h
    t.onGroup c.gid fun y => { y with park := .yield others 16, iss := { y.iss with promo := 0 } }

/-- EXIT (R316). -/
def execExit (o : Bare) (s : State) : Host.Outcome State Fault Refusal :=
  run s (askBare (.exit o) o.ctl) fun t c x => t.exitLanes c x x.contrib

/-- JOBEND (R399): every active lane of the part exits; a helper lane exits once every other lane of its quad has (R152;
notes/assumptions/59.md). -/
def execJobend (o : Bare) (s : State) : Host.Outcome State Fault Refusal :=
  run s (askBare (.jobend o) o.ctl) fun t c x => t.exitLanes c x (x.active &&& ~~~(t.group c.gid).flow.helper)

/-- TRAP (R400). -/
def execTrap (o : Imm) (s : State) : Host.Outcome State Fault Refusal :=
  run s (askBare (.trap o) o.ctl) fun t c x =>
    if x.contrib = 0 then t
    else t.raise c.gid (t.plainTrap c.gid 0x2D x.lanes c.clause c.idx (o.imm.setWidth 64))

/-- BKPT (R273, R400): a stop after it issues, where the tenant's debugging is enabled. -/
def execBkpt (o : Bare) (s : State) : Host.Outcome State Fault Refusal :=
  run s (askBare (.bkpt o) o.ctl) fun t c x =>
    if (t.dbgOf c.gid).en && x.lanes != 0 then t.stopGroup c.gid 3 else t

/-- SLEEP (R401). -/
def execSleep (o : Bare) (s : State) : Host.Outcome State Fault Refusal :=
  run s (askBare (.sleep o) o.ctl) fun t c _ => t.onGroup c.gid fun y => { y with park := .sleep }

end Sys2Proof.Machine
end

