-- ==== Sys2Proof/Machine/System.lean ====
section
/-! DEFINITION. State registers, the mailbox, the launch queue and event signals of a core (R402 to R408). -/

namespace Sys2Proof.Machine

namespace State

/-- The issuing group belongs to a job routine: what is reserved to resident code takes PRIVSTATE (R405). -/
def inRoutine (s : State) : Bool :=
  match s.cur with
  | none => false
  | some c => (s.group c.gid).role == .job

/-- Eight slot or unit numbers that names from `lo` upward bind, one byte each; 0xFF where unbound (R406). -/
def bindBytes (m : Map Nat) (lo : Nat) : Nat :=
  natOfBytes ((List.range 8).map fun i => BitVec.ofNat 8 (Map.get 0xFF m (lo + i)))

/-- %cycles moves on by a free amount of clk at each read (notes/assumptions/11.md). -/
def readCycles (s : State) (c : Nat) : State × Nat :=
  let r := s.free
  let n := (s.core c).cycles + BitVec.ofNat 64 (r.2.toNat % 2 ^ 32)
  (r.1.modCore c fun k => { k with cycles := n }, n.toNat)

/-- The value of a state register for a group (R406). -/
def readReg (s : State) (g : Nat) (n : Nat) : State × Nat :=
  let x := s.group g
  let t := s.tenant x.tenant
  let job := x.role == .job
  match n with
  | 0x00 => s.readCycles (coreOf g)
  | 0x01 => (s, (s.jobidOf g).toNat)
  | 0x02 =>
    match s.blockOf g with
    | some b => (s, (s.event b.job).iter.toNat)
    | none => (s.free.1, s.free.2.toNat % 2 ^ 32)
  | 0x03 => (s, x.tenant % 8 + if job then 0 else 8)
  | 0x04 => (s, (if (s.core (coreOf g)).half then 1 else 0) + (if s.alarm then 2 else 0) + if x.ops.burst = 0 then 0 else 4)
  | 0x05 => (s, bindBytes x.regs.tile 0)
  | 0x06 => (s, bindBytes x.regs.tile 8)
  | 0x07 => (s, bindBytes x.regs.acc 0)
  | 0x08 => (s, bindBytes x.regs.acc 8)
  | 0x10 => (s, x.regs.srseed.toNat)
  | 0x20 => (s, t.sor.iter.toNat)
  | 0x21 => (s, t.sor.live % 2 ^ 13 + if t.sor.manflt then 2 ^ 31 else 0)
  | 0x22 => (s, t.hostsigLast.toNat)
  | 0x30 => (s, (s.core (coreOf g)).bankrole.toNat)
  | 0x33 => (s, t.fltrstat.toNat)
  | 0x34 => (s, t.fq.base.toNat)
  | 0x35 => (s, t.fq.tail.toNat)
  | _ => (s, 0)

/-- A state register as a group reads it: in a twin job both copies read alike, the later one what the earlier one has read
(R407; notes/assumptions/63.md). -/
def sharedReg (s : State) (c : Issue) (n : Nat) : State × Nat :=
  match s.blockOf c.gid with
  | none => s.readReg c.gid n
  | some b =>
    if !b.twin then s.readReg c.gid n
    else
      let same (e : TwinRead) : Bool := e.run != b.run && e.rank == b.rank && e.index == (s.group c.gid).index &&
        e.quads == c.quads && e.clause == c.clause && e.idx == c.idx
      match (s.event b.job).reads.find? same with
      | some e => (s.modEvent b.job fun k => { k with reads := k.reads.erase e }, e.value)
      | none =>
        let r := s.readReg c.gid n
        let e : TwinRead :=
          { run := b.run, rank := b.rank, index := (s.group c.gid).index, quads := c.quads, clause := c.clause, idx := c.idx,
            value := r.2 }
        (r.1.modEvent b.job fun k => { k with reads := k.reads ++ [e] }, r.2)

/-- The generators of the active lanes are seeded (R237). -/
def seedLanes (s : State) (g : Nat) (lanes : Lanes) (v : Word) : State :=
  let x := s.group g
  s.modRegs g fun r =>
    let r := { r with srseed := v }
    (laneList lanes).foldl (fun (r : Regs) l => r.setZ l (mixSeed v (x.flow.width * x.index + l))) r

/-- Every field of a %bankrole value is a role (R190). -/
def rolesOk (v : DWord) : Bool := (List.range 32).all fun k => roleOf v k != 3

end State

/-- The sources of a SETS: one register, or two for a 64-bit state register. -/
def askSets (i : Instr) (o : Imm) (n : Nat) (priv : Bool) : Ask := { ask i o.ctl [(0, o.a, n)] [] with priv, cross := true }

/-- GETS (R405 to R407). -/
def execGets (o : Imm) (s : State) : Host.Outcome State Fault Refusal :=
  let n := o.imm.toNat
  let regs := (getsWidth n).getD 32 / 32
  let priv := s.inRoutine && (n == 0x33 || n == 0x34 || n == 0x35)
  run s { ask (.gets o) o.ctl [] [(o.d, regs)] with priv } fun t c x =>
    let read (t : State) (twin : Bool) : State :=
      let r := if twin then t.readReg c.gid n else t.sharedReg c n
      let u := r.1.writeNow c.gid o.d regs x.lanes fun _ => r.2
      match (if twin then u.twinOf c.gid else none) with
      | some h => u.writeNow h o.d regs x.lanes fun _ => r.2
      | none => u
    if n = 0x00 ∨ n = 0x04 then s.force t c x 1 id fun t => read t true else read t false

/-- SETS of %srseed (R237). -/
def execSetsSrseed (o : Imm) (s : State) : Host.Outcome State Fault Refusal :=
  run s (askSets (.setsSrseed o) o 1 false) fun t c x => t.seedLanes c.gid x.first (BitVec.ofNat 32 (x.one 0))

/-- SETS of %sorbnd (R138): a release at .dev, and for the current ITER a boundary that the group waits for. -/
def execSetsSorbnd (o : Imm) (s : State) : Host.Outcome State Fault Refusal :=
  run s (askSets (.setsSorbnd o) o 1 false) fun t c x =>
    s.force t c x 2 id fun t => s.releaseThen t c x .dev fun t =>
      let v : Word := BitVec.ofNat 32 (x.one 0)
      let k := (t.group c.gid).tenant
      if (t.tenant k).sor.iter ≠ v then t
      else (t.requestBoundary k).onGroup c.gid fun y => { y with park := .wait (.boundary v) }

/-- SETS of %hostsig (R408). -/
def execSetsHostsig (o : Imm) (s : State) : Host.Outcome State Fault Refusal :=
  run s (askSets (.setsHostsig o) o 1 false) fun t c x =>
    s.force t c x 1 id fun t => s.releaseThen t c x .dev fun t =>
      t.signalHost (t.group c.gid).tenant (BitVec.ofNat 32 (x.one 0))

/-- SETS of %bankrole (R190, R191): the value waits for its moment, and so does the group. -/
def execSetsBankrole (o : Imm) (s : State) : Host.Outcome State Fault Refusal :=
  run s (askSets (.setsBankrole o) o 2 s.inRoutine) fun t c x =>
    let v : DWord := BitVec.ofNat 64 (x.one 0)
    if !State.rolesOk v then t
    else
      (t.modCore (State.coreOf c.gid) fun k => { k with bankroleNew := some (v, c.gid) }).onGroup c.gid fun y =>
        { y with park := .wait .bankrole }

/-- SETS of %tlbinv (R248, R250): the group waits for the invalidation; one under way is waited for first. -/
def execSetsTlbinv (o : Imm) (s : State) : Host.Outcome State Fault Refusal :=
  run s (askSets (.setsTlbinv o) o 2 s.inRoutine) fun t c x =>
    let k := (t.group c.gid).tenant
    let v : DWord := BitVec.ofNat 64 (x.one 0)
    if !v.getLsbD 63 then t
    else if (t.tenant k).tlbBusy then s.blockOn c .tlbinv
    else (t.startTlbinv k v).onGroup c.gid fun y => { y with park := .wait .tlbinv }

/-- SETS of %fltres (R257). -/
def execSetsFltres (o : Imm) (s : State) : Host.Outcome State Fault Refusal :=
  run s (askSets (.setsFltres o) o 2 s.inRoutine) fun t c x =>
    t.resolveFault (t.group c.gid).tenant (BitVec.ofNat 64 (x.one 0))

/-- MBXPOP (R130, R256, R402): the worker serves a fault, becomes the block part at the head of its core's mailbox, or
waits. -/
def execMbxpop (o : Bare) (s : State) : Host.Outcome State Fault Refusal :=
  run s { askBare (.mbxpop o) o.ctl with priv := s.inRoutine } fun t c _ =>
    let core := State.coreOf c.gid
    let t := (t.flushPend c.gid).drainGroup c.gid
    if (t.group c.gid).ops.pend.any fun p => p.missing != 0 then t.blockOn c .switch
    else if t.kindsOutstanding c.gid 0x10 then t.blockOn c (.kinds 0x10)
    else
      match (t.core core).svcFlag with
      | some k =>
        if t.rolesPending core then t.blockOn c .mailbox
        else
        let t := (t.clearServiceFlag k).onGroup c.gid fun y => { y with role := .service }
        (t.modFlow c.gid fun f => State.standAt f c.quads t.fentry).moved
      | none => if t.headAdmitted core then t.startPart core c.gid else t.blockOn c .mailbox

/-- ENQOP (R141, R403). -/
def execEnqop (o : Imm) (s : State) : Host.Outcome State Fault Refusal :=
  let i : Instr := .enqop o
  run s (ask i o.ctl [(0, o.a, 2)] [(o.d, 1)]) fun t c x =>
    let k := (t.group c.gid).tenant
    let r := t.readDesc c.gid (x.one 0) 32
    match r.2 with
    | .error e => s.descHitch r.1 c i x e
    | .ok bs =>
      s.force r.1 c x 1 id fun t => s.releaseThen t c x .dev fun t =>
        let status (t : State) (n : Nat) : State := s.putLater t c i x .fb o.d 1 fun _ => n
        match t.ringSlot k (t.queue k o.imm.toNat) with
        | .error n => status t n
        | .ok l =>
          if t.appending k o.imm.toNat then s.blockOn c (.ring o.imm.toNat)
          else if l.home = .host && !t.hostReady k 32 then s.blockOn c (.budget true 1)
          else
            match remoteLoc l with
            | none => status (t.appendRecord c.gid k o.imm.toNat l bs) 0
            | some peer =>
              let p := t.result c x .fb o.d 1 0 x.lanes fun _ => 0
              let offs := (List.range 32).map fun j => (l.place % 64 + j, bs.getD j 0)
              p.1.sendTagged c.gid 2 peer (l.place / 64 * 64) (State.linePayload offs) (.append c.gid p.2 k o.imm.toNat)

/-- EVSIG (R120, R404). -/
def execEvsig (o : Reg3) (s : State) : Host.Outcome State Fault Refusal :=
  let i : Instr := .evsig o
  run s (ask i o.ctl [(0, o.a, 1), (1, o.b, 1)] [(o.d, 1)]) fun t c x =>
    s.force t c x 1 id fun t =>
      let name : Word := BitVec.ofNat 32 (x.one 0)
      let n := x.one 1 % 2 ^ 32
      let status (t : State) (k : Nat) : State := s.putLater t c i x .fb o.d 1 fun _ => k
      if !t.localFlag (t.group c.gid).tenant name then status t 1
      else if 2 ^ 24 ≤ n then status t 3
      else
        s.releaseThen t c x .pod fun t =>
          let e := t.event (nameIndex name)
          let dropped := n != 0 && (decide (e.st ≠ .armed) || decide (e.count < n))
          status (t.decFlag (nameIndex name) n) (if dropped then 2 else 0)

end Sys2Proof.Machine
end

