-- ==== Sys2Proof/Machine/Packets.lean ====
section
/-! DEFINITION. The router die: arrival, custody, streams, timers, and what each packet does at its destination (R56 to
R83, R103, R121 to R123, R219, R392 to R397). -/

namespace Sys2Proof.Machine

namespace State

/-! ### Streams at the destination (R62, R64) -/

/-- A numbered packet for this device: delivered in order, held, or discarded as a duplicate (R62). RST starts an off-pod
stream afresh (R64). -/
def receive (s : State) (p : Packet) : State :=
  if unnumbered p then s.toInbox p
  else
    let k := inKey p
    let fresh := (p.ext.map (·.rst)).getD false
    let r : RxStream := if fresh then { expect := p.seq.toNat, early := [], skipped := [] } else s.rxOf k
    if 32768 ≤ seqAhead r p.seq.toNat || r.early.any (fun q => q.seq == p.seq) || r.skipped.contains p.seq.toNat then s
    else
      let r := { r with early := r.early ++ [p] }
      (s.setRx k r).advanceRx k (r.early.length + r.skipped.length + 1)

/-! ### Arrival (R56, R58, R59, R65, R66) -/

/-- A header that R59 and R60 refuse. -/
def badHeader (p : Packet) : Bool :=
  decide (21 ≤ p.typ.toNat) || decide (9 ≤ p.vcn.toNat) || p.cls == 3 || decide (5 ≤ p.hops.toNat) ||
    decide (257 ≤ p.len.toNat) || p.rsv != 0 || (p.typ == 20 && p.vcn != 8) || p.len.toNat != p.payload.length

/-- A packet that an uplink brings: refused, or readdressed to its device of this pod (R56, R58). One without the
extension, of which no rule speaks, is malformed (notes/assumptions/56.md). -/
def fromUplink (s : State) (p : Packet) : Except (BitVec 4) Packet :=
  match p.ext with
  | none => .error 6
  | some e =>
    if !crossesUplink p then .error 6
    else if e.dpod ≠ s.fab.pod then .error 3
    else if !s.inPod e.ddev.toNat then .error 1
    else .ok { p with dst := e.ddev.setWidth 12, hops := 0, ext := some { e with inb := true } }

/-- The port is an uplink. -/
def isUplink (s : State) (k : Nat) : Bool := s.fab.portRole.getLsbD k && s.farOutside k

/-- This device is the packet's destination. -/
def forMe (s : State) (p : Packet) : Bool :=
  p.dst.toNat == s.peer && (match p.ext with | none => true | some e => e.dpod == s.fab.pod)

/-- What is left for this device of a multicast whose copies have gone out to its column (R77): its own copy, or nothing
but the number in its stream, marked by a reserved field that no packet arrives with (R59). -/
def ownCopy (s : State) (p : Packet) : Packet :=
  match (castCopies p).find? fun q => q.dst.toNat == s.peer with
  | some q => { p with tag := q.tag, len := 72, payload := q.payload }
  | none => { p with len := 0, payload := [], rsv := 1 }

/-- A multicast reaches the router that replicates it (R77): every copy for another device of the column is taken into
custody on its way, or the multicast is not accepted. -/
def replicate (s : State) (p : Packet) : Option State :=
  (((castCopies p).filter fun q => q.dst.toNat != s.peer).foldlM (fun (s : State) (q : Packet) => s.place q) s).map fun t => t.receive (s.ownCopy p)

/-- What a router does with a packet that it accepts; none where the port that it would go to has no room (R61, R65, R66,
R69). A contribution that is ended here leaves its chunk incomplete (R81). -/
def accept (s : State) (inPort : Option Nat) (p : Packet) : Option State :=
  let stop (c : BitVec 4) : State :=
    let t := s.endPacket p c
    if p.typ = 10 ∧ s.forMe p then t.failChunk p else t
  if badHeader p then some (stop 6)
  else
    match (if inPort.any s.isUplink then s.fromUplink p else .ok p) with
    | .error c => some (stop c)
    | .ok p =>
      if !s.forMe p then s.place p
      else if p.typ = 6 ∧ castRows p ≠ [] then s.replicate p
      else some (s.receive p)

/-- A packet arrives at the router on a port that is in service: with custody taken, the previous hop is sent an
acknowledgement (R69). No custody is taken in phases 1 to 3 (R23). -/
def arrivePacket (s : State) (inPort : Option Nat) (p : Packet) : State :=
  if !s.pwr.on || s.beforeBoot || inPort.any fun k => !s.portUp k then s
  else
    match s.accept inPort p with
    | none => s
    | some t => match inPort with
      | none => t
      | some k => t.modFab fun f => { f with acks := k :: f.acks }

/-! ### Requests performed here -/

/-- RD and SRBLD at their destination (R60): the line as its home holds it. -/
def takeRead (s : State) (p : Packet) (rsp : Nat) : State :=
  match s.inboundCode p (lineOf p) 64 false with
  | some c => s.refuse p c
  | none =>
    let s := s.recallLine (lineOf p / 64)
    if s.poisoned (lineOf p) then s.refuse p 5
    else
      let r := s.homeLine p.vcn.toNat (lineOf p / 64)
      r.1.respond p rsp r.2

/-- The operation, type and steps of one part of an AT (notes/assumptions/22.md). -/
def atPart (p : Packet) : Option (AtomOp × Ty × List (Nat × Nat × Nat)) :=
  let h := natOfBytes (p.payload.take 8)
  let op := atomOfCode (h % 256)
  match Ty.ofCode (BitVec.ofNat 5 (h / 2 ^ 8 % 32)) with
  | none => none
  | some t =>
    let n := h / 2 ^ 16 % 2 ^ 8
    let w := atStepBytes op t
    let f (i o k : Nat) : Nat := natOfBytes ((p.payload.drop (8 + w * i + o)).take k)
    let steps := (List.range n).map fun i => (f i 0 1, f i 1 t.bytes, f i (1 + t.bytes) (w - 1 - t.bytes))
    if p.payload.length = 8 + w * n ∧ steps.all fun k => decide (k.1 + t.bytes ≤ 64) then some (op, t, steps) else none

/-- The number of a part of an AT, and whether it is the last. -/
def atIndex (p : Packet) : Nat × Bool :=
  let h := natOfBytes (p.payload.take 8)
  (h / 2 ^ 32 % 256, h / 2 ^ 40 % 2 == 1)

/-- Two packets are parts of one AT. -/
def sameAt (p q : Packet) : Bool := p.src == q.src && p.vcn == q.vcn && p.tag == q.tag && p.addr == q.addr

/-- The whole of an AT whose last part has come: its operation, type and steps; none where a part is missing or
malformed. -/
def wholeAt (s : State) (p : Packet) : Option (AtomOp × Ty × List (Nat × Nat × Nat)) :=
  let parts := (s.svc.atParts.filter fun q => sameAt p q) ++ [p]
  if parts.length ≠ (atIndex p).1 + 1 then none
  else
    match atPart p, parts.mapM atPart with
    | some (op, t, _), some xs => if xs.all fun x => x.1 == op && x.2.1 == t then some (op, t, xs.flatMap (·.2.2)) else none
    | _, _ => none

/-- One step on the bytes of a line: the line after it, and the old value of its bytes. -/
def atStep (op : AtomOp) (t : Ty) (l : List Byte) (k : Nat × Nat × Nat) : List Byte × Nat :=
  let old := natOfBytes ((l.drop k.1).take t.bytes)
  (l.take k.1 ++ bytesOf t.bytes (atomicNew op t old k.2.1 k.2.2) ++ l.drop (k.1 + t.bytes), old)

/-- AT at its destination (R60, R205): with its last part, the steps in order on one line, as one write; the answer holds
the first old value of each of the bytes that it names. -/
def takeAtomic (s : State) (p : Packet) : State :=
  let others (s : State) : State := s.modSvc fun v => { v with atParts := v.atParts.filter fun q => !sameAt p q }
  if !(atIndex p).2 then
    (if (atIndex p).1 = 0 then others s else s).modSvc fun v => { v with atParts := v.atParts ++ [p] }
  else
    match s.wholeAt p, s.inboundCode p (lineOf p) 64 true with
    | none, _ => (others s).refuse p 6
    | _, some c => (others s).refuse p c
    | some (op, t, steps), none =>
      let s := (others s).recallLine (lineOf p / 64)
      if s.poisoned (lineOf p) then s.refuse p 5
      else
        let l := s.homeLine p.vcn.toNat (lineOf p / 64)
        let olds := (steps.map (·.1)).eraseDups.flatMap fun o => bytesOf 8 (natOfBytes ((l.2.drop o).take t.bytes))
        let q := { p with payload := olds }
        (l.1.inboundWrite q 5 (lineOf p) ((steps.foldl (fun b k => (atStep op t b k).1) l.2).map some)).answerWrite q 5

/-- MC at a member (R77): nothing is left to do where the router has only replicated it. -/
def takeMulticast (s : State) (p : Packet) : State := if p.rsv = 1 then s else s.takeWrite p 7

/-- RCP at its destination (R392, R394): a copied row or flag, or the row of a BCAST. -/
def takeCopy (s : State) (p : Packet) : State :=
  let a := p.addr.toNat
  if isCollKey a then
    match s.takeCast p with
    | some t => t
    | none => s.modSvc fun v => { v with early := v.early ++ [p] }
  else
    match s.inboundCode p a p.payload.length true with
    | some c => s.refuse p c
    | none =>
      let q := { p with payload := [] }
      ((linePieces a p.payload.length).foldl (fun s k =>
        s.inboundWrite q 9 (a + k.1) (((p.payload.drop k.1).take k.2.2).map some)) s).answerWrite q 9

/-- SDELTA at a parity holder (R83, R219): folded into the parity line, but for a spare that is not yet rebuilt (R221). -/
def takeDelta (s : State) (p : Packet) : State :=
  let t := p.vcn.toNat
  let a := lineOf p
  if (s.tenant t).st = .resetting || !inMap a 64 || !s.inAllowed t a 64 then s.refuse p 4
  else
    match s.guardOf t a with
    | none => s.refuse p 4
    | some (i, row) =>
      let k := s.stripe t i
      if parityOf k row ≠ k.myidx.toNat then s.refuse p 4
      else if spareClosed k then s.refuse p 10
      else
        let s := s.recallLine (a / 64)
        let r := s.homeLine t (a / 64)
        (r.1.setBytes a (xorBytes r.2 p.payload)).respond p 15 []

/-! ### Subscriptions and signals (R82, R121 to R123) -/

/-- Incoming subscriber records of a tenant. -/
def inShare (s : State) (t : Nat) : Nat := (s.inSubs.filter fun r => shareOf r.flag == t).length

/-- EVSUB at the holder (R122). With no record free the answer is LOST 1, for a FIRED flag too (notes/assumptions/27.md). -/
def takeEvsub (s : State) (p : Packet) : State :=
  let t := p.vcn.toNat
  let name : Word := p.addr.setWidth 32
  let i := nameIndex name
  let has := s.inSubs.any fun r => r.flag == i && r.peer == p.src
  if !s.localFlag t name then s.sendSignal t p.src name true
  else if !has && decide (2048 ≤ s.inShare t) then s.sendSignal t p.src name true
  else
    let fired := (s.event i).st = .fired
    let s := { s with inSubs := (s.inSubs.filter fun r => !(r.flag == i && r.peer == p.src)) ++
      [({ flag := i, peer := p.src, sent := fired } : InSub)] }
    if fired then s.sendEvsig i p.src false else s

/-- EVSIG at the subscriber (R122, R123). -/
def takeEvsig (s : State) (p : Packet) : State :=
  let t := p.vcn.toNat
  let name : Word := p.addr.setWidth 32
  match s.outSubs.find? fun o => o.tenant == t && o.name == name with
  | none => s
  | some o =>
    if natOfBytes p.payload / 2 ^ 32 % 2 = 1 then s.loseSub t name
    else
      let s := { s with outSubs := s.outSubs.filter fun x => !(x.tenant == t && x.name == name) }
      o.jobs.foldl (fun s e => s.decJob e) s

/-- The EVSIGs of a name that ended with an error notice are sent again, but for subscribers marked dead (R82, R123). -/
def resendEvsig (s : State) (t : Nat) (name : Word) : State :=
  let i := nameIndex name
  let mine := s.inSubs.filter fun r => r.flag == i && r.sent
  let s := mine.foldl (fun s r =>
    if s.isDead r.peer.toNat then { s with inSubs := s.inSubs.filter fun x => !(x.flag == i && x.peer == r.peer) }
    else s.sendEvsig i r.peer false) s
  let lost := s.svc.lost.filter fun k => k.vcn == t && k.name == name
  lost.foldl (fun s k =>
    if s.isDead k.peer.toNat then s.modSvc fun v => { v with lost := v.lost.filter (· != k) }
    else s.sendSignal t k.peer name true) s

/-! ### Errands: responses and error notices at the originator (R71, R72, R75) -/

/-- A tag of this device is answered: nothing waits for it any more. -/
def closeTag (s : State) (tag : Nat) (gid : Option Nat) : State :=
  let s := s.dropTag tag
  match gid with
  | some g => s.modOps g fun o => { o with tagged := o.tagged.erase tag }
  | none => s

/-- The group that an errand belongs to. -/
def errandGroup (s : State) : Errand → Option Nat
  | .load g _ _ _ | .store g _ _ _ | .atomic g _ _ _ _ _ | .peek g _ => some g
  | .member mc _ => (s.svc.multicasts.find? fun m => m.id == mc).map (·.gid)
  | .row rc _ _ _ _ | .flag rc => (s.svc.copies.find? fun k => k.id == rc).map (·.gid)
  | .chunk id _ | .cast id _ | .status id => (s.svc.colls.find? fun k => k.id == id).map driver
  | .append g _ _ _ => some g
  | .delta _ _ _ _ | .rebuild _ _ _ | .far _ _ | .farWrite _ _ => none

/-- One packet of a captured instruction is answered (R259); a capture of no more use is dropped. -/
def capDone (s : State) (g cap : Nat) : State :=
  let one := fun (k : Capture) => if k.id = cap then { k with out := k.out - 1 } else k
  s.modOps g fun o => { o with captures := (o.captures.map one).filter fun k => !(Capture.idle k) }

/-- A delta of a guarded store failed, or some other cause that SFENCE reports (R350). -/
def noteFence (s : State) (g : Nat) (bit : BitVec 4) : State := s.modOps g fun o => { o with sfence := o.sfence ||| bit }

/-- The guard status at the head of a write's response reports a failed delta (R219). -/
def guardFailed (p : Packet) : Bool := natOfBytes (p.payload.take 8) % 2 == 1

/-- The bytes of a load's packet: each goes to its lane, and lanes with every byte are complete (R75). -/
def loadAnswer (s : State) (g pend cap : Nat) (bytes : List (Nat × Nat × Nat)) (data : List Byte) : State :=
  let s := bytes.foldl (fun s b => s.orPend g pend b.1 b.2.2 (data.getD b.2.1 0)) s
  let errs := ((s.group g).ops.captures.find? fun k => k.id == cap).map fun k => errLanes k.errs
  let due := s.fab.tags.foldl (fun (m : Lanes) t =>
    match t.2.errand with
    | .load _ q _ bs => if q = pend then m ||| maskOf (bs.map (·.1)) else m
    | _ => m) (errs.getD 0)
  s.closePend g pend (maskOf (bytes.map (·.1)) &&& ~~~due)

/-- The parity holder's answer to a delta (R83, R219): the group's fence, or the held response. -/
def deltaAnswer (s : State) (t i g : Nat) (reply : Option (Packet × Nat)) (ok : Bool) : State :=
  let s := if ok then s else s.modStripe t i fun k => { k with fails := min (k.fails + 1) 65535 }
  match reply with
  | none =>
    let s := s.modOps g fun o => { o with deltas := o.deltas - 1 }
    if ok then s else s.noteFence g 1
  | some (p, typ) =>
    let bad := !ok || decide (32 ≤ typ)
    let same (e : Errand) : Bool := match e with | .delta _ _ _ (some r) => r.1 == p | _ => false
    if s.fab.tags.any fun k => same k.2.errand then
      if !bad then s
      else s.modFab fun f => { f with tags := f.tags.map fun (k : Nat × Tag) =>
        (k.1, if same k.2.errand then
            { k.2 with errand := match k.2.errand with
                | .delta a b c (some r) => .delta a b c (some (r.1, r.2 % 32 + 32))
                | e => e }
          else k.2) }
    else s.respond p (typ % 32) (bytesOf 8 (if bad then 1 else 0) ++ p.payload)

/-- A cause that SFENCE reports of a multicast's delta (R219, R350). -/
def noteMember (s : State) (id : Nat) (bit : BitVec 4) : State :=
  match s.svc.multicasts.find? fun m => m.id == id with
  | none => s
  | some m => s.noteFence m.gid bit

/-- A multicast member's outcome (R78): with the last one the bitmap is delivered. -/
def memberAnswer (s : State) (id idx : Nat) (ok : Bool) : State :=
  match s.svc.multicasts.find? fun m => m.id == id with
  | none => s
  | some m =>
    let m := { m with done := m.done ++ [(idx, ok)] }
    let s := s.modSvc fun v => { v with multicasts := v.multicasts.map fun (x : Multicast) => if x.id = id then m else x }
    if m.done.length < m.members.eraseDups.length then s
    else
      let good (p : BitVec 12) : Bool := m.done.any fun d => d.2 && m.members[d.1]? == some p
      let bits := ((List.range m.members.length).filter fun i => (m.members[i]?.map good).getD false).map fun i => 2 ^ i
      let s := s.modSvc fun v => { v with multicasts := v.multicasts.filter fun x => x.id != id }
      let s := if m.guarded && m.done.any fun d => !d.2 then s.noteFence m.gid 4 else s
      s.fillPend m.gid m.pend (fullMask 64) fun _ => bits.sum

/-- A rebuild answer (R221): folded into the row's sum, or noted as bad. -/
def rebuildAnswer (s : State) (t i row : Nat) (data : Option (List Byte)) : State :=
  s.modStripe t i fun k =>
    if k.row ≠ row then k
    else
      match data with
      | some bs => { k with acc := k.acc ^^^ BitVec.ofNat 512 (natOfBytes bs), due := k.due - 1 }
      | none => { k with bad := true, due := k.due - 1 }

/-- Bytes that an operation reads for itself have come. -/
def peekAnswer (s : State) (g place : Nat) (data : List Byte) : State :=
  s.modOps g fun o =>
    { o with peek := (List.range 64).foldl (fun (m : Map Byte) i => Map.put (place + i) (data.getD i 0) m) o.peek }

/-- An ENQOP record has been written at a peer, or could not be: TAIL advances, and the status is known (R141, R403). -/
def appendAnswer (s : State) (g pend t q : Nat) (ok : Bool) : State :=
  (if ok then s.modQueue t q fun k => { k with tail := k.tail + 1 } else s).fillPend g pend (fullMask 64) fun _ => if ok then 0 else 4

/-- What a response does for its errand. -/
def succeed (s : State) (e : Errand) (p : Packet) : State :=
  match e with
  | .load g pend cap bytes => (s.loadAnswer g pend cap bytes p.payload).capDone g cap
  | .store g cap _ _ => (if guardFailed p then s.noteFence g 1 else s).capDone g cap
  | .atomic g pend cap op ty lanes =>
    let s := if guardFailed p then s.noteFence g 1 else s
    let olds := atOlds (atomOfCode op) ((Ty.ofCode (BitVec.ofNat 5 ty)).getD .b32) lanes
      fun i => natOfBytes ((p.payload.drop (8 + 8 * i)).take 8)
    let s := olds.foldl (fun s e => s.fillPend g pend (laneBit e.1) fun _ => e.2) s
    s.capDone g cap
  | .member mc idx =>
    let own := p.src.toNat == s.peer
    let s := if !own && guardFailed p then s.noteMember mc 1 else s
    s.memberAnswer mc idx (!(own && guardFailed p))
  | .row rc r off skip len => s.rowAnswer rc r (.ok (off, (p.payload.drop skip).take len))
  | .flag rc => s.flagAnswer rc none
  | .chunk id c =>
    if p.addr.toNat / 2 ^ 40 % 2 = 1 then s.chunkDone id c (.error 0) else s.chunkDone id c (.ok (some p.payload))
  | .cast id c => s.castAnswer id c none
  | .status id =>
    match s.svc.colls.find? fun k => k.id == id with
    | none => s
    | some k => s.closeColl k (((k.comm s).map (·.bytes)).getD 0)
  | .delta t i g reply => s.deltaAnswer t i g reply true
  | .rebuild t i row => s.rebuildAnswer t i row (some p.payload)
  | .peek g place => s.peekAnswer g place p.payload
  | .far t place => s.modTenant t fun k => { k with far := Map.put (place / 64) p.payload k.far }
  | .farWrite _ _ => s
  | .append g pend t q => s.appendAnswer g pend t q true

/-- The cause that an error code is for a lane (R251, R71). -/
def codeCause (c : BitVec 4) : BitVec 8 :=
  match c.toNat with
  | 1 | 2 | 3 => 0x04
  | 4 => 0x18
  | 5 => 0x31
  | 10 => 0x03
  | 11 => 0x19
  | _ => 0x32

/-- The address of a lane's access, from the operands that its instruction captured (R258, R303). -/
def captureVa (k : Capture) (l : Nat) : Nat :=
  match Map.find k.ops (64 * 12 + l) with
  | some a => a
  | none => Map.get 0 k.ops l

/-- Lanes whose packet ended with an error notice: kept for their record and replay, or a trap at once (R255, R259,
R424). Each lane comes with the first byte concerned. -/
def lanesFail (s : State) (g cap : Nat) (lanes : List (Nat × Nat)) (write : Bool) (code : BitVec 4) (detail : DWord) :
    State :=
  match (s.group g).ops.captures.find? fun k => k.id == cap with
  | none => s
  | some k =>
    let cause := codeCause code
    let one := (lanes.map (·.1)).eraseDups
    let va (l : Nat) : Nat := captureVa k l + ((lanes.find? fun x => x.1 == l).map (·.2)).getD 0
    let es : List LaneErr := one.map fun l =>
      { lane := l, cause, va := va l, entry := 0, level := 7, detail := if cause = 0x04 then detail else 0, write }
    if recoverable cause then
      s.modOps g fun o =>
        { o with captures := o.captures.map fun (x : Capture) =>
            if x.id = cap then { x with errs := (x.errs.filter fun e => !one.contains e.lane) ++ es, out := x.out - 1 } else x }
    else
      let m := maskOf one
      let low := va ((minNat one).getD 0)
      let t := s.plainTrap g cause m k.clause k.idx 0
      s.raiseFrom g (if environCause cause then t else { t with va := low, write }) true

/-- A lane of a captured store to Pewter at a peer has failed: PBAR waits for its replay (R213, R259). -/
def notePewter (s : State) (g cap : Nat) : State :=
  s.modOps g fun o =>
    { o with captures := o.captures.map fun (x : Capture) => if x.id = cap then { x with pewter := true } else x }

/-- A multicast member or a fence cause of an operation that was not performed. -/
def guardRefused (code : BitVec 4) : Bool := code == 10 || code == 11

/-- What an error notice does for its errand (R71). -/
def fail (s : State) (e : Errand) (code : BitVec 4) (detail : DWord) : State :=
  match e with
  | .load g _ cap bytes => s.lanesFail g cap (bytes.map fun b => (b.1, b.2.2)) false code detail
  | .store g cap lanes pewter =>
    (if pewter then s.notePewter g cap else s).lanesFail g cap ((laneList lanes).map fun l => (l, 0)) true code detail
  | .atomic g _ cap _ _ lanes => s.lanesFail g cap (lanes.map fun l => (l.1, 0)) true code detail
  | .member mc idx => s.memberAnswer mc idx false
  | .row rc r _ _ _ => s.rowAnswer rc r (.error code)
  | .flag rc => s.flagAnswer rc (some code)
  | .chunk id c => s.chunkDone id c (.error code)
  | .cast id c => s.castAnswer id c (some code)
  | .status id =>
    match s.svc.colls.find? fun k => k.id == id with
    | none => s
    | some k => s.closeColl k (((k.comm s).map (·.bytes)).getD 0)
  | .delta t i g reply => s.deltaAnswer t i g reply false
  | .rebuild t i row => s.rebuildAnswer t i row none
  | .peek g place => s.modOps g fun o => { o with peekErr := Map.put (place / 64) (codeCause code, detail) o.peekErr }
  | .far t place => s.modTenant t fun k => { k with farBad := insertNat (place / 64) k.farBad }
  | .farWrite t use => s.modTenant t fun k => { k with farFail := insertNat use k.farFail }
  | .append g pend t q => s.appendAnswer g pend t q false

/-- A response at its originator: matched by its tag, or discarded (R72). -/
def takeResponse (s : State) (p : Packet) : State :=
  match Map.find s.fab.tags p.tag.toNat with
  | none => s
  | some k => (s.closeTag p.tag.toNat (s.errandGroup k.errand)).succeed k.errand p

/-- An error notice at its originator (R71, R82, R123). -/
def takeNotice (s : State) (p : Packet) : State :=
  let d := natOfBytes p.payload
  let typ := d / 2 ^ 16 % 32
  let code : BitVec 4 := BitVec.ofNat 4 d
  if typ = 12 then s.loseSub p.vcn.toNat (p.addr.setWidth 32)
  else if typ = 13 then s.resendEvsig p.vcn.toNat (p.addr.setWidth 32)
  else
    match Map.find s.fab.tags p.tag.toNat with
    | none => s
    | some k =>
      if k.typ ≠ typ ∨ k.addr % 2 ^ 45 ≠ p.addr.toNat then s
      else (s.closeTag p.tag.toNat (s.errandGroup k.errand)).fail k.errand code (BitVec.ofNat 64 d)

/-! ### GAP, RESTART and the dead-device map (R63, R64, R67) -/

/-- The stream that a GAP names. -/
def gapKey (p : Packet) : StreamKey :=
  let d := natOfBytes p.payload
  { peer := BitVec.ofNat 12 d, vcn := p.vcn, cls := BitVec.ofNat 2 (d / 2 ^ 12), inbound := true,
    off := p.ext.map fun e => (e.spod, e.ddev) }

/-- Packets in custody that satisfy a test end with an error code. -/
def endCustody (s : State) (sel : Packet → Bool) (code : BitVec 4) : State :=
  let gone := s.fab.custody.filter fun k => sel k.pkt
  let s := s.modFab fun f => { f with custody := f.custody.filter fun k => !sel k.pkt }
  gone.foldl (fun s k => s.endPacket k.pkt code) s

/-- A packet comes from a device of this pod, or goes to one (R64). -/
def concerns (s : State) (d : BitVec 12) (p : Packet) : Bool :=
  p.dst == d || (p.src == d && p.ext.all fun e => e.spod == s.fab.pod)

/-- Contributions that wait for this root's own COLL, held like packets in custody (R70, R397). -/
def heldParts (s : State) : List Packet :=
  (s.svc.reductions.filter fun k => k.coll.isNone).flatMap fun k => k.parts.filterMap (·.pkt)

/-- A held contribution ends with an error code, and with it its chunk, which is answered incomplete (R70, R81). -/
def endPart (s : State) (p : Packet) (code : BitVec 4) : State :=
  ((s.modSvc fun v => { v with reductions := v.reductions.map fun k =>
      { k with parts := k.parts.filter fun x => x.pkt != some p } }).refuse p code).failChunk p

/-- RESTART of device D (R64): what this router holds of its packets ends with RESET, early arrivals, rows and
contributions that wait for a collective among it, and every stream between the two starts afresh. -/
def takeRestart (s : State) (p : Packet) : State :=
  let mine := s.concerns p.src
  let s := s.endCustody mine 7
  let early := s.fab.rx.flatMap fun r => r.2.early.filter mine
  let rows := s.svc.early.filter mine
  let parts := s.heldParts.filter mine
  let ours (k : StreamKey) : Bool := k.peer == p.src && k.off.isNone
  let s := s.modFab fun f =>
    { f with rx := (f.rx.filter fun e => !ours e.1).map fun e => (e.1, { e.2 with early := e.2.early.filter fun q => !mine q })
             txSeq := f.txSeq.filter fun e => !ours e.1
             tags := f.tags.map fun (t : Nat × Tag) => if t.2.sent.any ours then (t.1, { t.2 with sent := none }) else t }
  let s := s.modSvc fun v => { v with early := v.early.filter fun q => !mine q }
  let s := (early ++ rows).foldl (fun s q => s.refuse q 7) s
  let s := parts.foldl (fun s q => s.endPart q 7) s
  s.inject (s.mkPacket 20 2 8 p.src.toNat 0 0 (bytesOf 8 2) none)

/-- Devices newly marked dead (R67, R81, R82, R123). -/
def markDead (s : State) : State :=
  let s := s.endCustody (fun p => s.isDead p.dst.toNat && !restartMsg p) 2
  let lost := s.outSubs.filter fun o => s.isDead (namePeer o.name)
  let s := lost.foldl (fun s o => s.loseSub o.tenant o.name) s
  let s := { s with inSubs := s.inSubs.filter fun r => !(r.sent && s.isDead r.peer.toNat) }.modSvc fun v =>
    { v with lost := v.lost.filter fun k => !s.isDead k.peer.toNat }
  s.svc.reductions.foldl (fun s k => s.tryChunk k.vcn k.collid k.chunk) s

/-- The register and mask of the FAB_DEADMAP write at hand (R67). -/
def writeDead (s : State) (clear : Bool) : State :=
  match s.fab.deadReq with
  | none => s
  | some (i, m) =>
    s.modFab fun f =>
      let old := Map.get 0 f.dead i
      { f with deadReq := none, dead := Map.set 0 f.dead i (if clear then old &&& ~~~m else old ||| m) }

/-! ### The arrival queue -/

/-- The oldest packet of the arrival queue, when it is of a type, and the state without it. -/
def takeHead (s : State) (typ : Nat) : Option (Packet × State) :=
  match s.fab.inbox with
  | p :: rest => if p.typ.toNat = typ then some (p, s.modFab fun f => { f with inbox := rest }) else none
  | [] => none

/-- A request or a system packet on the channel of a tenant in reset, which ends with ACCFLT (R94). -/
def shutOut (s : State) (p : Packet) : Bool :=
  decide (p.vcn.toNat < 8) && decide ((s.tenant p.vcn.toNat).st = .resetting) && p.cls != 1 && p.typ != 15

/-- The oldest packet of a type acted on; a tag that it has freed goes to a request that waits for one (R72). -/
def onHead (s : State) (typ : Nat) (f : State → Packet → State) : Host.Outcome State Fault Refusal :=
  match s.takeHead typ with
  | none => .next s
  | some (p, t) =>
    let t := if t.shutOut p then t.refuse p 4 else f t p
    .next (t.giveTags t.fab.untagged.length)

/-- The code of a management message. -/
def mgmtCode (p : Packet) : Nat := (p.payload.headD 0).toNat

/-- The oldest packet is a management message with a code that satisfies a test. -/
def onMgmt (s : State) (ok : Nat → Bool) (f : State → Packet → State) : Host.Outcome State Fault Refusal :=
  match s.takeHead 20 with
  | none => .next s
  | some (p, t) => if ok (mgmtCode p) then .next (f t p) else .next s

/-- A budget after a refill (R103). -/
def refill (balance : Int) (cap : Nat) : Int := if 0 ≤ balance then cap else balance + cap

end State

/-! ### Packets at their destination (R60) -/

/-- RD. -/
def execRd (s : State) : Host.Outcome State Fault Refusal := s.onHead 0 fun s p => s.takeRead p 1
/-- RDRSP. -/
def execRdrsp (s : State) : Host.Outcome State Fault Refusal := s.onHead 1 fun s p => s.takeResponse p
/-- WR. -/
def execWr (s : State) : Host.Outcome State Fault Refusal := s.onHead 2 fun s p => s.takeWrite p 3
/-- WRACK. -/
def execWrack (s : State) : Host.Outcome State Fault Refusal := s.onHead 3 fun s p => s.takeResponse p
/-- AT. -/
def execAtReq (s : State) : Host.Outcome State Fault Refusal := s.onHead 4 fun s p => s.takeAtomic p
/-- ATRSP. -/
def execAtrsp (s : State) : Host.Outcome State Fault Refusal := s.onHead 5 fun s p => s.takeResponse p
/-- MC at a member (R77). -/
def execMc (s : State) : Host.Outcome State Fault Refusal := s.onHead 6 fun s p => s.takeMulticast p
/-- MCACK (R78). -/
def execMcack (s : State) : Host.Outcome State Fault Refusal := s.onHead 7 fun s p => s.takeResponse p
/-- RCP (R392, R394, R397). -/
def execRcp (s : State) : Host.Outcome State Fault Refusal := s.onHead 8 fun s p => s.takeCopy p
/-- RCPACK (R393, R394). -/
def execRcpack (s : State) : Host.Outcome State Fault Refusal := s.onHead 9 fun s p => s.takeResponse p
/-- RED at the root (R81). -/
def execRedPkt (s : State) : Host.Outcome State Fault Refusal := s.onHead 10 fun s p => s.takeContribution p
/-- REDRES (R397). -/
def execRedres (s : State) : Host.Outcome State Fault Refusal := s.onHead 11 fun s p => s.takeResponse p
/-- EVSUB (R122). -/
def execEvsub (s : State) : Host.Outcome State Fault Refusal := s.onHead 12 fun s p => s.takeEvsub p
/-- EVSIG (R122, R123). -/
def execEvsigPkt (s : State) : Host.Outcome State Fault Refusal := s.onHead 13 fun s p => s.takeEvsig p
/-- SDELTA (R83). -/
def execSdelta (s : State) : Host.Outcome State Fault Refusal := s.onHead 14 fun s p => s.takeDelta p
/-- SDACK (R83). -/
def execSdack (s : State) : Host.Outcome State Fault Refusal := s.onHead 15 fun s p => s.takeResponse p
/-- SRBLD (R83). -/
def execSrbld (s : State) : Host.Outcome State Fault Refusal := s.onHead 16 fun s p => s.takeRead p 17
/-- SRBLDRSP (R221). -/
def execSrbldrsp (s : State) : Host.Outcome State Fault Refusal := s.onHead 17 fun s p => s.takeResponse p
/-- ERR (R71). -/
def execErrNotice (s : State) : Host.Outcome State Fault Refusal := s.onHead 18 fun s p => s.takeNotice p
/-- GAP (R63). -/
def execGap (s : State) : Host.Outcome State Fault Refusal :=
  s.onHead 19 fun s p => s.skipSeq (State.gapKey p) p.seq.toNat
/-- MGMT with code RESTART (R64). -/
def execRestart (s : State) : Host.Outcome State Fault Refusal := s.onMgmt (fun c => c == 1) fun s p => s.takeRestart p
/-- MGMT with code RESTART-ACK (R64): other packets to that device may leave. -/
def execRestartAck (s : State) : Host.Outcome State Fault Refusal :=
  s.onMgmt (fun c => c == 2) fun s p =>
    (s.modFab fun f => { f with restartWait := f.restartWait.filter fun d => d != p.src.toNat }).releaseAll
/-- MGMT with another code goes to the management firmware (R64). -/
def execMgmt (s : State) : Host.Outcome State Fault Refusal :=
  s.onMgmt (fun c => c != 1 && c != 2) fun s p => s.modFab fun f => { f with mgmtIn := f.mgmtIn ++ [p] }

/-! ### The router (R62, R65 to R73) -/

/-- A packet arrives at the router and is delivered, sent on, or ended (R65, R66, R71). -/
def execPacketForward (inPort : Option Nat) (p : Packet) (s : State) : Host.Outcome State Fault Refusal :=
  .next (s.arrivePacket inPort p)

/-- The next hop has acknowledged custody (R69): the room that this makes may let packets leave. -/
def execCustodyAck (held : Nat) (s : State) : Host.Outcome State Fault Refusal :=
  .next (s.modFab fun f => { f with custody := f.custody.eraseIdx held }).releaseAll

/-- A custody lifetime expires (R70): of a packet on its way, of a BCAST row that no collective has taken, or of a
contribution that waits for this root's COLL (R397). -/
def execCustodyTimeout (held : Nat) (s : State) : Host.Outcome State Fault Refusal :=
  match s.fab.custody[held]? with
  | some k => .next ((s.modFab fun f => { f with custody := f.custody.eraseIdx held }).endPacket k.pkt 8).releaseAll
  | none =>
    let i := held - s.fab.custody.length
    match s.svc.early[i]? with
    | some p => .next ((s.modSvc fun v => { v with early := v.early.eraseIdx i }).refuse p 8)
    | none =>
      match s.heldParts[i - s.svc.early.length]? with
      | some p => .next (s.endPart p 8)
      | none => .next s

/-- The originator's timer for a tag expires (R72). -/
def execLocaltmo (tag : BitVec 16) (s : State) : Host.Outcome State Fault Refusal :=
  match Map.find s.fab.tags tag.toNat with
  | none => .next s
  | some k =>
    let g := s.errandGroup k.errand
    let d := 9 + 16 * s.peer + 2 ^ 16 * k.typ
    .next (((s.closeTag tag.toNat g).retireTag tag.toNat).fail k.errand 9 (BitVec.ofNat 64 d))

/-- 2 × FAB_TMO after it retired, a tag may be used again, and goes to a request that waits for one (R72). -/
def execTagReuseTimeout (tag : BitVec 16) (s : State) : Host.Outcome State Fault Refusal :=
  let t := s.modFab fun f => { f with retired := f.retired.filter fun r => r.1 != tag.toNat }
  .next (t.giveTags t.fab.untagged.length)

/-- No GAP came for FAB_TMO/2: the missing number is skipped (R62). -/
def execGapSkipTimeout (stream : StreamKey) (s : State) : Host.Outcome State Fault Refusal :=
  let r := s.rxOf stream
  .next (if r.early = [] then s else s.skipSeq stream r.expect)

/-- FAB_TMO has passed since the first contribution of a chunk (R81): every contributor is answered incomplete. -/
def execReductionTimeout (collid : Word) (chunk : Nat) (s : State) : Host.Outcome State Fault Refusal :=
  .next ((s.svc.reductions.filter fun k => k.collid == collid.toNat && k.chunk == chunk).foldl
    (fun s k => s.answerChunk k none) s)

/-- 2 × FAB_TMO after its answer, a chunk is forgotten (R81). -/
def execReductionForget (collid : Word) (chunk : Nat) (s : State) : Host.Outcome State Fault Refusal :=
  .next (s.modSvc fun v =>
    { v with answered := v.answered.filter fun k => !(k.2.1 == collid.toNat && k.2.2 == chunk) })

/-- FAB_TMO has passed since an EVSIG with no error notice (R82): its subscriber record is freed (R121). -/
def execEvsigResendStop (flag : Nat) (peer : BitVec 12) (s : State) : Host.Outcome State Fault Refusal :=
  .next ({ s with inSubs := s.inSubs.filter fun r => !(r.flag == flag && r.peer == peer && r.sent) }.modSvc fun v =>
    { v with lost := v.lost.filter fun k => !(nameIndex k.name == flag && k.peer == peer) })

/-- No answer to a chunk came within FAB_TMO (R397). -/
def execCollChunkTimeout (core : Nat) (collid : Word) (chunk : Nat) (s : State) : Host.Outcome State Fault Refusal :=
  match s.svc.colls.find? fun k =>
      k.started && k.dests.any (fun d => d.core == core) && (k.comm s).any (fun m => m.collid == collid.toNat) &&
        !(k.answered.any fun a => a.1 == chunk) with
  | none => .next s
  | some k => .next (s.chunkDone k.id chunk (.error 9))

/-- A FAB_DEADMAP write that sets bits (R67). -/
def execDeadmapSet (s : State) : Host.Outcome State Fault Refusal := .next (s.writeDead false).markDead

/-- A FAB_DEADMAP write that clears bits (R67). -/
def execDeadmapClear (s : State) : Host.Outcome State Fault Refusal := .next (s.writeDead true)

/-- The refill of every budget (R103). -/
def execCapRefill (s : State) : Host.Outcome State Fault Refusal :=
  let get (m : Map Int) (t : Nat) : Int := Map.get (0 : Int) m t
  let fab := (List.range 9).map fun t => (t, State.refill (get s.fab.budget t) (s.boundary t).capFab.toNat)
  let host := (List.range 9).map fun t => (t, State.refill (get s.fab.hostBudget t) (s.boundary t).capHost.toNat)
  .next (s.modFab fun f => { f with budget := fab, hostBudget := host }).releaseAll

end Sys2Proof.Machine
end

