-- ==== Sys2Proof/Machine/Package.lean ====
section
/-! DEFINITION. The package: input power, resets and their phases, the wipe, measured boot, row sparing, core retirement,
ports, power and thermal limits, the sideband target (R16 to R50, R85, R100, R101; notes/assumptions/24.md). -/

namespace Sys2Proof.Machine

namespace State

/-! ### Vectors of the physical function (R90) -/

/-- Causes of vectors, numbered: the power alarm, and THERM_STAT above THROTTLE. -/
def alarmCause : Nat := 1
def thermCause : Nat := 2

/-- Vector 2 of the physical function follows the alarm and the temperature. -/
def noteAlarm (s : State) : State :=
  (s.level alarmCause 0 2 s.alarm).level thermCause 0 2 s.hot

/-! ### Phases of the reset sequence (R23, R24) -/

/-- A tenant after a device reset: only its key, epoch and recorded partition last, and a rotation that has not ended
(R23, R92, R108). -/
def Tenant.kept (t : Tenant) : Tenant :=
  { Tenant.init with erasing := t.erasing, epoch := t.epoch, recBase := t.recBase, recSize := t.recSize }

/-- Image slots whose staging is still open hold no valid image (R106). -/
def closedSlots (h : HostSide) : List ImageSlot := h.slots.filter (·.closed)

/-- Every volatile part of the state but memory as a reset leaves it (R22, R25, R64, R94, R102). Until a command names
others, the stack and bank last named are stack 0 and bank 0 of pseudo-channel 0 (notes/assumptions/58.md). -/
def volatileReset (s : State) : State :=
  { s with
    owned := [], cores := [], tlb2 := [], groups := [], blocks := []
    tenants := s.tenants.map fun t => (t.1, Tenant.kept t.2)
    events := [], pool := [], outside := [], outSubs := [], inSubs := [], sorOwner := State.reset.sorOwner
    slots := [], shadow := []
    pwr := { s.pwr with
      overWindows := 0, isslim := false, slot := true, cap := 3200, avg := 0, mode := 2, ramp := 0
      throttle := 100, therm := 0 }
    pkg := { s.pkg with
      phase := .stop, modReady := false, pendingLc := none, lcerr := false, bndlock := false, recovery := false
      rhamarOk := false, spareCmd := 0, spareRun := none, spareResult := 0, spareRejected := false, spareLast := Spare.init
      soft := [], retire := 0, retstat := 0, frrRead := [] }
    host := { s.host with
      bar0 := 0, vfBar0 := 0, vfEnable := false, numVfs := 0, masked := [], pendingVec := [], cause := [], ms := [], msExt := 0, sec := Mailbox.init
      nonce := none, slots := closedSlots s.host, staging := [], bnd := [] }
    fab := { Fabric.init with outbox := s.fab.outbox, acks := s.fab.acks }
    svc := Services.init, turn := 0, cur := none }

/-- Packets that the router holds for this device's endpoint: early arrivals, delivered ones, rows and contributions kept
for a collective, and parts of an AT. -/
def heldHere (s : State) : List Packet :=
  (s.fab.rx.flatMap fun r => r.2.early) ++ s.fab.inbox ++ s.svc.early ++ s.svc.atParts ++
    s.svc.reductions.flatMap fun r => r.parts.filterMap (·.pkt)

/-- Phase 1 (R23): every packet that the router die holds ends with RESET, its buffers being cleared, and everything
stops. -/
def phaseOne (s : State) : State :=
  let held := s.fab.custody.map (·.pkt) ++ s.heldHere
  let t := (held.foldl (fun s p => endPacketBy true s p 7) (s.modFab fun f => { f with custody := [] })).volatileReset
  if s.pwr.perstLow then t.modPkg fun p => { p with phase := .held } else t

/-- A device reset trigger (R22, R24): absorbed in phases 1 to 3. -/
def resetTrigger (s : State) : State :=
  match s.pkg.phase with
  | .boot | .ready | .scrapped => s.phaseOne
  | _ => s

/-- A place that lasts without power: Pewter and the host's own memory (R19, R25). -/
def lasting (p : Nat) : Bool :=
  (decide (pewBase ≤ p) && decide (p < pewBase + 2 ^ 42)) || (decide (2 ^ 60 ≤ p) && decide (p < 2 ^ 61))

/-- The wipe's effect on memory (R25, R26): zero is what an unlisted byte reads as. -/
def wipeAll (s : State) : State := { s with mem := Map.keep lasting s.mem, poison := s.poison.filter lasting }

/-- Internal power is removed (R20): what has reached the persist domain is drained to the media, and only that lasts. -/
def powerDown (s : State) : State :=
  let s := s.volatileReset.wipeAll
  (s.modPkg fun p => { p with phase := .off }).modPwr fun p => { p with on := false, sbIndex := 0, sbDynamic := none }

/-- Millivolts at which the input counts as lost (R16). -/
def inputLost (mv : Nat) : Bool := decide (mv < 38000) || decide (64000 < mv)

/-- The thermal trip (R50). -/
def trip (s : State) : State := (s.modPwr fun p => { p with tripped := true }).powerDown

/-! ### Measured boot (R100, R101, R148) -/

/-- An image's signed part and its signature (notes/assumptions/24.md). -/
def splitImage (b : List Byte) : List Byte × List Byte := (b.take (b.length - 2420), b.drop (b.length - 2420))

/-- An image verifies under one of some keys. -/
def signedBy (keys : List Nat) (b : List Byte) : Bool :=
  let x := splitImage b
  decide (2420 ≤ b.length) && keys.any fun k => Config.verifies k (Config.sha3 x.1) x.2

/-- Keys that may sign an image, by life-cycle state (R100 step 2). -/
def imageKeys (lc : BitVec 3) : List Nat := if lc = 1 then [Config.keyVendor, Config.keyTest] else [Config.keyVendor]

/-- The owner key, where its digest is fused (R105). -/
def ownerKeys (s : State) : List Nat := (s.pkg.ownerKey.map Config.keyOwner).toList

/-- Keys that may sign the boundary policy (R100 step 4). -/
def policyKeys (s : State) : List Nat :=
  match s.pkg.lcstate.toNat with
  | 0 => []
  | 1 => [Config.keyVendor, Config.keyTest]
  | _ => s.ownerKeys

/-- The header of the Rhamar image (R148). -/
def rhamarHeader (b : List Byte) : Bool :=
  let f (o n : Nat) : Nat := natOfBytes ((b.drop o).take n)
  let entry (x : Nat) : Bool := x % 4 == 0 && decide (x < 2 ^ 57)
  entry (f 0 8) && entry (f 8 8) && decide (1 ≤ f 16 1) && decide (f 16 1 ≤ 8) && f 17 47 == 0

/-- The slot of a target that boots: the higher security version first, among those that verify (R100 step 2). Of two of
one version the first in the list, and the same rule for the boundary policy, are the model's (notes/assumptions/57.md). -/
def bootSlot (s : State) (target : Nat) (keys : List Nat) : Option ImageSlot :=
  let good := s.host.slots.filter fun k =>
    k.target == target && k.closed && signedBy keys k.bytes &&
      decide (Config.minVersion target ≤ Config.imageVersion (splitImage k.bytes).1) &&
      (target != 1 || rhamarHeader (splitImage k.bytes).1)
  good.foldl (fun (best : Option ImageSlot) k =>
    match best with
    | none => some k
    | some b => if Config.imageVersion (splitImage b.bytes).1 < Config.imageVersion (splitImage k.bytes).1 then some k else some b) none

/-- The digest that a slot's image extends a measurement slot with. -/
def imageDigest (k : Option ImageSlot) : BitVec 256 :=
  match k with
  | none => 0
  | some k => Config.sha3 (splitImage k.bytes).1

/-- A measurement slot extended (R101). -/
def extendSlot (s : State) (i : Nat) (d : BitVec 256) : State :=
  s.modHost fun h => { h with ms := Map.put i (extendMs (Map.get 0 h.ms i) d) h.ms }

/-- The fields of a pod route entry (R57): the bits between them read as zero. -/
def routeMask : DWord := 0x8003FFFFFFFFFFFF

/-- A boundary, coordinate, role or route register as the boot ROM writes it from the policy (R53, R57, R102). -/
def policyWrite (s : State) (w : Nat × DWord) : State :=
  let off := w.1
  let v := w.2
  let bnd (t : Nat) (f : Boundary → Boundary) : State :=
    s.modHost fun h => { h with bnd := Map.put t (f (Map.get Boundary.init h.bnd t)) h.bnd }
  if 2 ^ 32 ≤ off then s.modFab fun f => { f with podRoute := Map.put (off % 1024) (v &&& routeMask) f.podRoute }
  else if 0x6000 ≤ off ∧ off < 0x6240 then
    let t := (off - 0x6000) / 0x40
    let i := (off - 0x6000) % 0x40 / 16
    bnd t fun b => if off % 16 = 0 then { b with hostBase := Map.put i (v &&& 0xFFFFFFFFFFFFF000) b.hostBase }
      else { b with hostLim := Map.put i (v &&& 0xFFFFFFFFFFFFF000) b.hostLim }
  else if 0x6400 ≤ off ∧ off < 0x6448 then bnd ((off - 0x6400) / 8) fun b => { b with fabOut := v.setWidth 21 }
  else if 0x6500 ≤ off ∧ off < 0x6740 then
    let t := (off - 0x6500) / 0x40
    let i := (off - 0x6500) % 0x40 / 16
    bnd t fun b => if off % 16 = 0 then { b with inBase := Map.put i (v &&& 0x1FFFFFFFF000) b.inBase }
      else { b with inLim := Map.put i (v &&& 0x1FFFFFFFF000) b.inLim }
  else if 0x6800 ≤ off ∧ off < 0x6848 then
    bnd ((off - 0x6800) / 8) fun b => { b with capFab := v.setWidth 16, capHost := BitVec.ofNat 16 (slice v 31 16) }
  else if off = 0x1400 then
    if slice v 9 5 > slice v 19 15 ∨ slice v 4 0 > slice v 14 10 then s
    else s.modFab fun f =>
      { f with pod := BitVec.ofNat 10 (slice v 29 20), rowsM1 := BitVec.ofNat 5 (slice v 19 15),
               colsM1 := BitVec.ofNat 5 (slice v 14 10), row := BitVec.ofNat 5 (slice v 9 5), col := BitVec.ofNat 5 (slice v 4 0) }
  else if off = 0x1408 then
    let keep := (List.range 62).foldl (fun (m : BitVec 62) k =>
      if v.getLsbD k && s.farOutside k then m ||| BitVec.ofNat 62 (2 ^ k) else m) 0
    s.modFab fun f => { f with portRole := keep }
  else s

/-- The other devices of the pod. -/
def otherPeers (s : State) : List Nat := (List.range 1024).filter fun p => s.inPod p && p != s.peer

/-- A tenant's key rotated (R29, R109): the recorded partition becomes the one that TEN_CFG holds. -/
def rotateKey (s : State) (t : Nat) : State :=
  s.modTenant t fun k =>
    { k with erasing := false, epoch := k.epoch + 1, recBase := BitVec.ofNat 12 (slice k.cfg 19 8),
             recSize := BitVec.ofNat 12 (slice k.cfg 31 20) }

/-- The bytes of a copy of the field repair record that its signature covers: the retire mask, the soft-spare entries of
four bytes each, and the minimum rate of each port (R30; the layout is the model's: notes/assumptions/57.md). -/
def repairBytes (c : RepairCopy) : List Byte :=
  bytesOf 8 c.retire.toNat ++ bytesOf 8 c.soft.length ++
    (c.soft.flatMap fun r => bytesOf 4 (r.2.2.2 + 2 ^ 17 * r.2.2.1 + 2 ^ 23 * r.2.1 + 2 ^ 29 * r.1)) ++
    (List.range 62).flatMap fun n => bytesOf 1 (Map.get (0 : BitVec 2) c.minstep n).toNat

/-- The digest of a copy of the record. -/
def repairDigest (c : RepairCopy) : BitVec 256 := Config.sha3 (repairBytes c)

/-- A copy verifies, and holds no more soft-spare entries than a stack has (R30). -/
def repairOk (c : RepairCopy) : Bool :=
  Config.verifies Config.keyIdentity (repairDigest c) c.sig &&
    (List.range 8).all fun k => decide ((c.soft.filter fun r => r.1 == k).length ≤ 1024)

/-- The newest copy that verifies (R30). -/
def repairRecord (s : State) : Option RepairCopy := s.pkg.frr.find? repairOk

/-- The field repair record applied (R30, R35, R39). -/
def applyRepair (s : State) : State :=
  match s.repairRecord with
  | none => s.modPkg fun p => { p with frrbad := true, retire := 0, soft := [] }
  | some r =>
    let s := s.modPkg fun p => { p with frrbad := false, retire := r.retire, soft := r.soft }
    r.minstep.foldl (fun s m => s.modPort m.1 fun k => { k with minstep := m.2 }) s

/-- A copy as it stands in the record's region: its signed bytes and its signature. -/
def repairCopyBytes (c : RepairCopy) : List Byte := repairBytes c ++ c.sig

/-- The newest copies that fit a region of some bytes: a new one overwrites the oldest (R30). -/
def fitRegion (room : Nat) : List RepairCopy → List RepairCopy
  | [] => []
  | c :: cs =>
    let n := (repairCopyBytes c).length
    if n ≤ room then c :: fitRegion (room - n) cs else []

/-- The management firmware runs: not in recovery mode, nor before phase 5 (R23, R100). -/
def firmwareRuns (s : State) : Bool := s.pwr.on && s.pkg.phase == .ready && !s.pkg.recovery

/-- The management firmware writes a new copy of the record, and a persist barrier follows it (R30); one that the region
cannot hold is not written. -/
def writeRepair (s : State) (c : RepairCopy) : State :=
  if s.firmwareRuns && decide ((repairCopyBytes c).length ≤ 65536) then
    s.modPkg fun p => { p with frr := fitRegion 65536 (c :: p.frr) }
  else s

/-- The bytes of the record's region: its copies, newest first, and zeros (R30). -/
def repairRegion (s : State) : List Byte :=
  let bs := s.pkg.frr.flatMap repairCopyBytes
  bs ++ List.replicate (65536 - bs.length) 0

/-- The management firmware reads the region through the package management block (R30). -/
def readRepair (s : State) (off n : Nat) : State :=
  if s.firmwareRuns then s.modPkg fun p => { p with frrRead := (s.repairRegion.drop off).take n } else s

/-- Key rotations that have not ended are completed (R23, R29). -/
def finishRotation (s : State) : State :=
  (((List.range 8).filter fun t => (s.tenant t).erasing).foldl (fun s t => s.rotateKey t) s).modPkg fun p =>
    { p with rotate := false }

/-- Phase 4 (R100). -/
def boot (s : State) : State :=
  let s := s.applyRepair.finishRotation
  let s := s.modHost fun h => { h with ms := [] }
  let s := s.extendSlot 0 Config.romDigest
  let lc := s.pkg.lcstate
  let fw := s.bootSlot 0 (imageKeys lc)
  let s := if fw.isSome then s.extendSlot 1 (imageDigest fw) else s
  let rh := s.bootSlot 1 (imageKeys lc)
  let s := if rh.isSome then s.extendSlot 2 (imageDigest rh) else s
  let po := s.bootSlot 2 s.policyKeys
  let s := match po with
    | none => s
    | some k => (Config.policyWrites (splitImage k.bytes).1).foldl policyWrite s
  let s := s.extendSlot 3 (imageDigest po)
  let s := s.extendSlot 4 ((s.repairRecord.map repairDigest).getD 0)
  let s := s.extendSlot 5 (lifeDigest lc s.pkg.reentry)
  let s := match rh with
    | none => s
    | some k => s.setBytes (imagePlace 0) (splitImage k.bytes).1
  let used := [(0, fw), (1, rh), (2, po)].filterMap fun e => e.2.map fun k => (e.1, k.slot)
  let s := s.modHost fun h => { h with used, staging := [] }
  let s := s.modFab fun f => { f with restartWait := s.otherPeers }
  s.modPkg fun p => { p with phase := .boot, bndlock := true, recovery := fw.isNone, rhamarOk := rh.isSome }

/-! ### Ports (R38 to R41, R64, R73, R85) -/

/-- Active lanes of a port that are in service (R40). -/
def lanesUp (k : Port) : Nat :=
  let one (i : Nat) : Nat :=
    if !k.failed.getLsbD i then 1 else if k.sparefor.toNat = i + 1 ∧ !k.spareFailed then 1 else 0
  one 0 + one 1

/-- A fabric port event is reported to the management firmware (R85, R90). -/
def portEvent (s : State) : State := s.signal 0 3

/-- A port with no lane left is down (R41). -/
def checkPort (s : State) (n : Nat) : State :=
  if (s.port n).up && lanesUp (s.port n) == 0 then (s.modPort n fun k => { k with up := false }).portEvent else s

end State

/-- A lane of a port fails (R41): the spare takes its place where it may, or the port goes on with what is left. -/
def State.failLane (s : State) (n lane : Nat) : State :=
  let k := s.port n
  if lane = 2 then (s.modPort n fun k => { k with spareFailed := true }).checkPort n
  else if k.failed.getLsbD lane then s
  else
    let free := k.spareen && k.sparefor == 0 && !k.spareFailed
    let s := s.modPort n fun k =>
      { k with failed := k.failed ||| BitVec.ofNat 2 (2 ^ lane), sparefor := if free then BitVec.ofNat 2 (lane + 1) else k.sparefor }
    (if free then s.portEvent else s).checkPort n

namespace State

/-- The monitor of an active lane predicts failure (R41, R85). -/
def predict (s : State) (n lane : Nat) : State :=
  let k := s.port n
  let s := s.portEvent
  if !k.auto then s
  else if k.step.toNat < 2 then
    (s.modPort n fun k => { k with step := k.step + 1, stepdowns := min (k.stepdowns + 1) 255 }).portEvent
  else s.failLane n lane

/-- A held packet is sent again, on its port or, when that is down, by R65 and R66 (R73); one for which the other port has
no room stays where it is. -/
def resend (s : State) (k : Custody) : State :=
  if s.portUp k.port then s.modFab fun f => { f with custody := f.custody ++ [k], outbox := (some k.port, k.pkt) :: f.outbox }
  else
    let p := if k.hop then { k.pkt with hops := k.pkt.hops - 1 } else k.pkt
    match s.place p with
    | some t => t
    | none => s.modFab fun f => { f with custody := f.custody ++ [k] }

/-! ### Sparing (R31 to R34) -/

/-- The fields of a sparing command. -/
def spareOf (v : DWord) : Spare :=
  { op := BitVec.ofNat 2 (slice v 62 61), stack := BitVec.ofNat 3 (slice v 60 58), pch := BitVec.ofNat 6 (slice v 57 52),
    bank := BitVec.ofNat 6 (slice v 51 46), row := BitVec.ofNat 17 (slice v 45 29) }

/-- The row that a command names. -/
def Spare.key (k : Spare) : Nat × Nat × Nat × Nat := (k.stack.toNat, k.pch.toNat, k.bank.toNat, k.row.toNat)

/-- Fields that R31 refuses. -/
def spareBad (v : DWord) : Bool :=
  let k := spareOf v
  decide (48 ≤ k.bank.toNat) || decide (98304 ≤ k.row.toNat) || slice v 28 0 != 0

/-- Soft-spare entries of a stack in use. -/
def softUsed (s : State) (stack : Nat) : Nat := (s.pkg.soft.filter fun r => r.1 == stack).length

/-- Hard-repair resources left in a bank (R32). -/
def hardLeft (s : State) (k : Spare) : Nat :=
  (Config.hardFree k.stack.toNat k.pch.toNat k.bank.toNat).toNat -
    (s.pkg.hard.filter fun r => r.1 == k.stack.toNat && r.2.1 == k.pch.toNat && r.2.2.1 == k.bank.toNat).length

/-- A sparing command ends with a result (R32, R33): vector 4 is signalled. -/
def endSpare (s : State) (r : BitVec 3) : State :=
  (s.modPkg fun p => { p with spareRun := none, spareResult := if p.spareRejected then 3 else r, spareRejected := false }).signal 0 4

/-- A sparing command is accepted: it runs until SPARE_DONE, or ends at once (R31, R33). -/
def startSpare (s : State) (instant : Option (BitVec 3)) : State :=
  let v := s.pkg.spareCmd
  if s.pkg.spareRun.isSome then s.modPkg fun p => { p with spareRejected := true }
  else
    let s := s.modPkg fun p => { p with spareLast := spareOf v }
    if spareBad v then s.endSpare 2
    else
      match instant with
      | some r => s.endSpare r
      | none => s.modPkg fun p => { p with spareRun := some (spareOf v) }

/-- The running command ends (R32 to R34): the stack has failed, which is a free value, or the row is replaced where
something is left to replace it. A soft spare of a row that has one already is done at once (notes/assumptions/58.md). -/
def finishSpare (s : State) : State :=
  match s.pkg.spareRun with
  | none => s
  | some k =>
    let key := Spare.key k
    let (s, failed) := s.free
    if failed.getLsbD 0 then s.endSpare 4
    else if k.op = 1 then
      if s.pkg.soft.contains key then s.endSpare 0
      else if 1024 ≤ s.softUsed k.stack.toNat then s.endSpare 1
      else (s.modPkg fun p => { p with soft := p.soft ++ [key] }).endSpare 0
    else if s.hardLeft k = 0 then s.endSpare 1
    else (s.modPkg fun p => { p with hard := p.hard ++ [key], soft := p.soft.erase key }).endSpare 0

/-! ### Core retirement (R35, R36) -/

/-- A MAILED job leaves the mailboxes and returns to the pool at its priority and age (R36, R120, R142); where the tenant's
share of the pool is full it waits outside, and enters as any such job does (R124; notes/assumptions/27.md). -/
def unmail (s : State) (e : Nat) : State :=
  let s := { s with cores := s.cores.map fun (c : Nat × Core) => (c.1, { c.2 with mailbox := c.2.mailbox.filter fun m => m.1 != e }) }
  (s.modEvent e fun k => { k with st := .ready, runs := [], left := 0 }).enterPool e

/-- Jobs with an entry in a core's mailbox. -/
def mailedOn (s : State) (c : Nat) : List Nat := ((s.core c).mailbox.map (·.1)).eraseDups

/-- One core is retired (R36). -/
def retireCore (s : State) (c : Nat) : State :=
  if s.retired c then s
  else
    let s := s.modPkg fun p => { p with retire := p.retire ||| laneBit c }
    (s.mailedOn c).foldl (fun s e => if (s.event e).st = .mailed then s.unmail e else s) s

/-- A retired core that holds no job part and no mailbox entry stops its workers and powers down (R36). -/
def powerCoreDown (s : State) (c : Nat) : State :=
  if !s.retired c || (s.core c).down || s.blocksOn c != [] || (s.core c).mailbox != [] then s
  else
    let s := { s with groups := s.groups.filter fun g => State.coreOf g.1 != c }
    let s := s.modCore c fun k => { k with down := true, svcFlag := none }
    s.modPkg fun p => { p with retstat := p.retstat ||| laneBit c }

/-! ### The sideband target (R19) -/

/-- PWR_STAT (R44). -/
def pwrStat (s : State) : Nat :=
  let b (x : Bool) (i : Nat) : Nat := if x then 2 ^ i else 0
  b s.pwr.alertLow 0 + b s.overCap 1 + b s.hot 2 + b (s.alarm && (s.pwr.mode == 1 || s.pwr.mode == 2)) 3 +
    2 ^ 4 * s.pwr.avg.toNat + b s.pwr.lowv 16 + b s.pwr.highv 17 + b s.pwr.isslim 18

/-- PKG_STAT (R89). -/
def pkgStat (s : State) : Nat :=
  let b (x : Bool) (i : Nat) : Nat := if x then 2 ^ i else 0
  b s.pkg.holdup 0 + b s.pkg.lcerr 1 + b s.pkg.frrbad 2 + b s.pkg.bndlock 3 + b s.pkg.noflit 4 + b s.pkg.recovery 5

/-- PKG_LCSTATE (R27). -/
def lcStat (s : State) : Nat := s.pkg.lcstate.toNat + 16 * s.pkg.reentry.toNat

/-- What the sideband target shows of the module: before phase 4 the reset values of the registers, with the life-cycle
fuses and the outcome of the hold-up test as they stand (R19; notes/assumptions/24.md). -/
def sbView (s : State) : State :=
  if s.beforeBoot then
    { s with
      pwr := { s.pwr with alertLow := false, cap := 3200, avg := 0, lowv := false, highv := false, isslim := false,
                          throttle := 100, therm := 0 }
      pkg := { s.pkg with lcerr := false, frrbad := false, bndlock := false, noflit := false, recovery := false } }
  else s

/-- The byte at an index of the sideband map (R19). -/
def sbIndexed (s : State) (i : Nat) : Byte :=
  BitVec.ofNat 8 (match i with
    | 0 => s.lcStat
    | 1 => s.pwr.therm.toNat
    | 2 => s.pwr.throttle.toNat
    | 3 => s.pwrStat / 2 ^ 4 % 2 ^ 8
    | 4 => s.pwrStat / 2 ^ 12 % 2 ^ 4
    | 5 => s.pwrStat % 16 + 16 * (s.pwrStat / 2 ^ 16 % 8)
    | 6 => s.pkgStat % 256
    | 7 => s.pwr.cap.toNat % 256
    | 8 => s.pwr.cap.toNat / 256
    | 15 => 0x96
    | _ => 0)

/-- The byte that a private read returns for an index. -/
def sbByte (s : State) (i : Nat) : Byte := s.sbView.sbIndexed i

/-- The address that the sideband target answers at: its dynamic address once it has one, else the static one (R19;
notes/assumptions/24.md). -/
def sbAddress (s : State) : BitVec 7 := s.pwr.sbDynamic.getD Config.sbStatic

/-- An access of the sideband target: with internal power off nothing answers, and another address is answered NACK
(R18, R19). -/
def onSideband (s : State) (addr : BitVec 7) (f : Power → Power) : State :=
  if !s.pwr.on then s
  else s.modPwr fun p => if addr = s.sbAddress then f p else { p with sbNack := p.sbNack + 1 }

end State

/-! ### Input power and resets -/

/-- The DC input moves to a voltage (R16). An input that counts as lost is one that has been removed, and takes the thermal
trip's latch with it (R50; notes/assumptions/52.md). -/
def execInputVoltageChange (mv : Nat) (s : State) : Host.Outcome State Fault Refusal :=
  let gone := State.inputLost mv
  let t := s.modPwr fun p =>
    { p with inputMv := mv, lost := gone, cutoff := decide (64000 < mv), tripped := p.tripped && !gone
             lowv := decide (38000 ≤ mv) && decide (mv < 40000), highv := decide (60000 < mv) && decide (mv ≤ 64000) }
  .next (if gone then (if s.pwr.on then t.powerDown else t) else if t.pwr.on then t.noteAlarm else t)

/-- The input is lost (R20). -/
def execPowerInputLost (s : State) : Host.Outcome State Fault Refusal :=
  .next ((if s.pwr.on then s.powerDown else s).modPwr fun p =>
    { p with inputMv := 0, lost := true, lowv := false, highv := false, tripped := false })

/-- A power-on reset (R16, R22, R24): the input is in range, and no thermal trip is latched (R50). It follows by itself
where the input has come into range (`State.work`). -/
def execPowerOnReset (holdupOk : Bool) (s : State) : Host.Outcome State Fault Refusal :=
  if s.pwr.on ∨ s.pwr.tripped ∨ s.pwr.lost then .next s
  else
    let t := s.modPwr fun p => { p with on := true }
    .next ((t.modPkg fun p => { p with holdup := holdupOk }).phaseOne)

/-- PERST_N goes low (R18): a device reset is held. -/
def execPerstNAssert (s : State) : Host.Outcome State Fault Refusal :=
  let t := s.modPwr fun p => { p with perstLow := true }
  .next t.resetTrigger

/-- PERST_N rises (R18): the reset sequence begins. -/
def execPerstNRelease (s : State) : Host.Outcome State Fault Refusal :=
  let t := s.modPwr fun p => { p with perstLow := false }
  .next (if t.pkg.phase = .held then t.modPkg fun p => { p with phase := .stop } else t)

/-- A PCI Express hot reset or link disable of the physical function (R22). -/
def execPcieHotReset (s : State) : Host.Outcome State Fault Refusal := .next s.resetTrigger

/-- PKG_RSTCTL.DEVRST (R89). -/
def execDevrst (s : State) : Host.Outcome State Fault Refusal := .next s.resetTrigger

/-- Phase 2 (R23): the write-pending buffers are the persist domain, whose content is Pewter's. -/
def execPersistDrain (s : State) : Host.Outcome State Fault Refusal :=
  .next (if s.pkg.phase = .stop then s.modPkg fun p => { p with phase := .drain } else s)

/-- Phase 3 (R23, R25). -/
def execWipe (s : State) : Host.Outcome State Fault Refusal :=
  .next (if s.pkg.phase = .drain then s.wipeAll.modPkg fun p => { p with phase := .wipe } else s)

/-- Phase 4 (R23, R100); in SCRAP the boot stops after phase 3 (R27). -/
def execMeasuredBoot (s : State) : Host.Outcome State Fault Refusal :=
  .next (if s.pkg.phase ≠ .wipe then s
    else if s.pkg.lcstate = 4 then s.modPkg fun p => { p with phase := .scrapped }
    else s.boot)

/-- Phase 5 (R23, R149): workers start on every unretired core. -/
def execModReady (s : State) : Host.Outcome State Fault Refusal :=
  .next (if s.pkg.phase ≠ .boot then s
    else
      let t := s.modPkg fun p => { p with phase := .ready, modReady := true }
      ((List.range 64).filter fun c => !t.retired c).foldl (fun t c => t.startWorkers c) t)

/-- The thermal trip (R50). -/
def execThermalTrip (s : State) : Host.Outcome State Fault Refusal := .next (if s.pwr.on then s.trip else s)

/-- The highest junction temperature, every 100 µs (R49, R50). -/
def execThermSample (celsius : BitVec 7) (s : State) : Host.Outcome State Fault Refusal :=
  if !s.pwr.on then .next s
  else if 115 ≤ celsius.toNat then .next s.trip
  else .next (s.modPwr fun p => { p with therm := celsius }).noteAlarm

/-- The end of a 1 ms window (R43, R44, R48). -/
def execPowerWindow (watts : BitVec 12) (s : State) : Host.Outcome State Fault Refusal :=
  if !s.pwr.on then .next s
  else
    let overCap := decide (s.pwr.cap.toNat < watts.toNat)
    let n := if overCap then s.pwr.overWindows + 1 else 0
    .next (s.modPwr fun p =>
      { p with avg := watts, overWindows := n, isslim := overCap && (p.isslim || decide (10 ≤ n)) }).noteAlarm

/-- PWR_ALERT_N changes (R18, R44). -/
def execPwrAlertChange (s : State) : Host.Outcome State Fault Refusal :=
  .next (s.modPwr fun p => { p with alertLow := !p.alertLow }).noteAlarm

/-! ### The sideband target (R19) -/

/-- SETDASA or ENTDAA. -/
def execSbDynamicAddress (addr : BitVec 7) (s : State) : Host.Outcome State Fault Refusal :=
  .next (if s.pwr.on then s.modPwr fun p => { p with sbDynamic := some addr } else s)

/-- A private write: one byte below 0x10 sets the index, and any other one is answered NACK. -/
def execSbIndexWrite (data : SbWrite) (s : State) : Host.Outcome State Fault Refusal :=
  .next (s.onSideband data.addr fun p =>
    match data.data with
    | [b] => if b.toNat < 16 then { p with sbIndex := b.setWidth 4 } else { p with sbNack := p.sbNack + 1 }
    | _ => { p with sbNack := p.sbNack + 1 })

/-- A private read of up to `count.count` bytes: one per index, from the current one upward, ending after index 0x0F. -/
def execSbRead (count : SbRead) (s : State) : Host.Outcome State Fault Refusal :=
  .next (s.onSideband count.addr fun p =>
    let i := p.sbIndex.toNat
    { p with sbOut := ((List.range (min count.count (16 - i))).map fun k => s.sbByte (i + k)).reverse ++ p.sbOut })

/-! ### Sparing (R31 to R33) -/

/-- HBM_SPARECMD with OP 0b00. -/
def execSpareNop (s : State) : Host.Outcome State Fault Refusal := .next (s.startSpare (some 0))
/-- HBM_SPARECMD with OP 0b01. -/
def execSoftSpare (s : State) : Host.Outcome State Fault Refusal := .next (s.startSpare none)
/-- HBM_SPARECMD with OP 0b10. -/
def execHardSpare (s : State) : Host.Outcome State Fault Refusal := .next (s.startSpare none)
/-- HBM_SPARECMD with OP 0b11. -/
def execSpareReserved (s : State) : Host.Outcome State Fault Refusal := .next (s.startSpare (some 2))
/-- The end of the running command (R32, R33). -/
def execSpareDone (s : State) : Host.Outcome State Fault Refusal := .next s.finishSpare

/-! ### Core retirement (R35, R36) -/

/-- A write of CORE_RETIRE. -/
def execCoreRetire (mask : DWord) (s : State) : Host.Outcome State Fault Refusal :=
  let t := ((List.range 64).filter fun c => mask.getLsbD c).foldl (fun s c => s.retireCore c) s
  .next ((List.range 8).foldl (fun s k => s.noteRoles k) t)

/-- A retired core powers down (R36). -/
def execCorePowerDown (core : Nat) (s : State) : Host.Outcome State Fault Refusal := .next (s.powerCoreDown core)

/-! ### Ports -/

/-- FAB_PORTCTL.RETRAIN (R39, R41): the highest step that MINSTEP and the margins allow. -/
def execPortRetrain (port : Nat) (margin : BitVec 2) (s : State) : Host.Outcome State Fault Refusal :=
  .next (if port < 62 ∧ (s.port port).up = true then
      s.modPort port fun k => { k with step := if k.minstep.toNat < margin.toNat then BitVec.ofNat 2 (min margin.toNat 2) else k.minstep }
    else s)

/-- FAB_PORTCTL.DISABLE (R39): the port goes down as if dead. -/
def execPortDisable (port : Nat) (s : State) : Host.Outcome State Fault Refusal :=
  if 62 ≤ port then .next s
  else
    let t := s.modPort port fun k => { k with disable := true, up := false }
    .next (if (s.port port).up then t.portEvent else t)

/-- A measurement of one lane over 1 ms (R84, R85); lane 2 is the spare. A codeword that FEC could not correct makes it
poor. After a prediction the poor ones are counted afresh (notes/assumptions/61.md). -/
def execEyeMeasurement (port : Nat) (lane : Nat) (margin : BitVec 8) (fec : FecCount) (s : State) :
    Host.Outcome State Fault Refusal :=
  if 62 ≤ port ∨ 3 ≤ lane then .next s
  else
    let cfg := s.fab.eyecfg
    let thr := slice cfg 31 16
    let poor := decide (margin.toNat < slice cfg 7 0) || (thr != 0 && decide (thr ≤ fec.corrected.toNat)) || fec.lost
    let n := if poor then Map.get 0 (s.port port).poor lane + 1 else 0
    let hit := decide (max 1 (slice cfg 15 8) ≤ n)
    let t := s.modPort port fun k => { k with poor := Map.put lane (if hit then 0 else n) k.poor }
    let k := s.port port
    let active := if lane = 2 then k.sparefor != 0 && !k.spareFailed else !k.failed.getLsbD lane
    .next (if hit && active then t.predict port lane else if hit then t.portEvent else t)

/-- A lane fails (R41). -/
def execLaneFailure (port : Nat) (lane : Nat) (s : State) : Host.Outcome State Fault Refusal :=
  .next (if 62 ≤ port ∨ 3 ≤ lane then s else s.failLane port lane)

/-- After an interruption, packets whose custody acknowledgement is pending are sent again (R73). -/
def execPortResume (port : Nat) (s : State) : Host.Outcome State Fault Refusal :=
  let mine := s.fab.custody.filter fun k => k.port == port
  .next (mine.foldl (fun s k => s.resend k) (s.modFab fun f => { f with custody := f.custody.filter fun k => k.port != port }))

/-- A port trains (R39, R41, R52, R64), from phase 4 on, at its step, and never above MINSTEP's rate: after a reset,
RESTART goes to every device that can be reached and has not answered. -/
def execPortTrained (port : Nat) (s : State) : Host.Outcome State Fault Refusal :=
  if 62 ≤ port ∨ (s.port port).disable = true ∨ State.lanesUp (s.port port) = 0 ∨ s.heldDown port ∨ s.beforeBoot then .next s
  else
    let t := s.modPort port fun k => { k with up := true, step := if k.step.toNat < k.minstep.toNat then k.minstep else k.step }
    .next ((t.fab.restartWait.filter fun d => !t.isDead d && (t.nextHop d 0).isSome).foldl
      (fun s d => s.inject (s.mkPacket 20 2 8 d 0 0 (bytesOf 8 1) none)) t)

/-- A port loses its partner (R64). -/
def execPortDown (port : Nat) (s : State) : Host.Outcome State Fault Refusal :=
  .next (if (s.port port).up then (s.modPort port fun k => { k with up := false }).portEvent else s)

/-- The array of a core has been idle for 256 clk (R46). -/
def execMatrixIdleGap (core : Nat) (s : State) : Host.Outcome State Fault Refusal :=
  .next (s.modCore core fun k => { k with gap := true, ramped := false })

/-- The host link trains (R86). -/
def execLinkTraining (flit : Bool) (s : State) : Host.Outcome State Fault Refusal :=
  .next (s.modPkg fun p => { p with noflit := !flit })

end Sys2Proof.Machine
end

