-- ==== Sys2Proof/Machine/Tenants.lean ====
section
/-! DEFINITION. Functions and tenants: VF Enable, function-level reset, tenant configuration, states and reset, key
rotation, stream and fault queues as the host sees them, MSI-X masks (R87 to R98, R108, R109, R408;
notes/assumptions/25.md). -/

namespace Sys2Proof.Machine

namespace State

/-- The host link answers requests other than configuration, and configuration requests normally (R23). -/
def hostUp (s : State) : Bool := s.pwr.on && s.pkg.phase == .ready

/-- The tenant's virtual function takes accesses (R88, R94). -/
def vfOpen (s : State) (t : Nat) : Bool :=
  s.hostUp && decide (t < 8) && s.fnEnabled (t + 1) && decide ((s.tenant t).st ≠ .resetting)

/-- A tenant's state changes: vector 0 of the physical function (R90). -/
def setTenState (s : State) (t : Nat) (st : TenState) : State := (s.modTenant t fun k => { k with st }).signal 0 0

/-- A tenant's outcome of the last request (R91). -/
def setErr (s : State) (t : Nat) (e : BitVec 4) : State := s.modTenant t fun k => { k with err := e }

/-! ### Workers of a tenant's cores (R149) -/

/-- Every core of a tenant's clusters, retired or not. -/
def clusterCores (s : State) (t : Nat) : List Nat := (List.range 64).filter fun c => s.holdsCluster t (clusterOf c)

/-- Resident groups of a core are gone; their stores have left the store buffer. -/
def clearResidents (s : State) (c : Nat) : State :=
  (s.groupsOn c).foldl (fun s g =>
    if (s.group g).role = .job then s
    else
      let s := (s.drainGroup g).unissue g
      { s with groups := Map.del g s.groups }) s

/-- The workers of a tenant's cores restart at WENTRY (R149). -/
def restartWorkers (s : State) (t : Nat) : State :=
  (s.noteRoles t).clusterCores t |>.foldl
    (fun s c => if (s.core c).down then s else (s.clearResidents c).startWorkers c) (s.noteRoles t)

/-! ### Tenant reset (R94) -/

/-- A group that stands on one of a tenant's cores. -/
def onCores (cs : List Nat) (g : Nat) : Bool := cs.contains (coreOf g)

/-- Packets of a tenant that wait to be injected are abandoned; they have no number yet (R62, R94). -/
def dropInjected (s : State) (t : Nat) : State :=
  s.modFab fun f => { f with injected := f.injected.filter fun p => p.vcn.toNat != t || unnumbered p }

/-- Subscribers of a tenant's flags see them lost; signals of before are not sent again (R82, R123). -/
def loseSubscribers (s : State) (t : Nat) : State :=
  let mine := s.inSubs.filter fun r => shareOf r.flag == t
  let s := { s with inSubs := s.inSubs.filter fun r => shareOf r.flag != t }.modSvc fun v =>
    { v with lost := v.lost.filter fun k => k.vcn != t }
  mine.foldl (fun s r => s.sendEvsig r.flag r.peer true) s

/-- Rows, contributions and parts of ATs that this device still holds for a tenant end with ACCFLT (R94). -/
def endHeld (s : State) (t : Nat) : State :=
  let held := (s.svc.early ++ s.svc.atParts ++ s.svc.reductions.flatMap fun r => r.parts.filterMap (·.pkt)).filter fun p =>
    p.vcn.toNat == t
  held.foldl (fun s p => s.refuse p 4) s

/-- Step 2 of R94: every block of the tenant stops, and what it had under way is abandoned. -/
def killTenant (s : State) (t : Nat) : State :=
  let s := s.endHeld t
  let cs := s.clusterCores t
  let lines := cs.flatMap fun c => (s.core c).copies.flatMap (·.lines)
  let tags := (s.fab.tags.filter fun k => k.2.vcn == t).map (·.1)
  let s := (cs.flatMap fun c => s.groupsOn c).foldl (fun s g => s.unissue g) s
  let s :=
    { s with
      groups := s.groups.filter fun g => !onCores cs g.1
      blocks := s.blocks.filter fun b => !cs.contains b.2.core
      owned := s.owned.filter fun l => !lines.contains l }
  let s := tags.foldl (fun s k => s.retireTag k) s
  let s := s.modSvc fun v =>
    { v with
      multicasts := v.multicasts.filter fun m => !onCores cs m.gid
      copies := v.copies.filter fun m => !onCores cs m.gid
      colls := v.colls.filter fun m => m.tenant != t
      reductions := v.reductions.filter fun r => r.vcn != t
      answered := v.answered.filter fun r => r.1 != t
      early := v.early.filter fun p => p.vcn.toNat != t
      atParts := v.atParts.filter fun p => p.vcn.toNat != t }
  s.dropInjected t

/-- A core as a tenant reset's wipe leaves it (R94 step 3); HALF reads 0 (notes/assumptions/25.md). -/
def wipedCore (k : Core) : Core := { Core.init with down := k.down, cycles := k.cycles, mtxMode := k.mtxMode, mtxRamp := k.mtxRamp }

/-- Every byte of a tenant's cores, vaults and pseudo-channel groups zeroed (R25, R26, R94). -/
def wipeShare (s : State) (t : Nat) : State :=
  let cs := s.clusterCores t
  let s := cs.foldl (fun s c =>
    let s := s.wipeRange (spadPlace c 0) (spadPlace (c + 1) 0)
    let s := s.wipeRange (tilePlace c 0 0) (tilePlace (c + 1) 0 0)
    let s := s.wipeRange (accPlace c 0 0 0) (accPlace (c + 1) 0 0 0)
    let s := s.wipeRange (2 ^ 40 + 0x2000000 * c) (2 ^ 40 + 0x2000000 * (c + 1))
    s.modCore c wipedCore) s
  let s := ((List.range 64).filter fun g => (s.tenant t).pch.getLsbD g).foldl
    (fun s g => s.wipeRange (2 ^ 33 * g) (2 ^ 33 * (g + 1))) s
  { s with tlb2 := s.tlb2.filter fun e => !s.holdsCluster t e.1 }

/-- A queue after a tenant reset (R94). -/
def resetQueue (q : Queue) : Queue := { q with en := false, tail := 0, head := 0, qerr := 0, grid := none }

/-- The tenant's rows of Tarragon and Sorrel, and its registers (R94, R134, R142, R216, R408). -/
def resetTenantRows (s : State) (t : Nat) : State :=
  let s := s.loseSubscribers t
  let s :=
    { s with
      events := s.events.filter fun e => shareOf e.1 != t
      pool := s.pool.filter fun e => shareOf e != t
      outside := s.outside.filter fun e => shareOf e != t
      outSubs := s.outSubs.filter fun o => o.tenant != t
      slots := s.slots.filter fun e => s.slotOwner e.1 != some t
      shadow := s.shadow.filter fun e => s.slotOwner e.1 != some t }
  s.modTenant t fun k =>
    { k with
      queues := k.queues.map fun q => (q.1, resetQueue q.2)
      fq := { k.fq with tail := 0, head := 0, owed := [], waiting := [], blocked := false, outside := false }
      far := [], farBad := [], farFail := []
      dbg := { k.dbg with busy := false, pending := none }
      sched := { k.sched with dstate := if 1 ≤ k.sched.dstate ∧ k.sched.dstate ≤ 4 then 5 else k.sched.dstate
                              wrote := false, evctl := [] }
      sor := Sorrel.init, stripes := [], hostsig := 0, hostsigLast := 0, tlbBusy := false }

/-- Steps 1 to 3 of a tenant reset; TENANT_RESET_END is step 4 (R94). -/
def startTenantReset (s : State) (t : Nat) (disable : Bool) : State :=
  let s := (s.modTenant t fun k => { k with endDisabled := disable }).setTenState t .resetting
  ((s.killTenant t).wipeShare t).resetTenantRows t

/-- A reset or disable trigger of R92. -/
def tenantTrigger (s : State) (t : Nat) (disable : Bool) : State :=
  match (s.tenant t).st with
  | .disabled => s
  | .active => s.startTenantReset t disable
  | .resetting => s.modTenant t fun k => { k with endDisabled := k.endDisabled || disable }

/-! ### Enabling (R91, R92) -/

/-- Two partitions share a GiB. -/
def partsMeet (x y : Nat × Nat) : Bool := x.2 != 0 && y.2 != 0 && decide (x.1 < y.1 + y.2) && decide (y.1 < x.1 + x.2)

/-- What a tenant is configured with meets what another one holds (R91). -/
def overlapsTenant (s : State) (t u : Nat) : Bool :=
  let a := s.tenant t
  let b := s.tenant u
  slice (a.cfg &&& b.cfg) 7 0 != 0 || (a.pch &&& b.pch) != 0 || partsMeet (s.partition t) (s.partition u)

/-- The ERR of an enable request (R91). -/
def enableCode (s : State) (t : Nat) : BitVec 4 :=
  let k := s.tenant t
  let p := s.partition t
  if slice k.cfg 7 0 = 0 ∨ k.pch = 0 ∨ 4095 < p.1 + p.2 then 1
  else if (List.range 8).any fun u => u != t && decide ((s.tenant u).st ≠ .disabled) && s.overlapsTenant t u then 2
  else if !s.fnEnabled (t + 1) || !s.pkg.bndlock || s.pkg.lcstate == 0 || !s.pkg.rhamarOk then 3
  else 0

/-- An enable request that may be acted on (R91, R92). -/
def enableNow (s : State) (t : Nat) : State :=
  let c := s.enableCode t
  if c ≠ 0 then s.setErr t c
  else
    let s := s.modTenant t fun k =>
      { k with err := 0, queues := k.queues.map fun q => (q.1, { q.2 with en := false }) }
    (s.setTenState t .active).restartWorkers t

/-- A write of TEN_CTL with ENABLE 1 alone; one that meets a running rotation waits for it (R109). -/
def enableTenant (s : State) (t : Nat) : State :=
  let k := s.tenant t
  if k.st ≠ .disabled then s.setErr t 0
  else if k.erasing then s.modTenant t fun k => { k with enableWait := true, err := 0 }
  else s.enableNow t

/-! ### Configuration and keys (R91, R108, R109) -/

/-- A write of TEN_CFG; another partition than the recorded one starts a key rotation. -/
def writeTenCfg (s : State) (t : Nat) (v : DWord) : State :=
  let k := s.tenant t
  if k.st ≠ .disabled then s.setErr t 5
  else
    let v : DWord := BitVec.ofNat 64 (slice v 31 0)
    let fresh := slice v 31 20 != 0 && (slice v 19 8 != k.recBase.toNat || slice v 31 20 != k.recSize.toNat)
    s.modTenant t fun k => { k with cfg := v, err := 0, erasing := k.erasing || fresh }

/-- A write of TEN_PCH (R91). -/
def writeTenPch (s : State) (t : Nat) (v : DWord) : State :=
  if (s.tenant t).st ≠ .disabled then s.setErr t 5 else s.modTenant t fun k => { k with pch := v, err := 0 }

/-- An erase request (R91, R109). -/
def eraseTenant (s : State) (t : Nat) : State :=
  if (s.tenant t).st ≠ .disabled then s.setErr t 4 else s.modTenant t fun k => { k with erasing := true, err := 0 }

/-- A rotation ends; a request to enable that waited is acted on, and after a life-cycle change the last rotation brings
the device reset (R29, R109). -/
def endRotation (s : State) (t : Nat) : State :=
  if !(s.tenant t).erasing then s
  else
    let wait := (s.tenant t).enableWait
    let s := (s.rotateKey t).modTenant t fun k => { k with enableWait := false }
    let s := if wait then s.enableNow t else s
    if s.pkg.rotate && (List.range 8).all fun u => !(s.tenant u).erasing then
      (s.modPkg fun p => { p with rotate := false }).resetTrigger
    else s

/-- The fault queue lies outside the egress windows, as a record that was not written has shown (R91, R103). -/
def queueOutside (s : State) (t : Nat) : Bool :=
  (s.tenant t).fq.outside && (match s.recordPlace t with | .error 6 => true | _ => false)

/-- TEN_STAT (R91); ERR reads 7 while a record cannot be written (R98), and 6 while the queue lies outside the egress
windows. -/
def tenStat (s : State) (t : Nat) : Nat :=
  let k := s.tenant t
  (match k.st with | .disabled => 0 | .active => 1 | .resetting => 2) + (if k.erasing then 4 else 0) +
    16 * if k.fq.blocked then 7 else if s.queueOutside t then 6 else k.err.toNat

/-! ### Stream queues (R95 to R97) -/

/-- A stream error: QERR, vector 1, and the end of decoding where R97 says so. -/
def streamError (s : State) (t q : Nat) (e : BitVec 4) (stop : Bool) : State :=
  (s.modQueue t q fun k => { k with qerr := e, en := k.en && !stop }).signal (t + 1) 1

/-- A write of QCFG (R95). -/
def writeQcfg (s : State) (t q : Nat) (v : DWord) : State :=
  let k := s.queue t q
  if k.en then (if v.getLsbD 8 then s else s.modQueue t q fun k => { k with en := false })
  else
    let n := slice v 4 0
    let s := s.modQueue t q fun k =>
      { k with log2n := BitVec.ofNat 5 n, owner := v.getLsbD 5, prio := BitVec.ofNat 2 (slice v 7 6) }
    if !v.getLsbD 8 then s
    else if n < 6 ∨ 20 < n then s.streamError t q 7 true
    else s.modQueue t q fun k => { k with en := true, head := 0, tail := 0, qerr := 0 }

/-- QCFG as it reads. -/
def qcfg (k : Queue) : Nat :=
  k.log2n.toNat + (if k.owner then 32 else 0) + 64 * k.prio.toNat + if k.en then 256 else 0

/-- A host write of QTAIL (R97). -/
def writeQtail (s : State) (t q : Nat) (v : Word) : State :=
  let k := s.queue t q
  if k.owner then s.streamError t q 3 false
  else if 2 ^ k.log2n.toNat < (v - k.tail).toNat then s.streamError t q 2 false
  else if 2 ^ k.log2n.toNat < (v - k.head).toNat then s.streamError t q 1 false
  else s.modQueue t q fun k => { k with tail := v }

/-- A host write of FQHEAD (R98). -/
def writeFqhead (s : State) (t : Nat) (v : Word) : State :=
  let q := (s.tenant t).fq
  if 2 ^ q.log2n.toNat < (q.tail - v).toNat then s else s.modFq t fun q => { q with head := v }

end State

/-! ### Functions -/

/-- A write of NumVFs (R87, R92). -/
def execNumvfsWrite (n : Nat) (s : State) : Host.Outcome State Fault Refusal :=
  if !s.hostUp || decide (8 < n) then .next s
  else
    let t := s.modHost fun h => { h with numVfs := n }
    .next (((List.range 8).filter fun k => decide (n ≤ k)).foldl (fun s k => s.tenantTrigger k true) t)

/-- VF Enable is set (R88). -/
def execVfEnable (s : State) : Host.Outcome State Fault Refusal :=
  .next (if s.hostUp then s.modHost fun h => { h with vfEnable := true } else s)

/-- VF Enable is cleared (R92). -/
def execVfEnableClear (s : State) : Host.Outcome State Fault Refusal :=
  .next (if s.hostUp then
      (List.range 8).foldl (fun s k => s.tenantTrigger k true) (s.modHost fun h => { h with vfEnable := false })
    else s)

/-- A function-level reset of a virtual function (R22, R92). -/
def execFunctionLevelReset (vf : Nat) (s : State) : Host.Outcome State Fault Refusal :=
  .next (if s.hostUp ∧ 1 ≤ vf ∧ vf ≤ 8 ∧ s.fnEnabled vf then s.tenantTrigger (vf - 1) false else s)

/-- The host unmasks a vector; a pending event is then signalled (R90). -/
def execVectorUnmask (fn : Nat) (vec : Nat) (s : State) : Host.Outcome State Fault Refusal :=
  let k := 16 * fn + vec
  if !s.hostUp || decide (16 ≤ vec) || !s.fnEnabled fn then .next s
  else
    let pend := Map.get false s.host.pendingVec k
    let t := s.modHost fun h => { h with masked := Map.put k false h.masked, pendingVec := Map.del k h.pendingVec }
    .next (if pend then t.signal fn vec else t)

/-! ### Tenants -/

/-- An event of the physical function on a tenant's management registers. -/
def State.onTenant (s : State) (t : Nat) (f : State → State) : Host.Outcome State Fault Refusal :=
  .next (if s.hostUp ∧ t < 8 then f s else s)

/-- A write of TEN_CFG (R91). -/
def execTenCfgWrite (tenant : Nat) (value : DWord) (s : State) : Host.Outcome State Fault Refusal :=
  s.onTenant tenant fun s => s.writeTenCfg tenant value

/-- TEN_CTL with RESET 1 (R91, R94). -/
def execTenantResetRequest (tenant : Nat) (s : State) : Host.Outcome State Fault Refusal :=
  s.onTenant tenant fun s => (s.setErr tenant 0).tenantTrigger tenant false

/-- TEN_CTL with PEWERASE 1 (R91, R109). -/
def execPewerase (tenant : Nat) (s : State) : Host.Outcome State Fault Refusal :=
  s.onTenant tenant fun s => s.eraseTenant tenant

/-- TEN_CTL with ENABLE 1 (R91, R92). -/
def execTenantEnable (tenant : Nat) (s : State) : Host.Outcome State Fault Refusal :=
  s.onTenant tenant fun s => s.enableTenant tenant

/-- TEN_CTL with ENABLE 0 (R91, R92). -/
def execTenantDisable (tenant : Nat) (s : State) : Host.Outcome State Fault Refusal :=
  s.onTenant tenant fun s => (s.setErr tenant 0).tenantTrigger tenant true

/-- Step 4 of a tenant reset (R94, R149). -/
def execTenantResetEnd (tenant : Nat) (s : State) : Host.Outcome State Fault Refusal :=
  let k := s.tenant tenant
  .next (if s.hostUp ∧ tenant < 8 ∧ k.st = .resetting then
      ((s.setTenState tenant (if k.endDisabled then .disabled else .active)).modTenant tenant fun k =>
        { k with endDisabled := false }).restartWorkers tenant
    else s)

/-- A key rotation ends (R109). -/
def execKeyRotationDone (tenant : Nat) (s : State) : Host.Outcome State Fault Refusal :=
  .next (if tenant < 8 then s.endRotation tenant else s)

/-! ### Queues and signals of a virtual function -/

/-- An event on a tenant's virtual function (R88, R94). -/
def State.onVf (s : State) (t : Nat) (f : State → State) : Host.Outcome State Fault Refusal :=
  .next (if s.vfOpen t then f s else s)

/-- QCFG.EN from 0 to 1 (R95). -/
def execQueueEnable (tenant : Nat) (queue : Nat) (value : DWord) (s : State) : Host.Outcome State Fault Refusal :=
  s.onVf tenant fun s => if queue < 16 then s.writeQcfg tenant queue (value ||| 0x100) else s

/-- QCFG.EN from 1 to 0 (R95). -/
def execQueueDisable (tenant : Nat) (queue : Nat) (s : State) : Host.Outcome State Fault Refusal :=
  s.onVf tenant fun s => if queue < 16 then s.modQueue tenant queue fun k => { k with en := false } else s

/-- A host write of QTAIL (R97). -/
def execQtailWrite (tenant : Nat) (queue : Nat) (value : Word) (s : State) : Host.Outcome State Fault Refusal :=
  s.onVf tenant fun s => if queue < 16 then s.writeQtail tenant queue value else s

/-- A host write of FQHEAD (R98). -/
def execFqheadWrite (tenant : Nat) (value : Word) (s : State) : Host.Outcome State Fault Refusal :=
  s.onVf tenant fun s => s.writeFqhead tenant value

/-- A host read of HOSTSIG that returns bit 32 (R408). -/
def execHostsigRead (tenant : Nat) (s : State) : Host.Outcome State Fault Refusal :=
  s.onVf tenant fun s => s.modTenant tenant fun k => { k with hostsig := k.hostsig &&& 0x0FFFFFFFF }

end Sys2Proof.Machine
end

