-- ==== Sys2Proof/Machine/Tarragon.lean ====
section
/-! DEFINITION. Tarragon: operator records and their decoding (R96, R97, R110 to R118), delivery and the communication
reserve (R124 to R128, R37), retirement (R131), event control (R132, R133; notes/assumptions/27.md). -/

namespace Sys2Proof.Machine

namespace State

/-! ### Tarragon's own accesses (R103, R117, R139, R146) -/

/-- Pieces of a range that lie in one line each: address and length. `fuel` bounds them. -/
def linePieces : Nat → Nat → Nat → List (Nat × Nat)
  | 0, _, _ => []
  | fuel + 1, a, n => if n = 0 then [] else (let m := min n (64 - a % 64); (a, m) :: linePieces fuel (a + m) (n - m))

/-- The home of a local place as Tarragon reads it: its engine completes the line first. -/
def homeBytes (s : State) (t p n : Nat) : State × List Byte :=
  let s := s.recallLine (p / 64)
  if s.keyFits t (p / 64) then (s, s.bytesAt p n) else freeBytes n s

/-- The pieces of a range under a tenant's translation, each with its address and length, or the first failed check. -/
def tarragonPlan (s : State) (t a n : Nat) (write : Bool) : Except Snag (List (Loc × Nat × Nat)) :=
  (linePieces (n / 64 + 2) a n).mapM fun p => (s.tenantLoc t p.1 p.2 write).map fun l => (l, p.1, p.2)

/-- Units of host memory that accesses of these pieces cost, with their walks, one for each page (R103). -/
def planUnits (s : State) (t : Nat) (ps : List (Loc × Nat × Nat)) : Nat :=
  (ps.filter fun p => p.1.home == .host).length + (((ps.map fun p => p.2.1 / 65536).eraseDups).map fun v => s.walkUnits t (65536 * v)).sum

/-- The lines at peers among some pieces. -/
def farLines (ps : List (Loc × Nat × Nat)) : List Nat :=
  (ps.filterMap fun p => (remoteLoc p.1).map fun peer => peerPlace peer p.1.place / 64).eraseDups

/-- A request of Tarragon's to a peer (R72, R103). -/
def sendFar (s : State) (t typ peer addr : Nat) (payload : List Byte) (errand : Errand) : State :=
  let r := s.takeTag { typ, dst := BitVec.ofNat 12 peer, vcn := t, addr, errand, first := none }
  r.1.request typ 0 t peer r.2 addr payload

/-- The reads that bring lines from peers, but for those under way. -/
def askFar (s : State) (t : Nat) (ps : List (Loc × Nat × Nat)) : State :=
  ps.foldl (fun s p =>
    match remoteLoc p.1 with
    | none => s
    | some peer =>
      let line := peerPlace peer p.1.place / 64
      if (Map.find (s.tenant t).far line).isSome || s.fab.tags.any fun k => k.2.errand == .far t (64 * line) then s
      else s.sendFar t 0 peer (p.1.place / 64 * 64) [] (.far t (64 * line))) s

/-- Lines that Tarragon has used are read afresh the next time (R117). -/
def dropFar (s : State) (t : Nat) (ps : List (Loc × Nat × Nat)) : State :=
  let gone := farLines ps
  if gone = [] then s
  else s.modTenant t fun k =>
    { k with far := k.far.filter fun e => !gone.contains e.1, farBad := k.farBad.filter fun l => !gone.contains l }

/-- Pieces read, whose lines at peers have come. -/
def takePieces (s : State) (t : Nat) (ps : List (Loc × Nat × Nat)) : State × List Byte :=
  ps.foldl (fun (r : State × List Byte) p =>
    match remoteLoc p.1 with
    | some peer =>
      (r.1, r.2 ++ ((Map.get [] (r.1.tenant t).far (peerPlace peer p.1.place / 64)).drop (p.1.place % 64)).take p.2.2)
    | none =>
      let q := r.1.homeBytes t p.1.place p.2.2
      (q.1, r.2 ++ q.2)) (s, [])

/-- What keeps Tarragon from an access of some pieces now: a read at a peer that failed, lines still to come from a peer,
which are asked for, or a spent host budget (R103). -/
def awaitFar (s : State) (t : Nat) (ps : List (Loc × Nat × Nat)) (units : Nat) : State × Except (Option Snag) Unit :=
  let ls := farLines ps
  if ls.any fun l => (s.tenant t).farBad.contains l then (s.dropFar t ps, .error (some (Snag.plain 7 0x18 0)))
  else if ls.any fun l => (Map.find (s.tenant t).far l).isNone then (s.askFar t ps, .error none)
  else if units ≠ 0 && !s.affordsHost t units then (s, .error none)
  else (s, .ok ())

/-- Ranges read under a tenant's translation, all of them or none: the bytes of each, the first failed check, or none
where the access has to wait (R103). Every read sees the contents as they are (R117). -/
def tarragonReads (s : State) (t : Nat) (ranges : List (Nat × Nat)) : State × Except (Option Snag) (List (List Byte)) :=
  match ranges.mapM fun p => s.tarragonPlan t p.1 p.2 false with
  | .error e => (s, .error (some e))
  | .ok pss =>
    let ps := pss.flatMap fun x => x
    let units := s.planUnits t ps
    let w := s.awaitFar t ps units
    match w.2 with
    | .error e => (w.1, .error e)
    | .ok _ =>
      let r := pss.foldl (fun (r : State × List (List Byte)) ps =>
        let q := r.1.takePieces t ps
        (q.1, r.2 ++ [q.2])) (w.1.chargeUnits t units, [])
      (r.1.dropFar t ps, .ok r.2)

/-- One range read. -/
def tarragonRead (s : State) (t a n : Nat) : State × Except (Option Snag) (List Byte) :=
  let r := s.tarragonReads t [(a, n)]
  (r.1, r.2.map fun bss => bss.flatMap fun x => x)

/-- A piece written at its home, or sent to its peer. -/
def putPiece (s : State) (t use : Nat) (l : Loc) (bs : List Byte) : State :=
  match remoteLoc l with
  | none => s.performHome t l.place bs noGroup
  | some peer =>
    let offs := (List.range bs.length).map fun i => (l.place % 64 + i, bs.getD i 0)
    s.sendFar t 2 peer (l.place / 64 * 64) (linePayload offs) (.farWrite t use)

/-- Bytes written under a tenant's translation, piece by piece, up to the first that fails; answers whether all were.
`use` says what for. -/
def tarragonWrite (s : State) (t use a : Nat) (bs : List Byte) : State × Bool :=
  (linePieces (bs.length / 64 + 2) a bs.length).foldl (fun (r : State × Bool) p =>
    if !r.2 then r
    else
      match r.1.tenantLoc t p.1 p.2 true with
      | .error _ => (r.1, false)
      | .ok l =>
        ((r.1.chargeUnits t (r.1.planUnits t [(l, p)])).putPiece t use l ((bs.drop (p.1 - a)).take p.2), true)) (s, true)

/-- Units of host memory that the writes of some ranges cost, as far as they can be made (R103). -/
def writeUnits (s : State) (t : Nat) (ranges : List (Nat × Nat)) : Nat :=
  (ranges.map fun p =>
    ((linePieces (p.2 / 64 + 2) p.1 p.2).map fun q =>
      match s.tenantLoc t q.1 q.2 true with
      | .error _ => 0
      | .ok l => s.planUnits t [(l, q)]).sum).sum

/-- Writes of a use are still to be answered. -/
def farOut (s : State) (t use : Nat) : Bool := s.fab.tags.any fun k => k.2.errand == .farWrite t use

/-- Whether a write of a use has failed, which is then forgotten. -/
def farFailed (s : State) (t use : Nat) : State × Bool :=
  (s.modTenant t fun k => { k with farFail := k.farFail.filter (· != use) }, (s.tenant t).farFail.contains use)

/-! ### Operator records (R112 to R114) -/

/-- Word k of an operator record. -/
def opWord (r : List Byte) (k : Nat) : Nat := natOfBytes ((r.drop (8 * k)).take 8)
def opKind (r : List Byte) : Nat := opWord r 0 % 16
def opBit (r : List Byte) (i : Nat) : Bool := opWord r 0 / 2 ^ i % 2 == 1
def opDesc (r : List Byte) : Nat := nslice (opWord r 0) 63 13 * 64
def opGx (r : List Byte) : Nat := nslice (opWord r 1) 15 0
def opGy (r : List Byte) : Nat := nslice (opWord r 1) 31 16
def opGz (r : List Byte) : Nat := nslice (opWord r 1) 47 32
def opCount (r : List Byte) : Nat := opWord r 2 % 2 ^ 32
def opWait2 (r : List Byte) : Word := BitVec.ofNat 32 (opWord r 2 / 2 ^ 32)
def opDone (r : List Byte) : Word := BitVec.ofNat 32 (opWord r 3 / 2 ^ 32)
def opWait (r : List Byte) : Word := BitVec.ofNat 32 (opWord r 3)

/-- Jobs of a GRID. -/
def opJobs (r : List Byte) : Nat := opGx r * opGy r * opGz r

/-- Clusters of a tenant. -/
def clusterCount (s : State) (t : Nat) : Nat := popCount 8 (slice (s.tenant t).cfg 7 0)

/-- The index lies in the tenant's flag range, and stays in it for `n` names (R110, R114). -/
def flagRun (t i n : Nat) : Bool := decide (32768 * t ≤ i) && decide (i + n ≤ 32768 * t + 8192)

/-- A wait name that R114 accepts for a run of `n` names. -/
def waitNameOk (s : State) (t : Nat) (w : Word) (n : Nat) : Bool :=
  w == noName || (s.validName w && flagRun t (nameIndex w) n)

/-- A completion name that R114 accepts. -/
def doneNameOk (s : State) (t : Nat) (w : Word) (n : Nat) : Bool :=
  w == noName || (s.localFlag t w && flagRun t (nameIndex w) n)

/-- A GRID's own checks (R114), with the job record that its DESC gives. -/
def gridOk (s : State) (t : Nat) (r job : List Byte) : Bool :=
  let n := opJobs r
  let per (b : Bool) : Nat := if b then n else 1
  nslice (opWord r 0) 12 8 == 0 && nslice (opWord r 1) 63 48 == 0 &&
    n != 0 && decide (n ≤ 262144) && recFormed job &&
    (!(opBit r 4 || recTwin job) || decide (2 ≤ s.clusterCount t)) &&
    s.waitNameOk t (opWait r) (per (opBit r 5)) && s.waitNameOk t (opWait2 r) (per (opBit r 6)) &&
    s.doneNameOk t (opDone r) (per (opBit r 7))

/-- What the decoder makes of the record at a queue's HEAD. -/
inductive Decoded where
  | nothing                                -- no record to read
  | fault (qerr : BitVec 4)                -- the ring read fails (R97)
  | refused
  | grid (op job : List Byte)
  | arm (flag n : Nat)
  | signal (flag n : Nat)
  | nop
  | waiting                                -- a line of a peer, or the host budget, is waited for (R103)
  deriving DecidableEq, Repr

/-- The tenant's decode lane works: it is ACTIVE and not drained (R92, R142). -/
def laneOpen (s : State) (t : Nat) : Bool := (s.tenant t).st == .active && (s.tenant t).sched.dstate == 0

/-- The record at a queue's HEAD read and checked (R96, R97, R112 to R114). -/
def decodeHead (s : State) (t q : Nat) : State × Decoded :=
  let k := s.queue t q
  if !s.laneOpen t || !k.en || k.head == k.tail || k.grid.isSome || decide (16 ≤ q) then (s, .nothing)
  else
    if !k.owner && (s.pageHome t (ringAddr k k.head)).any fun h => h != .host then (s, .fault 5)
    else
      match s.tenantLoc t (ringAddr k k.head) 32 false with
      | .error e => (s, .fault (if e.cause = 0x17 then 7 else 4))
      | .ok _ =>
        let r := s.tarragonRead t (ringAddr k k.head) 32
        match r.2 with
        | .error none => (r.1, .waiting)
        | .error (some _) => (r.1, .fault 4)
        | .ok op =>
          match opKind op with
          | 0 =>
            let j := s.tarragonReads t [(ringAddr k k.head, 32), (opDesc op, 128)]
            match j.2 with
            | .error none => (j.1, .waiting)
            | .ok [_, job] => (j.1, if j.1.gridOk t op job then .grid op job else .refused)
            | _ => (r.1, .refused)
          | 1 =>
            let i := nameIndex (opDone op)
            if !s.localFlag t (opDone op) || decide (2 ^ 24 ≤ opCount op) || (s.event i).st == .armed then (r.1, .refused)
            else (r.1, .arm i (opCount op))
          | 2 =>
            if !s.localFlag t (opDone op) || decide (2 ^ 24 ≤ opCount op) then (r.1, .refused)
            else (r.1, .signal (nameIndex (opDone op)) (opCount op))
          | 3 => (r.1, .nop)
          | _ => (r.1, .refused)

/-! ### Tile jobs (R115, R120, R122) -/

/-- The first FREE job entry from `i` on; `fuel` bounds the search. -/
def seekEntry (s : State) : Nat → Nat → Option Nat
  | 0, _ => none
  | fuel + 1, i => if (s.event i).st = .free then some i else seekEntry s fuel (i + 1)

/-- The lowest-numbered free job entry of a tenant (R115). -/
def freeEntryOf (s : State) (t : Nat) : Option Nat :=
  s.seekEntry 24576 (32768 * t + 8192)

/-- A name moved on by a job's linear index where it is per tile (R115). -/
def perTile (w : Word) (per : Bool) (i : Nat) : Word := if w = noName ∨ !per then w else w + BitVec.ofNat 32 i

/-- The linear index of a job (R115). -/
def linearOf (jobid : DWord) : Nat := slice jobid 17 0

/-- The wait names of a job. -/
def waitsOf (k : EvEntry) : List Word :=
  [perTile k.waitev k.tw1 (linearOf k.jobid), perTile k.waitev2 k.tw2 (linearOf k.jobid)].filter fun w => w != noName

/-- The completion name of a job. -/
def doneOf (k : EvEntry) : Word := perTile k.doneev k.twd (linearOf k.jobid)

/-- Distinct remote names that the tenant subscribes to (R110). -/
def outCount (s : State) (t : Nat) : Nat := (s.outSubs.filter fun o => o.tenant == t).length

/-- Remote names of a job for which a subscription has still to be made. -/
def newNames (s : State) (t : Nat) (k : EvEntry) : List Word :=
  ((waitsOf k).filter fun w => namePeer w != s.peer && !s.outSubs.any fun o => o.tenant == t && o.name == w).eraseDups

/-- The entry of job `i` of a GRID. -/
def gridEntry (q : Nat) (h : HeldGrid) (i : Nat) : EvEntry :=
  let op := h.op
  { EvEntry.init with
    st := .waiting
    jobid := BitVec.ofNat 64 (i + 2 ^ 18 * h.index.toNat + 2 ^ 50 * q)
    desc := opDesc op, iter := BitVec.ofNat 32 (opCount op)
    waitev := opWait op, waitev2 := opWait2 op, doneev := opDone op
    x := i % opGx op, y := i / opGx op % opGy op, z := i / (opGx op * opGy op)
    tw1 := opBit op 5, tw2 := opBit op 6, twd := opBit op 7
    twin := opBit op 4 || recTwin h.job, idem := recIdem h.job, record := h.job }

/-- A WAITING job registers with one name: with the local flag, unless it is FIRED, or with the subscription (R120,
R122). -/
def registerJob (s : State) (t e : Nat) (w : Word) : State :=
  if namePeer w = s.peer then
    if (s.event (nameIndex w)).st = .fired then s
    else (s.modEvent (nameIndex w) fun f => { f with regs := f.regs ++ [e] }).modEvent e fun k => { k with count := k.count + 1 }
  else (s.modEvent e fun k => { k with count := k.count + 1 }).subscribe t w e

/-- A job is created: it registers with each of its names, and is READY when it waits for none (R120). -/
def createJob (s : State) (t e : Nat) (k : EvEntry) : State :=
  let s := (waitsOf k).foldl (fun s w => s.registerJob t e w) (s.setEvent e k)
  if (s.event e).count = 0 then s.makeReady e else s

/-- The jobs of a held GRID made one by one, while the tenant's shares allow it; `fuel` is how many may be made. -/
def expandGrid (t q : Nat) : Nat → State → State
  | 0, s => s
  | fuel + 1, s =>
    match (s.queue t q).grid with
    | none => s
    | some h =>
      if opJobs h.op ≤ h.made then s.modQueue t q fun k => { k with grid := none }
      else
        let k := gridEntry q h h.made
        match s.freeEntryOf t with
        | none => s
        | some e =>
          if 2048 < s.outCount t + (s.newNames t k).length then s
          else
            expandGrid t q fuel
              ((s.createJob t e k).modQueue t q fun k => { k with grid := some { h with made := h.made + 1 } })

/-- The held GRID of a queue goes on (R114). -/
def goOnGrid (s : State) (t q : Nat) : State :=
  match (s.queue t q).grid with
  | none => s
  | some h => expandGrid t q (opJobs h.op - h.made + 1) s

/-- HEAD moves past the record that Tarragon holds (R96), and the lane to the next queue (R114). -/
def advanceHead (s : State) (t q : Nat) : State :=
  (s.modQueue t q fun k => { k with head := k.head + 1 }).modSched t fun k => { k with lane := (q + 1) % 16 }

/-- A decoded record acted on. -/
def actOn (s : State) (t q : Nat) (d : Decoded) : State :=
  match d with
  | .nothing | .waiting => s
  | .fault e => s.streamError t q e true
  | .refused => s.streamError t q 6 true
  | .grid op job =>
    let h : HeldGrid := { op, job, index := (s.queue t q).head, made := 0 }
    (((s.advanceHead t q).modQueue t q fun k => { k with grid := some h })).goOnGrid t q
  | .arm i n => (s.advanceHead t q).armFlag i n
  | .signal i n => (s.advanceHead t q).decFlag i n
  | .nop => s.advanceHead t q

/-- The record at a queue's HEAD decoded and acted on where it is of the expected sort. -/
def decodeAs (s : State) (t q : Nat) (ok : Decoded → Bool) : State :=
  let r := s.decodeHead t q
  if r.2 = .waiting then r.1 else if ok r.2 then r.1.actOn t q r.2 else s

/-- A held GRID could make its next job. -/
def gridCanGo (s : State) (t q : Nat) : Bool :=
  match (s.queue t q).grid with
  | none => false
  | some h =>
    decide (opJobs h.op ≤ h.made) ||
      ((s.freeEntryOf t).isSome && decide (s.outCount t + (s.newNames t (gridEntry q h h.made)).length ≤ 2048))

/-- The queue that a tenant's lane would serve next (R114). -/
def nextQueue (s : State) (t : Nat) : Option Nat :=
  if !s.laneOpen t then none
  else
    ((List.range 16).map fun i => ((s.tenant t).sched.lane + i) % 16).find? fun q =>
      let k := s.queue t q
      s.gridCanGo t q || (k.grid.isNone && k.en && k.head != k.tail)

/-- One turn of a tenant's decode lane; a record that has to be waited for lets the next queue go first. -/
def decodeTurn (s : State) (t : Nat) : State :=
  match s.nextQueue t with
  | none => s
  | some q =>
    if (s.queue t q).grid.isSome then (s.goOnGrid t q).modSched t fun k => { k with lane := (q + 1) % 16 }
    else
      let r := s.decodeHead t q
      if r.2 = .waiting then r.1.modSched t fun k => { k with lane := (q + 1) % 16 } else r.1.actOn t q r.2

/-! ### The communication reserve (R126, R37) -/

/-- READY communication jobs of a tenant (R126). -/
def commDepth (s : State) (t : Nat) : Nat :=
  ((s.pool ++ s.outside).filter fun e => shareOf e == t && recComm (s.event e).record).length

/-- The evaluation of the reserve at a delivery (R126). -/
def evalReserve (s : State) (t : Nat) : State :=
  let k := (s.tenant t).sched
  let depth := s.commDepth t
  let hi := s.cmaxOf t
  let lo := s.cminOf t
  let res := s.reserveOf t
  let r :=
    if k.hiwat.toNat < depth ∧ res < hi then (res + 1, 0)
    else if depth ≤ k.lowat.toNat then
      if max 1 k.shrinkn.toNat ≤ k.shrink + 1 ∧ lo < res then (res - 1, 0) else (res, min (k.shrink + 1) 65535)
    else (res, 0)
  (s.modSched t fun k => { k with res := min hi (max lo r.1), shrink := r.2 }).noteRoles t

/-! ### Placement and delivery (R117, R124, R127, R128) -/

/-- Entries in a core's mailbox. -/
def occupancy (s : State) (c : Nat) : Nat := (s.core c).mailbox.length

/-- A core may take an entry of a job of a kind (R127). -/
def takesJob (s : State) (t : Nat) (comm : Bool) (c : Nat) : Bool :=
  !s.retired c && s.isCommCore t c == comm && decide (s.occupancy c < Config.mailboxDepth)

/-- Runs of `n` cores in one cluster that satisfy a test. -/
def runsIn (n cluster : Nat) (ok : Nat → Bool) : List (List Nat) :=
  ((List.range 8).map fun i => (List.range n).map fun j => 8 * cluster + i + j).filter fun r =>
    r != [] && r.all fun c => decide (c < 8 * cluster + 8) && ok c

/-- What R127 compares of a run: its fullest mailbox, the sum, and the first core. -/
def runCost (s : State) (r : List Nat) : Nat :=
  let occ := r.map s.occupancy
  (occ.foldl max 0 * 1024 + occ.sum) * 64 + r.headD 0

/-- The run of least cost. -/
def bestRun (s : State) : List (List Nat) → Option (List Nat)
  | [] => none
  | r :: rs =>
    match bestRun s rs with
    | none => some r
    | some b => some (if s.runCost r ≤ s.runCost b then r else b)

/-- The best run among some clusters of a tenant, leaving out failed runs where another one qualifies (R127, R268). -/
def chooseRun (s : State) (t : Nat) (rec : List Byte) (clusters : List Nat) (avoid : List (List Nat)) : Option (List Nat) :=
  let all := clusters.flatMap fun k => runsIn (recCores rec) k (s.takesJob t (recComm rec))
  match s.bestRun (all.filter fun r => !avoid.contains r) with
  | some r => some r
  | none => s.bestRun all

/-- Clusters of a tenant, ascending. -/
def clustersOf (s : State) (t : Nat) : List Nat := (List.range 8).filter fun k => s.holdsCluster t k

/-- The runs that a job would take, or none where it cannot be placed (R127). -/
def placeRuns (s : State) (t : Nat) (rec : List Byte) (twin : Bool) (avoid : List (List Nat)) : Option (List (List Nat)) :=
  let ks := s.clustersOf t
  match s.chooseRun t rec ks avoid with
  | none => none
  | some a =>
    if !twin then some [a]
    else (s.chooseRun t rec (ks.filter fun k => k != clusterOf (a.headD 0)) avoid).map fun b => [a, b]

/-- One job in the mailboxes of its cores, whose sleepers wake (R128, R401). -/
def mailJob (s : State) (e : Nat) (rec : List Byte) (runs : List (List Nat)) : State :=
  let n := coresPerBlock (threadsOf rec)
  (runs.zip (List.range runs.length)).foldl (fun s ru =>
    (ru.1.zip (List.range ru.1.length)).foldl (fun s cj =>
      (s.modCore cj.1 fun k => { k with mailbox := k.mailbox ++ [(e, ru.2, cj.2 / n, cj.2 % n)] }).wakeCore cj.1) s) s

/-- Jobs that wait while another one of their tenant and kind is delivered grow older (R124). -/
def ageJobs (s : State) (t : Nat) (comm : Bool) : State :=
  let step := if (s.tenant t).sched.agestep = 0 then 64 else (s.tenant t).sched.agestep.toNat
  ((s.poolOf t).filter fun e => recComm (s.event e).record == comm).foldl (fun s e =>
    s.modEvent e fun k =>
      if k.age + 1 < step then { k with age := k.age + 1 } else { k with age := 0, eprio := min 3 (k.eprio + 1) }) s

/-- A bad job record: the job fails, and its record is owed (R117). -/
def failBadJob (s : State) (e : Nat) : State :=
  let t := shareOf e
  let s := (s.leavePool e).modEvent e fun k => { k with st := .failed }
  s.owe t (bareRecord 0x40 (s.event e).jobid 0)

/-- A job read and delivered, or failed for its record; none where it cannot be placed. A job from outside the pool takes
its place after the others have aged (R124). -/
def deliver (s : State) (t e : Nat) : Option State :=
  let r := s.tarragonRead t (s.event e).desc 128
  match r.2 with
  | .error none => some r.1
  | .error (some _) => some (r.1.failBadJob e)
  | .ok rec =>
    if !recValid rec then some (r.1.failBadJob e)
    else
      let twin := (s.event e).twin || recTwin rec
      match s.placeRuns t rec twin (s.event e).avoid with
      | none => none
      | some runs =>
        if !s.fitsRuns rec runs then some (r.1.failBadJob e)
        else
        let s : State := { r.1 with pool := r.1.pool.erase e, outside := r.1.outside.erase e }
        let s := s.modEvent e fun k =>
          { k with st := .mailed, record := rec, twin, idem := recIdem rec, runs, left := (runs.map (·.length)).sum }
        some ((((s.mailJob e rec runs).ageJobs t (recComm rec)).refillPool t).evalReserve t)

/-- The tenant's pool in the order of delivery (R124). -/
def poolOrder (s : State) (t : Nat) : List Nat :=
  [3, 2, 1, 0].flatMap fun p => (s.poolOf t).filter fun e => (s.event e).eprio == p

/-- The reserve as an evaluation finds it: never below the effective minimum (R125, R126). -/
def holdMinimum (s : State) (t : Nat) : State :=
  if (s.tenant t).sched.res = s.leastReserve t then s
  else (s.modSched t fun k => { k with res := s.leastReserve t }).noteRoles t

/-- One delivery opportunity of a tenant (R124). -/
def deliverTurn (s : State) (t : Nat) : Option State :=
  if !s.laneOpen t || s.poolOf t == [] then none
  else
    let u := s.holdMinimum t
    some (((u.poolOrder t).findSome? fun e => u.deliver t e).getD u)

/-- The record of a restored job that could not be read at the restore, read since (R147). -/
def rereadRecord (s : State) (t : Nat) : State :=
  match (s.pool ++ s.outside).find? fun e => shareOf e == t && (s.event e).record == [] with
  | none => s
  | some e =>
    let r := s.tarragonRead t (s.event e).desc 128
    match r.2 with
    | .ok rec => r.1.modEvent e fun k => { k with record := rec, idem := recIdem rec }
    | .error _ => r.1

/-- VF_STAT.CORESHORT (R129): some ready job could not be placed whatever its cores held. A job whose record has not been
read since a restore does not count (notes/assumptions/27.md). -/
def coreShort (s : State) (t : Nat) : Bool :=
  (s.pool ++ s.outside).any fun e =>
    let k := s.event e
    let homes := (s.clustersOf t).filter fun c => runsIn (recCores k.record) c (fun c => !s.retired c) != []
    shareOf e == t && k.record != [] && (homes == [] || (recComm k.record && s.cmaxOf t == 0) || (k.twin && decide (homes.length < 2)))

/-! ### Retirement (R131) -/

/-- A job of which every part has ended. -/
def canRetire (s : State) (e : Nat) : Bool := (s.event e).st == .running && (s.event e).left == 0

/-- The completion decrement of a job (R115, R131). -/
def completeJob (s : State) (k : EvEntry) : State :=
  if doneOf k = noName then s else s.decFlag (nameIndex (doneOf k)) 1

/-- A job retires: what its cores hold dirty goes home, its entry is freed, and then its event is decremented. -/
def retireJob (s : State) (e : Nat) : State :=
  let k := s.event e
  let s := (k.runs.flatMap fun r => r).foldl (fun s c => s.drainFifo c) s
  { s with events := Map.del e s.events }.completeJob k

/-! ### Event control (R132) -/

/-- EVSTAT's RESULT. -/
def evResult (s : State) (t : Nat) (r : BitVec 4) : State := s.modSched t fun k => { k with evResult := r }

/-- A FAILED job that a name gives. -/
def failedJob (s : State) (t : Nat) (w : Word) : Option Nat :=
  let i := nameIndex w
  if s.localName w && shareOf i == t && !isFlag i && decide (i < 262144) && (s.event i).st == .failed then some i else none

/-- A command of EVCTL on a FAILED job. -/
def onFailed (s : State) (t : Nat) (w : Word) (f : State → Nat → State) : State :=
  match s.failedJob t w with
  | none => s.evResult t 1
  | some e => (f s e).evResult t 0

/-- A FAILED job launched again with ATTEMPT 0, from its record as it now reads (R117, R132); answers whether the command
is complete. -/
def relaunch (s : State) (t e : Nat) : State × Bool :=
  let r := s.tarragonRead t (s.event e).desc 128
  let bad : State := (r.1.owe t (bareRecord 0x40 (s.event e).jobid 0)).evResult t 0
  match r.2 with
  | .error none => (r.1, false)
  | .error (some _) => (bad, true)
  | .ok rec =>
    if !recValid rec then (bad, true)
    else
      (((r.1.modEvent e fun k => { k with attempt := 0, record := rec, rerun := false, avoid := [] }).makeReady e).evResult t 0,
       true)

/-- The EVSUB of a lost subscription sent again (R132). -/
def resub (s : State) (t : Nat) (w : Word) : State :=
  if s.outSubs.any fun o => o.tenant == t && o.name == w && o.lost then
    (({ s with outSubs := s.outSubs.map fun (o : OutSub) =>
        if o.tenant == t && o.name == w then { o with lost := false } else o } : State).sendEvsub t w).evResult t 0
  else s.evResult t 1

/-- A command of EVCTL, by OP and NAME, refused while the tenant is drained (R132); answers whether it is complete. -/
def evCommand (s : State) (t op : Nat) (w : Word) : State × Bool :=
  if (s.tenant t).sched.dstate ≠ 0 then (s.evResult t 3, true)
  else
    match op with
    | 1 => (s.resub t w, true)
    | 2 => (s.onFailed t w fun s e => { s with events := Map.del e s.events }.completeJob (s.event e), true)
    | 3 => (s.onFailed t w fun s e => { s with events := Map.del e s.events }, true)
    | 4 =>
      match s.failedJob t w with
      | none => (s.evResult t 1, true)
      | some e => s.relaunch t e
    | 5 => (if s.localFlag t w then (s.decFlag (nameIndex w) 1).evResult t 0 else s.evResult t 1, true)
    | _ => (s.evResult t 2, true)

/-- A write of EVCTL: a command completes before the next one is accepted (R132). -/
def evctl (s : State) (t op : Nat) (w : Word) : Host.Outcome State Fault Refusal :=
  s.onVf t fun s =>
    let later (s : State) : State := s.modSched t fun k => { k with evctl := k.evctl ++ [(op, w)] }
    if (s.tenant t).sched.evctl != [] then later s
    else
      let r := s.evCommand t op w
      if r.2 then r.1 else later r.1

/-- The oldest EVCTL command under way goes on. -/
def evctlTurn (s : State) (t : Nat) : State :=
  match (s.tenant t).sched.evctl with
  | [] => s
  | (op, w) :: rest =>
    let r := s.evCommand t op w
    if r.2 then r.1.modSched t fun k => { k with evctl := rest } else r.1

end State

/-! ### Decoding -/

/-- A GRID record decoded (R115), or one that stalled going on. -/
def execGrid (tenant : Nat) (queue : Nat) (s : State) : Host.Outcome State Fault Refusal :=
  .next (if s.laneOpen tenant && (s.queue tenant queue).grid.isSome then s.goOnGrid tenant queue
    else s.decodeAs tenant queue fun d => match d with | .grid _ _ => true | _ => false)

/-- An ARM record decoded (R113, R120). -/
def execArm (tenant : Nat) (queue : Nat) (s : State) : Host.Outcome State Fault Refusal :=
  .next (s.decodeAs tenant queue fun d => match d with | .arm _ _ => true | _ => false)

/-- A SIGNAL record decoded (R113). -/
def execSignal (tenant : Nat) (queue : Nat) (s : State) : Host.Outcome State Fault Refusal :=
  .next (s.decodeAs tenant queue fun d => match d with | .signal _ _ => true | _ => false)

/-- A NOP record decoded (R113). -/
def execNopOperator (tenant : Nat) (queue : Nat) (s : State) : Host.Outcome State Fault Refusal :=
  .next (s.decodeAs tenant queue fun d => match d with | .nop => true | _ => false)

/-- A record refused (R114). -/
def execRecordRefused (tenant : Nat) (queue : Nat) (s : State) : Host.Outcome State Fault Refusal :=
  .next (s.decodeAs tenant queue fun d => match d with | .refused => true | _ => false)

/-- A ring read that fails (R97). -/
def execRingReadFault (tenant : Nat) (queue : Nat) (s : State) : Host.Outcome State Fault Refusal :=
  .next (s.decodeAs tenant queue fun d => match d with | .fault _ => true | _ => false)

/-! ### Delivery and retirement -/

/-- One delivery opportunity (R124, R127). -/
def execJobDelivery (tenant : Nat) (s : State) : Host.Outcome State Fault Refusal := .next ((s.deliverTurn tenant).getD s)

/-- A job retires (R131). -/
def execJobRetire (entry : Nat) (s : State) : Host.Outcome State Fault Refusal :=
  .next (if s.canRetire entry then s.retireJob entry else s)

/-! ### Event control (R132) -/

/-- OP 1. -/
def execEvctlResub (tenant : Nat) (name : Word) (s : State) : Host.Outcome State Fault Refusal := s.evctl tenant 1 name

/-- OP 2. -/
def execEvctlRetire (tenant : Nat) (name : Word) (s : State) : Host.Outcome State Fault Refusal := s.evctl tenant 2 name

/-- OP 3. -/
def execEvctlDiscard (tenant : Nat) (name : Word) (s : State) : Host.Outcome State Fault Refusal := s.evctl tenant 3 name

/-- OP 4. -/
def execEvctlRelaunch (tenant : Nat) (name : Word) (s : State) : Host.Outcome State Fault Refusal := s.evctl tenant 4 name

/-- OP 5. -/
def execEvctlSignal (tenant : Nat) (name : Word) (s : State) : Host.Outcome State Fault Refusal := s.evctl tenant 5 name

/-- OP 0 and 6 to 15. -/
def execEvctlInvalid (tenant : Nat) (s : State) : Host.Outcome State Fault Refusal := s.evctl tenant 0 noName

end Sys2Proof.Machine
end

