-- ==== Sys2Proof/Machine/Debug.lean ====
section
/-! DEFINITION. The debug commands of a tenant and the group state image (R271 to R274, R276; notes/assumptions/30.md). -/

namespace Sys2Proof.Machine

/-- Bytes of a group state image (R271). -/
def imageSize : Nat := 0x9000

/-- A condition's code in the image (R271). -/
def condCode : LaneCond → Nat
  | .active => 0
  | .waiting _ | .atEnd _ => 1
  | .held _ _ _ => 2
  | .exited => 3

/-- The resume address of a waiting or held lane (R271). -/
def resumeOf (f : Flow) : LaneCond → Nat
  | .waiting a => a
  | .held _ _ n => n
  | .atEnd lc => ((f.loops.find? fun l => l.lc == lc).map (·.last)).getD 0
  | _ => 0

/-- The level counters of a pattern's position (R271, R303). -/
def levelCounters (p : Pattern) : List Nat :=
  let r := p.levels.foldl (fun (r : Nat × List Nat) lv => (r.1 / max 1 lv.1, r.2 ++ [r.1 % max 1 lv.1])) (p.pos, [])
  (r.2 ++ [0, 0, 0, 0]).take 4

/-- The active loop with an index, if any. -/
def loopAt (f : Flow) (i : Nat) : Option Loop := f.loops.find? fun l => l.lc == i && l.active

/-- The part that holds a quad. -/
def quadPart (f : Flow) (q : Nat) : Option Part := f.parts.find? fun p => p.quads.getLsbD q

namespace State

/-- The parked instruction of a group with its cause (R271). -/
def parkedCapture (s : State) (g : Nat) : Option (Capture × Nat) :=
  let x := s.group g
  let q := (s.tenant x.tenant).fq
  (x.ops.captures.find? fun k => k.parked).map fun k =>
    (k, match q.waiting.find? fun w => w.gid == g && k.records.contains w.seq.toNat with
      | some w => w.cause.toNat
      | none => ((q.owed.find? fun r => r.gid == g && r.parks).map (·.cause.toNat)).getD 0)

/-- The status byte of the image (R271). -/
def imageStatus (s : State) (g : Nat) : Nat :=
  let x := s.group g
  let heldPart (p : Part) : Bool := match p.hold with
    | .run | .loopReady => false
    | _ => true
  if x.iss.stopped.isSome then 4
  else if x.ops.captures.any (·.parked) then 2
  else match x.park with
    | .sage _ _ _ _ _ => 1
    | _ => if x.flow.parts != [] && x.flow.parts.all heldPart then 3 else 0

/-- Bytes 0x0000 to 0x003F of the image. -/
def imageHead (s : State) (g : Nat) : List Byte :=
  let x := s.group g
  let pc := ((minNat (x.flow.parts.map (·.pc)))).getD 0
  let k := s.parkedCapture g
  bytesOf 4 1 ++ bytesOf 1 (x.flow.width / 32) ++ bytesOf 1 x.granules ++ bytesOf 1 x.index ++ bytesOf 1 (g / 16 % 16) ++
    bytesOf 8 (s.jobidOf g).toNat ++ bytesOf 8 pc ++ bytesOf 1 (s.imageStatus g) ++
    bytesOf 1 ((k.map (·.2)).getD 0) ++ bytesOf 6 0 ++ bytesOf 8 ((k.map (·.1.left.toNat)).getD 0) ++ bytesOf 24 0

/-- One row of per-lane words; lanes at or above W read as zero. -/
def laneRow (w : Nat) (f : Nat → Nat) : List Byte :=
  (List.range 64).flatMap fun l => bytesOf 4 (if l < w then f l else 0)

/-- Bytes 0x0040 to 0x033F: predicates, rejoin masks, uniform registers, loops, names, the latch, the slice, formats. -/
def imageUniform (x : Group) : List Byte :=
  let r := x.regs
  let words (n size : Nat) (f : Nat → Nat) : List Byte := (List.range n).flatMap fun i => bytesOf size (f i)
  let name (m : Map Nat) (i : Nat) : Nat := Map.get 255 m i
  words 15 8 (fun i => (Map.get 0 r.p i).toNat) ++ bytesOf 8 0 ++ words 8 8 (fun i => (r.getJ i).toNat) ++
    words 64 4 (fun i => (r.getG i).toNat) ++
    words 3 4 (fun i => ((loopAt x.flow i).map (·.count.toNat)).getD 0) ++ bytesOf 4 0 ++
    words 3 16 (fun i => ((loopAt x.flow i).map fun l => l.start + 2 ^ 64 * l.last).getD 0) ++
    words 16 1 (name r.tile) ++ words 16 1 (name r.acc) ++
    words 3 1 (fun i => ((Map.find r.latchAge i).map fun a => a - 1).getD 255) ++ bytesOf 29 0 ++
    (List.range 8).flatMap (fun q =>
      (((patternOf x q).map levelCounters).getD [0, 0, 0, 0]).flatMap fun n => bytesOf 4 n) ++
    words 8 8 (fun i => (r.getFs i).toNat)

/-- Bytes 0x0340 to 0x0FFF: counters, lanes, generators and the latch. -/
def imageLanes (x : Group) : List Byte :=
  let f := x.flow
  let present (l : Nat) : Bool := decide (l < f.width) && !f.absent.getLsbD (l / 4)
  (List.range 16).flatMap (fun q => bytesOf 8 (((quadPart f q).map (·.pc)).getD 0)) ++
    (List.range 64).flatMap (fun l =>
      bytesOf 1 (if present l then condCode (f.lane l) + (if f.helper.getLsbD l then 4 else 0)
        else if l < f.width then 3 else 0)) ++
    (List.range 64).flatMap (fun l => bytesOf 8 (if present l then resumeOf f (f.lane l) else 0)) ++
    laneRow f.width (fun l => (x.regs.getZ l).toNat) ++
    (List.range 3).flatMap (fun n => laneRow f.width fun l => (x.regs.getL n l).toNat) ++ bytesOf 0x600 0

/-- The group state image (R271). -/
def groupImage (s : State) (g : Nat) : List Byte :=
  let x := s.group g
  s.imageHead g ++ imageUniform x ++ imageLanes x ++
    (List.range 128).flatMap fun n =>
      laneRow x.flow.width fun l => if n < 8 * x.granules then (x.regs.getV n l).toNat else 0

/-- What WRITEIMG loads (R272): vector, uniform and predicate registers and loop counters. -/
def writeImage (x : Group) (bs : List Byte) : Group :=
  let at_ (o n : Nat) : Nat := natOfBytes ((bs.drop o).take n)
  let r := { x.regs with v := [], g := [], p := [], bad := [] }
  let lanes := List.range x.flow.width
  let r := (List.range (8 * x.granules)).foldl (fun (r : Regs) n =>
    let row := (bs.drop (0x1000 + 256 * n)).take 256
    lanes.foldl (fun (r : Regs) l => r.setV n l (BitVec.ofNat 32 (natOfBytes ((row.drop (4 * l)).take 4)))) r) r
  let r := (List.range 64).foldl (fun (r : Regs) n => r.setG n (BitVec.ofNat 32 (at_ (0x100 + 4 * n) 4))) r
  let r := (List.range 15).foldl (fun (r : Regs) n =>
    { r with p := Map.set 0 r.p n (BitVec.ofNat 64 (at_ (0x40 + 8 * n) 8) &&& fullMask x.flow.width) }) r
  let one := fun (l : Loop) => if l.active then { l with count := BitVec.ofNat 32 (at_ (0x200 + 4 * l.lc) 4) } else l
  { x with regs := r, flow := { x.flow with loops := x.flow.loops.map one } }

/-! ### Commands (R272, R276) -/

/-- The group that DBGSEL selects: of the tenant, and of a job unless resident blocks may be selected (R272, R276). -/
def selected (s : State) (t : Nat) (resident : Bool) : Option Nat :=
  let d := (s.tenant t).dbg
  let g := 256 * d.core.toNat + d.entry.toNat
  let x := s.group g
  if s.hasGroup g && x.tenant == t && s.holdsCluster t (clusterOf d.core.toNat) && x.park != .draining &&
      (x.role != .job) == resident then some g
  else none

/-- DBGSTAT.RESULT (R272). -/
def dbgResult (s : State) (t : Nat) (r : BitVec 4) : State := s.modDbg t fun d => { d with result := r }

/-- A command on the selected group; `stopped` says that it asks for a stopped one. -/
def onSelected (s : State) (t : Nat) (resident stopped : Bool) (f : State → Nat → State) : State :=
  match s.selected t resident with
  | none => s.dbgResult t 1
  | some g => if stopped && (s.group g).iss.stopped.isNone then s.dbgResult t 3 else f s g

/-- STOP (R273). -/
def dbgStopCmd (s : State) (t : Nat) (resident : Bool) : State :=
  s.onSelected t resident false fun s g =>
    (s.modIss g fun i => { i with stopAsked := i.stopped.isNone }).dbgResult t 0

/-- STEP (R274). -/
def dbgStepCmd (s : State) (t : Nat) (resident : Bool) : State :=
  s.onSelected t resident true fun s g =>
    let s := match stopPart (s.group g) with
      | some p => if betweenClauses p then s.passBreak g p else s
      | none => s
    (s.modIss g fun i => { i with stopped := none, stepping := 1 }).dbgResult t 0

/-- RESUME (R272). -/
def dbgResumeCmd (s : State) (t : Nat) (resident : Bool) : State :=
  s.onSelected t resident true fun s g => (s.modIss g fun i => { i with stopped := none }).dbgResult t 0

/-- The address in DBGBUF (R272). -/
def bufAddr (d : Debug) : Nat := slice d.buf 56 6 * 64

/-- READIMG or WRITEIMG waits for the host budget or a peer: BUSY (R103, R272). -/
def dbgWait (s : State) (t op : Nat) (resident : Bool) : State :=
  s.modDbg t fun d => { d with busy := true, pending := some (op, resident) }

/-- READIMG (R272). -/
def dbgReadCmd (s : State) (t : Nat) (resident : Bool) : State :=
  s.onSelected t resident true fun s g =>
    let a := bufAddr (s.tenant t).dbg
    let units := s.writeUnits t [(a, imageSize)]
    if units ≠ 0 && !s.affordsHost t units then s.dbgWait t 4 resident
    else
      let w := s.tarragonWrite t 2 a (s.groupImage g)
      if w.1.farOut t 2 then (w.1.dbgResult t (if w.2 then 0 else 2)).dbgWait t 0 resident
      else w.1.dbgResult t (if w.2 then 0 else 2)

/-- WRITEIMG (R272). -/
def dbgWriteCmd (s : State) (t : Nat) (resident : Bool) : State :=
  s.onSelected t resident true fun s g =>
    let r := s.tarragonRead t (bufAddr (s.tenant t).dbg) imageSize
    match r.2 with
    | .error none => r.1.dbgWait t 5 resident
    | .error (some _) => r.1.dbgResult t 2
    | .ok bs => (r.1.onGroup g fun x => writeImage x bs).dbgResult t 0

/-- A READIMG or WRITEIMG that waits goes on; OP 0 stands for an image whose bytes are on their way. -/
def debugTurn (s : State) (t : Nat) : State :=
  let calm (s : State) : State := s.modDbg t fun d => { d with busy := false, pending := none }
  match (s.tenant t).dbg.pending with
  | none => s
  | some (4, r) => (calm s).dbgReadCmd t r
  | some (5, r) => (calm s).dbgWriteCmd t r
  | some (_, _) =>
    if s.farOut t 2 then s
    else
      let r := (calm s).farFailed t 2
      if r.2 then r.1.dbgResult t 2 else r.1

/-- A command of DBGCMD with GO 1 (R272); one that comes while BUSY is 1 is discarded (notes/assumptions/30.md). -/
def debugCommand (s : State) (t op : Nat) (resident : Bool) : State :=
  if (s.tenant t).dbg.busy then s
  else
  match op with
  | 1 => s.dbgStopCmd t resident
  | 2 => s.dbgStepCmd t resident
  | 3 => s.dbgResumeCmd t resident
  | 4 => s.dbgReadCmd t resident
  | 5 => s.dbgWriteCmd t resident
  | _ => s.dbgResult t 2

/-- DBGSTAT as it reads (R272). -/
def dbgStat (s : State) (t : Nat) (resident : Bool) : Nat :=
  let d := (s.tenant t).dbg
  let cause := ((s.selected t resident).bind fun g => (s.group g).iss.stopped).getD 0
  (if d.busy then 1 else 0) + 2 * d.result.toNat + 2 ^ 8 * cause

/-- The clause of a STEP is still under way: its part may issue, or waits at a barrier that its group has reached
(R274). -/
def stepOn (x : Group) : Bool :=
  x.flow.parts.any fun p => stepsIn x p &&
    (partReady x p || (x.flow.whole && match p.hold with | .bsync _ | .csync _ => true | _ => false))

/-- The clause of a STEP has ended, or its part has faulted: the group waits as at a switch marker (R274). -/
def noteStep (s : State) (g : Nat) : State :=
  if (s.group g).iss.stepping = 2 ∧ !stepOn (s.group g) then (s.modIss g fun i => { i with stepping := 3 }).parkSwitch g
  else s

/-- A STEP that has ended, with its results written, ends in a stop (R274). -/
def endStep (s : State) (g : Nat) : State :=
  let s := s.noteStep g
  if (s.group g).iss.stepping = 3 ∧ (s.group g).park = .none ∧ !(s.group g).iss.sw then s.stopGroup g 5 else s

end State

/-- STOP. -/
def execDbgStop (tenant : Nat) (s : State) : Host.Outcome State Fault Refusal :=
  s.onVf tenant fun s => s.dbgStopCmd tenant false

/-- STEP. -/
def execDbgStep (tenant : Nat) (s : State) : Host.Outcome State Fault Refusal :=
  s.onVf tenant fun s => s.dbgStepCmd tenant false

/-- RESUME. -/
def execDbgResume (tenant : Nat) (s : State) : Host.Outcome State Fault Refusal :=
  s.onVf tenant fun s => s.dbgResumeCmd tenant false

/-- READIMG. -/
def execDbgReadimg (tenant : Nat) (s : State) : Host.Outcome State Fault Refusal :=
  s.onVf tenant fun s => s.dbgReadCmd tenant false

/-- WRITEIMG. -/
def execDbgWriteimg (tenant : Nat) (s : State) : Host.Outcome State Fault Refusal :=
  s.onVf tenant fun s => s.dbgWriteCmd tenant false

/-- OP 0 and 6 to 15. -/
def execDbgInvalid (tenant : Nat) (s : State) : Host.Outcome State Fault Refusal :=
  s.onVf tenant fun s => s.dbgResult tenant 2

end Sys2Proof.Machine
end

