-- ==== Sys2Proof/Machine/Regroup.lean ====
section
/-! DEFINITION. Regrouping at marked branches (R162, R163; notes/assumptions/31.md). -/

namespace Sys2Proof.Machine

/-- The regroup clause at which a part is held. -/
def regroupClause (p : Part) : Option Nat :=
  match p.hold with
  | .regroup c => some c
  | _ => none

/-- The part that holds a quad at a regroup clause. -/
def regroupPart (f : Flow) (clause q : Nat) : Option Part :=
  f.parts.find? fun p => p.quads.getLsbD q && p.hold == .regroup clause

/-- A pair of a target and a place in the order of groups, put in order (R163). -/
def insertTarget (x : Nat × Nat) : List (Nat × Nat) → List (Nat × Nat)
  | [] => [x]
  | y :: ys => if x.1 < y.1 ∨ (x.1 = y.1 ∧ x.2 < y.2) then x :: y :: ys else y :: insertTarget x ys

/-- For one home position, the old group that supplies it to each new group (R163): the quads held at the clause by
ascending target and old group, then the others by ascending old group. -/
def quadSources (xs : List Group) (clause q : Nat) : List Nat :=
  let n := xs.length
  let target (i : Nat) : Option Nat := (regroupPart ((xs.getD i Group.init).flow) clause q).map (·.pc)
  let held := (List.range n).foldl (fun o i =>
    match target i with
    | some a => insertTarget (a, i) o
    | none => o) []
  held.map (·.2) ++ (List.range n).filter fun i => (target i).isNone

/-- A map whose keys are 64 × number + lane, gathered lane by lane. -/
def gatherLanes {α : Type} (maps : List (Map α)) (src : Nat → Nat) : Map α :=
  (List.range maps.length).foldl (fun (m : Map α) i =>
    (maps.getD i []).foldl (fun (m : Map α) e => if src (e.1 % 64) = i then Map.put e.1 e.2 m else m) m) []

/-- Lane masks gathered quad by quad. -/
def gatherMasks (maps : List (Map Lanes)) (n : Nat) (src : Nat → Nat) : Map Lanes :=
  (List.range n).foldl (fun (m : Map Lanes) k =>
    let v := (List.range 16).foldl (fun (v : Lanes) q => v ||| (Map.get 0 (maps.getD (src q) []) k &&& quadMask q)) 0
    Map.set 0 m k v) []

/-- A lane mask gathered quad by quad. -/
def gatherMask (ms : List Lanes) (src : Nat → Nat) : Lanes :=
  (List.range 16).foldl (fun (v : Lanes) q => v ||| (ms.getD (src q) 0 &&& quadMask q)) 0

/-- The parts of a new group (R163): quads that were repacked run at their targets, others stay as they were. -/
def gatherParts (xs : List Group) (clause width : Nat) (src : Nat → Nat) : List Part :=
  (List.range (width / 4)).foldl (fun ps q =>
    let f := (xs.getD (src q) Group.init).flow
    match f.parts.find? fun p => p.quads.getLsbD q with
    | none => ps
    | some p =>
      let proto : Part := if p.hold = .regroup clause then { quads := 0, pc := p.pc, clause := none, hold := .run } else p
      Flow.joinPart q proto ps) []

/-- New group `i` (R163): lane state moves with its quad; uniform state comes from the group that supplies quad 0; the
entry, the index and what the group has counted stay. -/
def newGroupOf (xs : List Group) (clause i : Nat) : Group :=
  let old := xs.getD i Group.init
  let src (q : Nat) : Nat := (quadSources xs clause q).getD i i
  let lane (l : Nat) : Nat := src (l / 4)
  let lead := xs.getD (src 0) Group.init
  let absent := (List.range 16).foldl (fun (m : BitVec 16) q =>
    m ||| ((xs.getD (src q) Group.init).flow.absent &&& BitVec.ofNat 16 (2 ^ q))) 0
  let bad := (List.range xs.length).flatMap fun j => (xs.getD j Group.init).regs.bad.filter fun k =>
    if 64 * 128 ≤ k ∧ k < 64 * 192 then src 0 == j else lane (k % 64) == j
  let regs :=
    { lead.regs with
      v := gatherLanes (xs.map (·.regs.v)) lane
      z := gatherLanes (xs.map (·.regs.z)) lane
      p := gatherMasks (xs.map (·.regs.p)) 15 src
      j := gatherMasks (xs.map (·.regs.j)) 8 src
      latch := [], latchAge := [], bad := bad.foldl (fun b k => insertNat k b) [] }
  let flow :=
    { old.flow with
      helper := gatherMask (xs.map (·.flow.helper)) src
      absent
      cond := gatherLanes (xs.map (·.flow.cond)) lane
      parts := gatherParts xs clause old.flow.width src
      loops := [] }
  { old with regs, flow, slice := lead.slice }

namespace State

/-- Groups of a part that have not exited, in ascending index. -/
def livingGroups (s : State) (b : Block) : List Nat := b.groups.filter fun g => (s.group g).park != .draining

/-- The clause that would be repacked: every part of every living group is held at a regroup point (R162). -/
def repackClause (s : State) (b : Block) : Option Nat :=
  let ps := (s.livingGroups b).flatMap fun g => (s.group g).flow.parts
  if ps = [] ∨ ps.any (fun p => (regroupClause p).isNone) ∨ b.dead then none else minNat (ps.filterMap regroupClause)

/-- Nothing that a group issued is outstanding (R162 step 3). -/
def quiet (s : State) (g : Nat) : Bool :=
  let x := s.group g
  let k := s.core (coreOf g)
  x.ops.pend.all (fun p => p.missing == 0) && x.ops.tagged == [] && x.ops.deltas == 0 && x.ops.captures == [] &&
    (k.copies.all fun y => y.gid != g) && k.store.all fun e => e.gid != g

/-- What makes a repack illegal (R163). -/
def repackIllegal (xs : List Group) : Bool :=
  (xs.any fun x => x.granules != (xs.headD Group.init).granules) || (xs.any fun x => x.flow.loops.any (·.active)) ||
    xs.any fun x => x.slice.queues.any fun q => q.2 != []

/-- The repack of a block part at its lowest regroup clause (R162, R163). -/
def repack (s : State) (key : Nat) : State :=
  match s.block? key with
  | none => s
  | some b =>
    match s.repackClause b with
    | none => s
    | some clause =>
      let gs := (s.livingGroups b).filter fun g => (s.group g).flow.parts.any fun p => p.hold == .regroup clause
      let s := gs.foldl (fun s g => ((((s.drainGroup g).flushPend g).dropDone g).reportErrs g fun _ => true).reportCopies g
        fun _ => true) s
      if !gs.all s.quiet || (s.block? key).all (·.dead) || gs.any fun g => (s.group g).park == .wait .record then s
      else
        let xs := gs.map s.group
        if repackIllegal xs then
          s.trapNow (gs.headD 0) 0x29 (s.group (gs.headD 0)).flow.living clause 0
        else
          let s := (List.range gs.length).foldl (fun s i => s.setGroup (gs.getD i 0) (newGroupOf xs clause i)) s
          gs.foldl (fun s g =>
            let s := s.noteExit g
            if (s.group g).park = .draining ∧ s.drained g then s.endDrain g else s) s

end State

/-- The repack of a block part (R162, R163). -/
def execRegroupRepack (block : Nat) (s : State) : Host.Outcome State Fault Refusal := .next (s.repack block)

end Sys2Proof.Machine
end

