-- ==== Sys2Proof/Machine/Clauses.lean ====
section
/-! DEFINITION. How a group comes to issue an instruction: clause starts, promotion, replays, results, and the events of
cores and groups (R155, R160, R164, R171, R191, R192, R258, R273, R291, R293, R315, R362, R401). -/

namespace Sys2Proof.Machine

namespace State

/-! ### The part that issues (R160) -/

/-- The clause of a part that stands between clauses is started (R293). -/
def startNext (s : State) (g : Nat) : State :=
  match issuePart (s.group g) with
  | none => s
  | some p => if betweenClauses p then s.startClause g p else s

/-- The instruction that a part issues next: what Step hands to `exec`. -/
def issueOf (x : Group) (g : Nat) (p : Part) : Option (Issue × Instr) :=
  match p.clause with
  | none => none
  | some c =>
    match c.instrs[c.idx]? with
    | none => none
    | some i =>
      some ({ gid := g, quads := p.quads, active := x.flow.active &&& quadLanes p.quads, clause := c.addr, next := c.next,
              rgp := c.rgp, idx := c.idx, replay := none, adv := .next
              yld := c.yld && decide (c.instrs.length ≤ c.idx + 1) }, i)

/-! ### Replays (R257, R258, R424) -/

/-- A replay that is due begins: KILLED where a record was resolved with KILL, the fetch again for a faulted fetch, and
otherwise the instruction with its captured operands issues next. -/
def beginReplay (s : State) (g : Nat) : State :=
  match replayDue (s.group g) with
  | none => s
  | some k =>
    if k.kill then (s.dropCapture g k.id).trapNow g 0x2E k.part k.clause k.idx
    else if k.fetch then s.dropCapture g k.id
    else
      let at_ := (((s.group g).flow.partOf? k.quads).bind fun p => p.clause).filter fun x => x.addr == k.clause
      { s with cur := some { gid := g, quads := k.quads, active := k.left, clause := k.clause,
                             next := (at_.map (·.next)).getD 0, rgp := (at_.map (·.rgp)).getD false, idx := k.idx,
                             replay := some k, adv := .next } }

/-! ### Promotion and yields (R155, R315) -/

/-- One clk of a sector (R155, R315): ready groups that do not issue count up, and are promoted at 16; groups that have
yielded wait for one group less. `who` is chosen: its count restarts once it has issued. -/
def tickGroup (s : State) (who : Option Nat) (g : Nat) : State :=
  let x := s.group g
  let s :=
    match x.park with
    | .yield others left =>
      let rest := others.filter fun h => some h != who && s.hasGroup h
      s.onGroup g fun y => { y with park := .yield (if left ≤ 1 then [] else rest) (left - 1) }
    | _ => s
  let s := if x.iss.yielded then s.modIss g fun i => { i with yielded := false } else s
  if some g != who && s.groupReady g then
    let s := s.modIss g fun i => { i with promo := min 16 (i.promo + 1) }
    if (s.group g).iss.promo = 16 then s.promote g else s
  else s

/-- The groups of a sector, the earliest-placed first: groups promoted in one clk are in this order (R155). -/
def placedOrder (s : State) (sec : Nat) : List Nat :=
  let placed (g : Nat) : Nat := (s.group g).iss.placed
  (s.sectorGroups sec).foldl (fun gs g =>
    (gs.takeWhile fun h => placed h ≤ placed g) ++ g :: gs.dropWhile fun h => placed h ≤ placed g) []

/-! ### Bank roles (R191) -/

/-- The role of a bank on a core that holds no job part. -/
def idleRole (s : State) (c k : Nat) : Nat := if s.rolesSet c then roleOf (s.core c).bankrole k else 0

/-- A new value of %bankrole and a change of the core's role take effect (R191). -/
def applyRoles (s : State) (c : Nat) : State :=
  let new := s.modCore c fun k =>
    { k with bankrole := (k.bankroleNew.map (·.1)).getD k.bankrole, bankroleNew := none
             comm := k.comm != k.roleChange, roleChange := false }
  let moved := (List.range 32).filter fun k => s.idleRole c k != new.idleRole c k
  if moved = [] then new
  else
    let s := if moved.any fun k => s.idleRole c k == 0 then s.shedL1 c else s
    let s := s.setCore c { s.core c with bankrole := (new.core c).bankrole, bankroleNew := none,
                                         comm := (new.core c).comm, roleChange := false }
    moved.foldl (fun s k => s.wipeRange (spadPlace c (65536 * k)) (spadPlace c (65536 * (k + 1)))) s

/-- The moment of R191 has come for a core. -/
def rolesDue (s : State) (c : Nat) : Bool :=
  s.rolesPending c && s.blocksOn c == []

/-! ### Copies (R192, R207, R362) -/

/-- The next destination line of a copy. -/
def copyLine (k : Copy) : Option Nat := (k.segs.head?).map fun g => g.dst / 64

/-- `n` destination lines of a core's k-th copy are written, while it lasts. -/
def writeLines (s : State) (c id : Nat) : Nat → State
  | 0 => s
  | n + 1 =>
    match ((s.core c).copies.find? fun k => k.id == id).bind copyLine with
    | none => s
    | some line => (s.writeLine c id line).writeLines c id n

end State

/-! ### Events -/

/-- A clause starts: stops, fetch, decode, WAIT (R273, R279, R293). -/
def execClauseStart (gid : Nat) (s : State) : Host.Outcome State Fault Refusal :=
  .next (if s.groupReady gid ∧ !State.replayNext (s.group gid) then s.startNext gid else s)

/-- A ready group's count reaches 16 (R155). -/
def execGroupPromotion (gid : Nat) (s : State) : Host.Outcome State Fault Refusal :=
  .next (if s.groupReady gid then (s.modIss gid fun i => { i with promo := 16 }).promote gid else s)

/-- The k-th outstanding result of a group is written in some lanes (R291). -/
def execResultWriteback (gid : Nat) (k : Nat) (lanes : Lanes) (s : State) : Host.Outcome State Fault Refusal :=
  .next (match (s.group gid).ops.pend[k]? with
    | none => s
    | some p => s.writePend gid p.id lanes)

/-- 16 clk after YIELD (R315). -/
def execYieldExpiry (gid : Nat) (s : State) : Host.Outcome State Fault Refusal :=
  .next (match (s.group gid).park with
    | .yield _ _ => s.onGroup gid fun x => { x with park := .none }
    | _ => s)

/-- 4,096 clk after SLEEP (R401). -/
def execSleepTimeout (gid : Nat) (s : State) : Host.Outcome State Fault Refusal :=
  .next (if (s.group gid).park = .sleep then s.onGroup gid fun x => { x with park := .none } else s)

/-- A draining group's operations are complete (R164). -/
def execGroupDrainEnd (gid : Nat) (s : State) : Host.Outcome State Fault Refusal :=
  .next (if s.hasGroup gid ∧ (s.group gid).park = .draining then
      let t := (s.reportErrs gid fun _ => true).reportCopies gid fun _ => true
      if (t.group gid).park = .draining ∧ t.drained gid then t.endDrain gid else t
    else s)

/-- The engine reads one element ahead (R171). -/
def execAccessEngineRead (gid : Nat) (queue : BitVec 2) (s : State) : Host.Outcome State Fault Refusal :=
  .next (if s.hasGroup gid ∧ (s.group gid).slice.unread = none then s.engineFetch gid queue.toNat else s)

/-- An engine writes some lines of a copy (R192, R207, R362). -/
def execAsyncCopyWrite (core : Nat) (k : Nat) (count : Nat) (s : State) : Host.Outcome State Fault Refusal :=
  .next (match (s.core core).copies[k]? with
    | none => s
    | some y => s.writeLines core y.id (min count y.segs.length))

/-- New bank roles take effect (R191). -/
def execBankroleApply (core : Nat) (s : State) : Host.Outcome State Fault Refusal :=
  .next (if s.rolesDue core then s.applyRoles core else s)

/-- A replay begins: the group's parked instruction issues next with its captured operands (R258). -/
def execGroupReplay (gid : Nat) (s : State) : Host.Outcome State Fault Refusal :=
  .next (if s.cur.isNone ∧ (s.group gid).iss.stopped.isNone ∧ State.replayNext (s.group gid) then s.beginReplay gid else s)

end Sys2Proof.Machine
end

