-- ==== Sys2Proof/Machine/Sorrel.lean ====
section
/-! DEFINITION. Sorrel: slot ownership, commits, and the boundary between iterations (R111, R134 to R140). -/

namespace Sys2Proof.Machine

/-- A slot that waits for tokens: PREFILL or DECODE (R136). -/
def Slot.live (k : Slot) : Bool := k.st == 1 || k.st == 2

/-- The live record of a slot as SOR_RIMG shows it (R136). -/
def Slot.words (k : Slot) : List Nat :=
  [k.reqid.toNat,
   k.deadline.toNat * 2 ^ 32 + k.pos % 2 ^ 24 * 2 ^ 8 + (if k.fin then 32 else 0) + (if k.late then 16 else 0) +
     (if k.prior then 8 else 0) + k.st,
   k.grem % 2 ^ 32 * 2 ^ 32 + k.prem % 2 ^ 32,
   k.ctx.toNat]

namespace State

/-- A slot's new live record. -/
def setSlot (s : State) (n : Nat) (k : Slot) : State := { s with slots := Map.set Slot.init s.slots n k }

/-! ### Reports (R139 step 1) -/

/-- A report taken into a slot. -/
def takeReport (k : Slot) (rep : Nat) : Slot :=
  let pre := k.st == 1
  let n := min (rep % 2 ^ 16) (if pre then k.prem else k.grem)
  let k := if pre then { k with prem := k.prem - n } else { k with grem := k.grem - n }
  let k := { k with pos := k.pos + n }
  let k := if k.st = 1 ∧ k.prem = 0 then { k with st := 2 } else k
  if rep / 2 ^ 16 % 2 = 1 ∨ (k.st = 2 ∧ k.grem = 0) then { k with st := 4, fin := true } else k

/-- The address of a slot's report word (R140). -/
def reportAddr (s : State) (t n : Nat) : Nat := slice (s.tenant t).sor.repbase 56 12 * 4096 + 8 * n

/-- The clear of one report word at a peer, whose answer says whether the word can be cleared (R139). -/
def clearReport (s : State) (t n : Nat) : State :=
  match s.tarragonPlan t (s.reportAddr t n) 8 true with
  | .error _ => s
  | .ok ps => (ps.filter fun p => (farLines [p]).any fun l => !(s.tenant t).farBad.contains l).foldl
      (fun s p => s.putPiece t (16 + n) p.1 (bytesOf p.2.2 0)) s

/-- The report of one slot of the manifest read and cleared. A word at a peer has been read and cleared, or one of the two
has failed, and it counts as missing. -/
def readReport (s : State) (t n : Nat) : State :=
  let miss (s : State) : State := s.modSor t fun k => { k with missrep := min (k.missrep + 1) 65535 }
  match s.tarragonPlan t (s.reportAddr t n) 8 true with
  | .error _ => miss s
  | .ok ps =>
    if (s.tenant t).farFail.contains (16 + n) || (farLines ps).any fun l => (s.tenant t).farBad.contains l then miss s
    else
      let s := s.chargeUnits t (2 * s.planUnits t ps)
      let r := s.takePieces t ps
      let rep := natOfBytes r.2
      let s := (ps.filter fun p => farLines [p] == []).foldl (fun s p => s.putPiece t 0 p.1 (bytesOf p.2.2 0)) r.1
      if rep / 2 ^ 31 % 2 = 0 then miss s else s.setSlot n (takeReport (s.slot n) rep)

/-! ### Commands (R137, R139 step 2) -/

/-- A command's effect on a slot; none where it is ignored. -/
def command (k : Slot) (c : Image) : Option Slot :=
  let dl : Word := BitVec.ofNat 32 (slice c.w1 63 32)
  let prompt := slice c.w2 31 0
  let maxnew := slice c.w2 63 32
  if slice c.w1 31 4 ≠ 0 then none
  else
    match slice c.w1 3 0 with
    | 0 => some k
    | 1 =>
      if k.st ≠ 0 ∨ maxnew = 0 ∨ 2 ^ 24 ≤ prompt + maxnew then none
      else
        some { k with reqid := c.w0, deadline := dl, ctx := c.w3, prem := prompt, grem := maxnew, pos := 0, fin := false,
                      late := false, st := if prompt = 0 then 2 else 1 }
    | 2 => if k.live then some { k with prior := k.st == 2, st := 3 } else none
    | 3 => if k.st = 3 then some { k with st := if k.prior then 2 else 1 } else none
    | 4 => if k.live ∨ k.st = 3 then some { k with st := 4, fin := false } else none
    | 5 => if k.st = 4 then some { k with st := 0 } else none
    | 6 => if k.st ≠ 0 then some { k with deadline := dl } else none
    | _ => none

/-- One shadow version taken. -/
def takeVersion (s : State) (t : Nat) (v : Nat × Image) : State :=
  match command (s.slot v.1) v.2 with
  | some k => s.setSlot v.1 k
  | none => s.modSor t fun k => { k with igncmd := min (k.igncmd + 1) 65535 }

/-! ### Selection and the manifest (R139 steps 3 and 4, R140) -/

/-- A slot put in its place: ascending by deadline, then by slot number. -/
def insertSlot (x : Nat × Nat) : List (Nat × Nat) → List (Nat × Nat)
  | [] => [x]
  | y :: ys => if x.1 < y.1 ∨ (x.1 = y.1 ∧ x.2 < y.2) then x :: y :: ys else y :: insertSlot x ys

/-- Slots selected with their tokens, from those left and the budget left. -/
def selectSlots (s : State) (chunk : Nat) : List Nat → Nat → List (Nat × Nat)
  | [], _ => []
  | n :: ns, b =>
    if b = 0 then []
    else
      let k := s.slot n
      let tok := if k.st = 2 then 1 else min k.prem (min chunk b)
      (n, tok) :: selectSlots s chunk ns (b - tok)

/-- The slots of a tenant with a record that is not FREE, ascending. -/
def slotsOf (s : State) (t : Nat) : List Nat := (Map.keys s.slots).filter fun n => s.slotOwner n == some t

/-- The words of a manifest. -/
def manifest (s : State) (iter : Word) (sel : List (Nat × Nat)) : List Nat :=
  [iter.toNat + sel.length % 2 ^ 13 * 2 ^ 32, (sel.map (·.2)).sum % 2 ^ 32, 0, 0] ++
    sel.flatMap fun e =>
      let k := s.slot e.1
      [e.1 % 2 ^ 12 + (if k.st = 2 then 2 ^ 12 else 0) + e.2 % 2 ^ 16 * 2 ^ 16 + k.pos % 2 ^ 24 * 2 ^ 32, k.ctx.toNat]

/-- The manifest's words written; the result counts those that could not be (R139). -/
def writeManifest (s : State) (t a : Nat) (ws : List Nat) : State × Nat :=
  (ws.zip (List.range ws.length)).foldl (fun (r : State × Nat) w =>
    let q := r.1.tarragonWrite t 0 (a + 8 * w.2) (bytesOf 8 w.1)
    (q.1, if q.2 then r.2 else r.2 + 1)) (s, 0)

/-- The pieces of the report words that a boundary reads, those of a line at a peer that has failed apart. -/
def reportPieces (s : State) (t : Nat) : List (Loc × Nat × Nat) :=
  ((s.tenant t).sor.sel.flatMap fun n => (s.tarragonPlan t (s.reportAddr t n) 8 true).toOption.getD []).filter fun p =>
    !(farLines [p]).any fun l => (s.tenant t).farBad.contains l

/-- The manifest of the next iteration begins here (R140). -/
def manifestAddr (k : Sorrel) : Nat := slice k.manbase 56 12 * 4096 + 0x20000 * ((k.iter + 1).toNat % 2)

/-- The accesses of a boundary, once its reports' lines have come and those at peers are cleared (R139 steps 1 to 4). The
registers are those that stand at this moment (R134; notes/assumptions/62.md). -/
def boundaryRun (s : State) (t : Nat) (ps : List (Loc × Nat × Nat)) : State :=
  let k0 := (s.tenant t).sor
  let s := (k0.sel.foldl (fun s n => s.readReport t n) s).dropFar t ps
  let s := s.modTenant t fun k => { k with farBad := [], farFail := k.farFail.filter fun u => decide (u < 16) }
  let s := k0.snap.foldl (fun s v => s.takeVersion t v) s
  let iter := k0.iter + 1
  let s := (s.slotsOf t).foldl (fun s n =>
    let k := s.slot n
    if k.live ∧ k.deadline.toNat < iter.toNat then s.setSlot n { k with late := true } else s) s
  let order := ((s.slotsOf t).filter fun n => (s.slot n).live).foldl
    (fun o n => insertSlot ((s.slot n).deadline.toNat, n) o) []
  let sel := s.selectSlots (max 1 (slice k0.cfg 31 16)) (order.map (·.2)) (slice k0.cfg 15 0)
  let s := s.modSor t fun k => { k with live := sel.length, sel := sel.map (·.1), snap := [], wrote := true, clears := false }
  let w := s.writeManifest t (manifestAddr k0) (s.manifest iter sel)
  w.1.modSor t fun k => { k with manflt := w.2 != 0 }

/-- The boundary's accesses are complete: it ends (R138, R139). A write that a peer has refused is one that faults. -/
def boundaryClose (s : State) (t : Nat) : State :=
  let r := s.farFailed t 0
  let flt := r.2 || (s.tenant t).sor.manflt
  let s := r.1.modSor t fun k => { k with iter := k.iter + 1, under := false, wrote := false, manflt := flt }
  if flt then s.signal (t + 1) 1 else s

/-- The clears of report words at peers are sent, once (R139). -/
def sendClears (s : State) (t : Nat) (ps : List (Loc × Nat × Nat)) : State :=
  let k := (s.tenant t).sor
  if k.clears || farLines ps == [] then s
  else (k.sel.foldl (fun s n => s.clearReport t n) s).modSor t fun k => { k with clears := true }

/-- A clear of a report word is still to be answered. -/
def clearsOut (s : State) (t : Nat) : Bool :=
  s.fab.tags.any fun k => match k.2.errand with | .farWrite u use => u == t && decide (16 ≤ use) | _ => false

/-- The boundary that closes the current iteration (R139): it waits for what it reads and clears at peers, for the host
budget that its accesses cost (R103), and for its writes at peers. -/
def boundaryEnd (s : State) (t : Nat) : State :=
  let k := (s.tenant t).sor
  let ps := s.reportPieces t
  let done (s : State) : State := if s.farOut t 0 then s else s.boundaryClose t
  if k.wrote then done s
  else if (farLines ps).any fun l => (Map.find (s.tenant t).far l).isNone then s.askFar t ps
  else
    let s := s.sendClears t ps
    let u := s.boundaryRun t ps
    let units := hostSpent s u t
    if s.clearsOut t || (units ≠ 0 && !s.affordsHost t units) then s else done u

/-! ### Commits and ownership (R111, R135) -/

/-- A write of GO to SOR_WCMT. -/
def commitSlot (s : State) (t n : Nat) : State :=
  if s.slotOwner n ≠ some t then s.modSor t fun k => { k with wsResult := 1 }
  else
    let k := (s.tenant t).sor
    let s := { s with shadow := Map.put n k.img s.shadow }
    s.modSor t fun k => { k with wsResult := 0, wsIter := k.iter + if k.under then 2 else 1 }

/-- The owner field of a block. -/
def ownerField (v : Word) (b : Nat) : Nat := slice v (4 * b + 3) (4 * b)

/-- A write of SOR_OWNER (R111). -/
def writeOwner (s : State) (v : Word) : State :=
  let moved := (List.range 8).filter fun b => ownerField v b != ownerField s.sorOwner b
  let idle (o : Nat) : Bool := decide (8 ≤ o) || (s.tenant o).st == .disabled
  if moved.all fun b => idle (ownerField v b) && idle (ownerField s.sorOwner b) then
    { s with
      sorOwner := v
      slots := s.slots.filter fun e => !moved.contains (e.1 / 512)
      shadow := s.shadow.filter fun e => !moved.contains (e.1 / 512) }
  else s

end State

/-- A write of SOR_OWNER. -/
def execSorOwnerWrite (value : Word) (s : State) : Host.Outcome State Fault Refusal :=
  .next (if s.hostUp then s.writeOwner value else s)

/-- A commit (R135). -/
def execSorWcmt (tenant : Nat) (slot : BitVec 12) (s : State) : Host.Outcome State Fault Refusal :=
  s.onVf tenant fun s => s.commitSlot tenant slot.toNat

/-- A boundary under way ends (R138, R139). -/
def execSorrelBoundary (tenant : Nat) (s : State) : Host.Outcome State Fault Refusal :=
  .next (if tenant < 8 ∧ (s.tenant tenant).sor.under = true then s.boundaryEnd tenant else s)

end Sys2Proof.Machine
end

