-- ==== Sys2Proof/Machine/Drain.lean ====
section
/-! DEFINITION. The pre-emption drain: its states, the watchdog, the save area and the restore (R142 to R147, R270;
notes/assumptions/28.md). -/

namespace Sys2Proof.Machine

/-- The code of an entry's state (R120). -/
def EvState.code : EvState → Nat
  | .free => 0
  | .armed => 1
  | .fired => 2
  | .waiting => 3
  | .ready => 4
  | .mailed => 5
  | .running => 6
  | .failed => 7

/-- The state of a saved code; codes that a save does not produce are FREE. -/
def EvState.ofCode : Nat → EvState
  | 1 => .armed
  | 2 => .fired
  | 3 => .waiting
  | 4 => .ready
  | 7 => .failed
  | _ => .free

namespace State

/-- DSTATE (R142). -/
def setDstate (s : State) (t d : Nat) : State := s.modSched t fun k => { k with dstate := d }

/-- Entries of a tenant's share. -/
def entriesOf (s : State) (t : Nat) : List (Nat × EvEntry) := s.events.filter fun e => shareOf e.1 == t

/-- The drain begins (R142): MAILED jobs return, and every core starts its watchdog. -/
def startDrain (s : State) (t : Nat) : State :=
  let s := s.modSched t fun k => { k with dstate := 1, killed := 0 }
  let s := ((s.entriesOf t).filter fun e => e.2.st == .mailed).foldl (fun s e => s.unmail e.1) s
  (s.clusterCores t).foldl (fun s c => s.modCore c fun k => { k with watchdog := true }) s

/-- Watchdogs of a tenant stop. -/
def stopWatchdogs (s : State) (t : Nat) : State :=
  (s.clusterCores t).foldl (fun s c => s.modCore c fun k => { k with watchdog := false }) s

/-- The watchdog's kill of one job that runs a part on a core: at once, be its record written now or owed (R143, R251,
R270). The record names the lowest group of the part that has not exited, else its lowest (notes/assumptions/28.md). -/
def watchdogKill (s : State) (b : Block) : State :=
  let s := s.modSched b.tenant fun k => { k with killed := min (k.killed + 1) 255 }
  let s := match (b.groups.filter fun g => (s.group g).park != .draining) ++ b.groups with
    | [] => s
    | g :: _ =>
      let pc := match (s.group g).flow.parts.head? with
        | some (p : Part) => (p.clause.map Clause.addr).getD p.pc
        | none => 0
      s.recordNow g (s.plainTrap g 0x34 (s.group g).flow.living pc 0 0)
  s.killCohort b.job false

/-- A core's watchdog expires (R143). -/
def watchdogExpires (s : State) (c : Nat) : State :=
  if !(s.core c).watchdog then s
  else
    let s := s.modCore c fun k => { k with watchdog := false }
    (s.blocksOn c).foldl (fun s b =>
      match s.block? b.1 with
      | none => s
      | some k => if !k.dead && !k.ended && (s.tenant k.tenant).sched.dstate == 1 then s.watchdogKill k else s) s

/-- No job of the tenant is RUNNING, and none of its groups is draining (R142). -/
def drainQuiet (s : State) (t : Nat) : Bool :=
  ((s.entriesOf t).all fun e => e.2.st != .running && e.2.st != .mailed) &&
    (s.blocks.all fun b => b.2.tenant != t)

/-! ### The save area (R146) -/

/-- A saved event entry. -/
def savedEntry (k : EvEntry) : List Byte :=
  let b (x : Bool) (i : Nat) : Nat := if x then 2 ^ i else 0
  bytesOf 8 (k.count % 2 ^ 24 + k.st.code * 2 ^ 24 + k.eprio % 4 * 2 ^ 28 + k.age % 256 * 2 ^ 30 + k.attempt % 8 * 2 ^ 38 +
      b k.twin 41 + b k.tw1 42 + b k.tw2 43 + b k.twd 44) ++
    bytesOf 8 k.jobid.toNat ++ bytesOf 8 k.desc ++ bytesOf 8 (k.iter.toNat + 2 ^ 32 * k.waitev.toNat) ++
    bytesOf 8 (k.doneev.toNat + 2 ^ 32 * k.x + 2 ^ 48 * k.y) ++ bytesOf 8 (k.z + 2 ^ 32 * k.waitev2.toNat) ++
    List.replicate 16 0

/-- SOR_STAT (R134). -/
def sorStat (k : Sorrel) : Nat :=
  k.iter.toNat + k.live % 2 ^ 13 * 2 ^ 32 + (if k.manflt then 2 ^ 45 else 0) + k.missrep * 2 ^ 48

/-- QHEAD as it reads (R95). -/
def qheadStat (k : Queue) : Nat := k.head.toNat + 2 ^ 32 * k.qerr.toNat

/-- A command image's bytes. -/
def imageBytes (v : Image) : List Byte :=
  bytesOf 8 v.w0.toNat ++ bytesOf 8 v.w1.toNat ++ bytesOf 8 v.w2.toNat ++ bytesOf 8 v.w3.toNat

/-- A slot's 64 bytes in the save area: its live record, and a version not yet taken. -/
def savedSlot (s : State) (t n : Nat) : List Byte :=
  if s.slotOwner n ≠ some t then List.replicate 64 0
  else
    let v := (Map.find s.shadow n).or (Map.find (s.tenant t).sor.snap n)
    (s.slot n).words.flatMap (bytesOf 8) ++ imageBytes (v.getD Image.zero)

/-- Padding up to a length. -/
def padTo (n : Nat) (bs : List Byte) : List Byte := bs.take n ++ List.replicate (n - bs.length) 0

/-- The pieces of the save area: offset and bytes. -/
def saveImage (s : State) (t : Nat) : List (Nat × List Byte) :=
  let k := s.tenant t
  let live := ((s.entriesOf t).filter fun e => e.2.st != .free).length
  let outs := ((s.outSubs.filter fun o => o.tenant == t).flatMap fun o =>
    bytesOf 8 (o.name.toNat + 2 ^ 32 + if o.lost then 2 ^ 33 else 0))
  let ins := (s.inSubs.filter fun r => shareOf r.flag == t).flatMap fun r =>
    bytesOf 8 (r.flag % 2 ^ 18 + 2 ^ 18 * r.peer.toNat + 2 ^ 30)
  [(0, padTo 64 (bytesOf 4 1 ++ bytesOf 4 t ++ bytesOf 4 live ++ bytesOf 1 k.sched.killed)),
   (0x100, (List.range 16).flatMap fun q =>
      let x := s.queue t q
      bytesOf 8 x.base.toNat ++ bytesOf 8 (qcfg x) ++ bytesOf 8 x.tail.toNat ++ bytesOf 8 (qheadStat x)),
   (0x300, bytesOf 8 k.sor.cfg.toNat ++ bytesOf 8 k.sor.manbase.toNat ++ bytesOf 8 k.sor.repbase.toNat ++
      bytesOf 8 (sorStat k.sor)),
   (0x1000, padTo 16384 outs), (0x5000, padTo 16384 ins)] ++
    ((List.range 4096).map fun n => (0x10000 + 64 * n, s.savedSlot t n)) ++
    (List.range 32768).map fun i =>
      let e := s.event (32768 * t + i)
      (0x100000 + 64 * i, if e.st = .free then List.replicate 64 0 else savedEntry e)

/-- First address of a tenant's save area. -/
def saveBase (s : State) (t : Nat) : Nat := slice (s.tenant t).sched.savebase 56 12 * 4096

/-- The save is complete: DRAINED, or ABORTED where a write has faulted (R142). -/
def closeSave (s : State) (t : Nat) : State :=
  if s.farOut t 1 then s
  else
    let r := s.farFailed t 1
    let bad := r.2 || (s.tenant t).sched.saveerr
    r.1.modSched t fun k => { k with dstate := if bad then 5 else 3, saveerr := bad, wrote := false }

/-- The save written, up to the first write that faults, once the host budget covers it (R103, R142). -/
def writeSave (s : State) (t : Nat) : State :=
  if (s.tenant t).sched.wrote then s.closeSave t
  else
    let a := s.saveBase t
    let ps := s.saveImage t
    let units := s.writeUnits t (ps.map fun p => (a + p.1, p.2.length))
    if units ≠ 0 && !s.affordsHost t units then s
    else
      let r := ps.foldl (fun (r : State × Bool) p => if r.2 then r.1.tarragonWrite t 1 (a + p.1) p.2 else r) (s, true)
      (r.1.modSched t fun k => { k with wrote := true, saveerr := !r.2 }).closeSave t

/-! ### The restore (R147) -/

/-- Word k of some bytes. -/
def wordAt (bs : List Byte) (k : Nat) : Nat := natOfBytes ((bs.drop (8 * k)).take 8)

/-- Bits [56:12], the one field of an address register (R95, R134); the others read as zero (R11). -/
def addressField : DWord := 0x01FFFFFFFFFFF000

/-- A queue from its saved registers. A GRID that stalled when the drain stopped its queue has no place in the save area
and is given up (R146; notes/assumptions/62.md). -/
def loadQueue (bs : List Byte) : Queue :=
  let c := wordAt bs 1
  { base := BitVec.ofNat 64 (wordAt bs 0) &&& addressField, log2n := BitVec.ofNat 5 c, owner := c / 32 % 2 == 1,
    prio := BitVec.ofNat 2 (c / 64), en := c / 256 % 2 == 1, tail := BitVec.ofNat 32 (wordAt bs 2),
    head := BitVec.ofNat 32 (wordAt bs 3), qerr := BitVec.ofNat 4 (wordAt bs 3 / 2 ^ 32), grid := none }

/-- A slot from its saved live record. -/
def loadSlot (bs : List Byte) : Slot :=
  let w := wordAt bs 1
  { reqid := BitVec.ofNat 64 (wordAt bs 0), deadline := BitVec.ofNat 32 (w / 2 ^ 32), pos := nslice w 31 8,
    fin := w / 32 % 2 == 1, late := w / 16 % 2 == 1, prior := w / 8 % 2 == 1, st := w % 8,
    grem := wordAt bs 2 / 2 ^ 32, prem := wordAt bs 2 % 2 ^ 32, ctx := BitVec.ofNat 64 (wordAt bs 3) }

/-- A saved version, or none. -/
def loadImage (bs : List Byte) : Option Image :=
  let v : Image := { w0 := BitVec.ofNat 64 (wordAt bs 4), w1 := BitVec.ofNat 64 (wordAt bs 5),
                     w2 := BitVec.ofNat 64 (wordAt bs 6), w3 := BitVec.ofNat 64 (wordAt bs 7) }
  if v = Image.zero then none else some v

/-- An event entry from its saved bytes. -/
def loadEntry (bs : List Byte) : EvEntry :=
  let w := wordAt bs 0
  let b (i : Nat) : Bool := w / 2 ^ i % 2 == 1
  { EvEntry.init with
    st := EvState.ofCode (nslice w 27 24), count := w % 2 ^ 24, eprio := nslice w 29 28, age := nslice w 37 30
    attempt := nslice w 40 38, twin := b 41, tw1 := b 42, tw2 := b 43, twd := b 44
    jobid := BitVec.ofNat 64 (wordAt bs 1), desc := wordAt bs 2
    iter := BitVec.ofNat 32 (wordAt bs 3), waitev := BitVec.ofNat 32 (wordAt bs 3 / 2 ^ 32)
    doneev := BitVec.ofNat 32 (wordAt bs 4), x := nslice (wordAt bs 4) 47 32, y := nslice (wordAt bs 4) 63 48
    z := wordAt bs 5 % 2 ^ 16, waitev2 := BitVec.ofNat 32 (wordAt bs 5 / 2 ^ 32) }

/-- Ranges of the save area that a restore reads: offset and length. -/
def saveRanges : List (Nat × Nat) := [(0x100, 0x220), (0x1000, 16384), (0x5000, 16384), (0x10000, 262144), (0x100000, 2097152)]

/-- The save area read. -/
def readSave (s : State) (t : Nat) : State × Except (Option Snag) (List (List Byte)) :=
  s.tarragonReads t (saveRanges.map fun p => (s.saveBase t + p.1, p.2))

/-- Pieces of equal length, numbered. -/
def chunks (n : Nat) (bs : List Byte) : List (Nat × List Byte) :=
  (List.range (bs.length / n)).map fun i => (i, (bs.drop (n * i)).take n)

/-- A restored WAITING job registers with the flags that it still waits on; the counts are the saved ones. -/
def reregister (s : State) (t e : Nat) : State :=
  (waitsOf (s.event e)).foldl (fun s w =>
    if namePeer w = s.peer then
      if (s.event (nameIndex w)).st = .fired then s
      else s.modEvent (nameIndex w) fun f => { f with regs := f.regs ++ [e] }
    else
      { s with outSubs := s.outSubs.map fun (o : OutSub) =>
          if o.tenant == t && o.name == w then { o with jobs := o.jobs ++ [e] } else o }) s

/-- Saved outgoing subscriptions. -/
def loadOuts (t : Nat) (bs : List Byte) : List OutSub :=
  (chunks 8 bs).filterMap fun (x : Nat × List Byte) =>
    let w := wordAt x.2 0
    if w / 2 ^ 32 % 2 = 1 then some ({ tenant := t, name := BitVec.ofNat 32 w, lost := false, jobs := [] } : OutSub) else none

/-- Saved incoming subscriptions; the EVSIG of one whose flag is FIRED has been sent (R121). -/
def loadIns (evs : List (Nat × EvEntry)) (bs : List Byte) : List InSub :=
  let fired (i : Nat) : Bool := evs.any fun e => e.1 == i && e.2.st == .fired
  (chunks 8 bs).filterMap fun (x : Nat × List Byte) =>
    let w := wordAt x.2 0
    if w / 2 ^ 30 % 2 = 1 then
      some ({ flag := w % 2 ^ 18, peer := BitVec.ofNat 12 (w / 2 ^ 18), sent := fired (w % 2 ^ 18) } : InSub)
    else none

/-- Saved event entries of a tenant that are not FREE. -/
def loadEvents (t : Nat) (bs : List Byte) : List (Nat × EvEntry) :=
  ((chunks 64 bs).map fun (x : Nat × List Byte) => (32768 * t + x.1, loadEntry x.2)).filter fun e => e.2.st != .free

/-- The tables rebuilt from what was read. -/
def rebuildTables (s : State) (t : Nat) (outs ins slots : List Byte) (evs : List (Nat × EvEntry)) : State :=
  let mine (n : Nat) : Bool := s.slotOwner n == some t
  let saved : List (Nat × List Byte) := (chunks 64 slots).filter fun x => mine x.1
  let version (m : Map Image) (x : Nat × List Byte) : Map Image :=
    match loadImage x.2 with
    | some v => Map.put x.1 v m
    | none => m
  { s with
    events := evs.foldl (fun (m : Map EvEntry) (e : Nat × EvEntry) => Map.put e.1 e.2 m)
      (s.events.filter fun e => shareOf e.1 != t)
    pool := s.pool.filter fun e => shareOf e != t
    outside := s.outside.filter fun e => shareOf e != t
    outSubs := (s.outSubs.filter fun o => o.tenant != t) ++ loadOuts t outs
    inSubs := (s.inSubs.filter fun r => shareOf r.flag != t) ++ loadIns evs ins
    slots := saved.foldl (fun (m : Map Slot) x => Map.set Slot.init m x.1 (loadSlot x.2)) (s.slots.filter fun e => !mine e.1)
    shadow := saved.foldl version (s.shadow.filter fun e => !mine e.1) }

/-- The tenant's state rebuilt from what was read (R147). -/
def rebuildTenant (s : State) (t : Nat) (regs outs ins slots entries : List Byte) : State :=
  let sor := regs.drop 0x200
  let st := wordAt sor 3
  let evs := loadEvents t entries
  let s := s.rebuildTables t outs ins slots evs
  let s := s.modTenant t fun k =>
    { k with
      queues := (List.range 16).map fun q => (q, loadQueue ((regs.drop (32 * q)).take 32))
      sor := { k.sor with
        cfg := BitVec.ofNat 64 (wordAt sor 0 % 2 ^ 32), manbase := BitVec.ofNat 64 (wordAt sor 1) &&& addressField
        repbase := BitVec.ofNat 64 (wordAt sor 2) &&& addressField, iter := BitVec.ofNat 32 st, live := nslice st 44 32
        manflt := st / 2 ^ 45 % 2 == 1, missrep := nslice st 63 48, under := false, snap := [] } }
  let order := ((s.slotsOf t).filter fun n => (s.slot n).live).foldl
    (fun o n => insertSlot ((s.slot n).deadline.toNat, n) o) []
  let s := s.modSor t fun k => { k with sel := (order.map (·.2)).take k.live }
  let s := evs.foldl (fun s e =>
    if isFlag e.1 then s
    else
      let r := s.tarragonRead t e.2.desc 128
      let s := match r.2 with
        | .ok rec => r.1.modEvent e.1 fun k => { k with record := rec, idem := recIdem rec }
        | .error _ => s
      if e.2.st = .waiting then s.reregister t e.1 else if e.2.st = .ready then s.enterPool e.1 else s) s
  (s.outSubs.filter fun o => o.tenant == t).foldl (fun s o => s.sendEvsub t o.name) s

/-- The restore ends, once its reads can be made (R103, R142, R147). -/
def restore (s : State) (t : Nat) : State :=
  let r := s.readSave t
  match r.2 with
  | .ok [regs, outs, ins, slots, entries] =>
    (r.1.rebuildTenant t regs outs ins slots entries).modSched t fun k => { k with dstate := 0, saveerr := false }
  | .error none => r.1
  | _ => r.1.modSched t fun k => { k with dstate := 5, saveerr := true }

/-- The tenant has nothing under way that a restore from RUNNING would meet (R142). -/
def restorable (s : State) (t : Nat) : Bool :=
  ((s.tenant t).queues.all fun q => !q.2.en && q.2.grid.isNone) && (s.entriesOf t).all fun e => e.2.st == .free

end State

/-- CMD 1 (R142). -/
def execDrain (tenant : Nat) (s : State) : Host.Outcome State Fault Refusal :=
  s.onTenant tenant fun s =>
    if (s.tenant tenant).st = .active ∧ (s.tenant tenant).sched.dstate = 0 then s.startDrain tenant else s

/-- CMD 2 (R142). -/
def execDrainResume (tenant : Nat) (s : State) : Host.Outcome State Fault Refusal :=
  s.onTenant tenant fun s =>
    let d := (s.tenant tenant).sched.dstate
    if d = 3 ∨ d = 5 then (s.setDstate tenant 0).stopWatchdogs tenant else s

/-- CMD 3 (R142). -/
def execDrainRestore (tenant : Nat) (s : State) : Host.Outcome State Fault Refusal :=
  s.onTenant tenant fun s =>
    let d := (s.tenant tenant).sched.dstate
    if d = 3 ∨ (d = 0 ∧ s.restorable tenant) then s.setDstate tenant 4 else s

/-- A core's drain watchdog expires (R143). -/
def execDrainWatchdog (core : Nat) (s : State) : Host.Outcome State Fault Refusal := .next (s.watchdogExpires core)

/-- DRAINING ends when no job runs and no group drains; the save is then written (R142, R146). -/
def execDrainSave (tenant : Nat) (s : State) : Host.Outcome State Fault Refusal :=
  let d := (s.tenant tenant).sched.dstate
  .next (if d = 1 ∧ s.drainQuiet tenant then (s.setDstate tenant 2).stopWatchdogs tenant
    else if d = 2 then s.writeSave tenant else s)

/-- The restore's reads are done (R142, R147). -/
def execRestoreDone (tenant : Nat) (s : State) : Host.Outcome State Fault Refusal :=
  .next (if (s.tenant tenant).sched.dstate = 4 then s.restore tenant else s)

end Sys2Proof.Machine
end

