-- ==== Sys2Proof/Machine/Stripes.lean ====
section
/-! DEFINITION. Stripe descriptors of a virtual function: their checks, zeroing, loss, and the rebuild of a spare (R216,
R217, R221, R257; notes/assumptions/29.md). -/

namespace Sys2Proof.Machine

/-- The last byte of a region plus one (R216). -/
def stripeEnd (k : Stripe) : Nat := State.stripeBase k + 65536 * k.len.toNat

/-- Peer numbers of a stripe's members (R216). -/
def stripeMembers (k : Stripe) : List (BitVec 12) := k.mem.take (k.nm1.toNat + 1)

/-- SLD_CFG as it reads (R216). -/
def sldCfg (k : Stripe) : Nat :=
  k.nm1.toNat + 2 ^ 8 * k.myidx.toNat + 2 ^ 12 * k.base.toNat + 2 ^ 57 * k.lostidx.toNat +
    (if k.lostv then 2 ^ 61 else 0) + (if k.rebuild then 2 ^ 62 else 0) + if k.valid then 2 ^ 63 else 0

/-- SLD_STAT as it reads (R216). -/
def sldStat (k : Stripe) : Nat := k.err.toNat + 16 * k.rstate + 2 ^ 16 * k.fails + 2 ^ 32 * k.badrows

/-- SLD_MEM of word w as it reads (R216). -/
def sldMem (k : Stripe) (w : Nat) : Nat := ((List.range 5).map fun j => (k.mem.getD (5 * w + j) 0).toNat * 2 ^ (12 * j)).sum

/-- The fields of SLD_CFG without VALID, as a write gives them (R216). -/
def Stripe.withCfg (k : Stripe) (v : DWord) : Stripe :=
  { k with
    rebuild := v.getLsbD 62, lostv := v.getLsbD 61, lostidx := BitVec.ofNat 4 (slice v 60 57)
    base := BitVec.ofNat 33 (slice v 44 12), myidx := BitVec.ofNat 4 (slice v 11 8), nm1 := BitVec.ofNat 4 (slice v 3 0) }

/-- Two regions share a byte (R217). -/
def regionsMeet (a b : Stripe) : Bool :=
  decide (State.stripeBase a < stripeEnd b) && decide (State.stripeBase b < stripeEnd a)

namespace State

/-- Every 8 GiB group that a region touches is the tenant's (R93, R217). -/
def regionHeld (s : State) (t : Nat) (k : Stripe) : Bool :=
  let lo := stripeBase k / 2 ^ 33
  decide (k.len ≠ 0) && decide (stripeEnd k ≤ 2 ^ 39) &&
    (List.range ((stripeEnd k - 1) / 2 ^ 33 - lo + 1)).all fun i => (s.tenant t).pch.getLsbD (lo + i)

/-- The ERR of a write that sets VALID (R217): the first check that fails. -/
def stripeCode (s : State) (t i : Nat) (k : Stripe) : BitVec 4 :=
  let ms := stripeMembers k
  if k.nm1.toNat < 3 then 1
  else if k.nm1.toNat < k.myidx.toNat ∨ memberPeer k k.myidx.toNat ≠ s.peer then 2
  else if (ms.any fun m => !s.inPod m.toNat) ∨ ms.eraseDups.length ≠ ms.length then 3
  else if !s.regionHeld t k then 4
  else if (List.range 8).any fun j => j != i && (s.stripe t j).valid && regionsMeet k (s.stripe t j) then 5
  else 0

/-! ### Rebuild (R221 step 3) -/

/-- The SRBLD requests for a row: one to every other member (R83, R221). -/
def askRow (s : State) (t i row : Nat) : State :=
  let k := s.stripe t i
  let others := (List.range (k.nm1.toNat + 1)).filter fun m => m != k.myidx.toNat
  let s := s.setStripe t i { k with row, acc := 0, bad := false, due := others.length }
  others.foldl (fun s m =>
    let a := stripeBase k + 64 * row
    let r := s.takeTag { typ := 16, dst := BitVec.ofNat 12 (memberPeer k m), vcn := t, addr := a, errand := .rebuild t i row, first := none }
    r.1.request 16 0 t (memberPeer k m) r.2 a []) s

/-- GUARDFRZ records of a stripe that no error notice raised resolve themselves (R257). -/
def thaw (s : State) (t i : Nat) : State :=
  let mine := (s.tenant t).fq.waiting.filter fun w => w.cause == 3 && !w.remote && w.stripe == i
  mine.foldl (fun s w => (s.resolveRecord t w.seq false).1) s

/-- A row whose answers have all come is written, poisoned where one failed; then the next row, or RSTATE 4 (R221). -/
def rebuiltRow (s : State) (t i : Nat) : State :=
  let k := s.stripe t i
  let a := stripeBase k + 64 * k.row
  let s := (s.recallLine (a / 64)).homeWrite t a ((bytesOf 64 k.acc.toNat).map some)
  let s := if k.bad then (s.addPoison a).modStripe t i fun k => { k with badrows := min (k.badrows + 1) (2 ^ 32 - 1) } else s
  if k.row + 1 < stripeLines k then s.askRow t i (k.row + 1)
  else (s.modStripe t i fun k => { k with rstate := 4 }).thaw t i

/-- Answers of a rebuild that has been given up are discarded (R72). -/
def dropRebuild (s : State) (t i : Nat) : State :=
  let mine := (s.fab.tags.filter fun k =>
    match k.2.errand with
    | .rebuild t' i' _ => t' == t && i' == i
    | _ => false).map (·.1)
  mine.foldl (fun s k => s.retireTag k) s

/-- What the device still has of a region outside its home, engines' lines, buffered stores and L1 copies, comes before the
region's new contents in the coherence order of each line, unguarded, and leaves (R217, R221). -/
def clearRegion (s : State) (k : Stripe) : State :=
  let inside (l : Nat) : Bool := decide (stripeBase k ≤ 64 * l) && decide (64 * l < stripeEnd k)
  let s := (s.owned.filter inside).foldl (fun s l => s.recallLine l) s
  (Map.keys s.cores).foldl (fun s c =>
    let s := s.drainWhere c fun e => inside (e.place / 64)
    ((Map.keys (s.core c).l1).filter inside).foldl (fun s line => (s.writeBack c line).dropLine c line) s) s

/-- Every line of a region is written with zero (R217). -/
def zeroRegion (s : State) (t i : Nat) : State :=
  let k := s.stripe t i
  (s.wipeRange (stripeBase k) (stripeEnd k)).modStripe t i fun k => { k with rstate := 2 }

/-! ### SLD_CFG, SLD_LEN and SLD_MEM (R216) -/

/-- An outcome of a write (R217). -/
def sldErr (s : State) (t i : Nat) (e : BitVec 4) : State := s.modStripe t i fun k => { k with err := e }

/-- A write of SLD_CFG while VALID is 0. LOSTV that returns to 0 resolves what waits for it (R257). -/
def openStripe (s : State) (t i : Nat) (v : DWord) : State :=
  let old := s.stripe t i
  let k := old.withCfg v
  let s := s.setStripe t i k
  let s := if old.lostv && !k.lostv then s.thaw t i else s
  if !v.getLsbD 63 then s
  else
    let e := s.stripeCode t i k
    if e ≠ 0 then s.sldErr t i e
    else
      let s := (s.clearRegion k).setStripe t i
        { k with valid := true, err := 0, rstate := if k.rebuild then 3 else 1 }
      if k.rebuild then s.askRow t i 0 else s

/-- A write of SLD_CFG with VALID 1 while VALID is 1: the members' loss while REBUILD is 0, or the end of a rebuild. -/
def changeStripe (s : State) (t i : Nat) (v : DWord) : State :=
  let k := s.stripe t i
  let n := k.withCfg v
  let fixed := n.base == k.base && n.myidx == k.myidx && n.nm1 == k.nm1
  let lossSame := n.lostv == k.lostv && n.lostidx == k.lostidx
  if !fixed then s.sldErr t i 6
  else if !k.rebuild && !n.rebuild then
    let s := s.setStripe t i { n with err := 0 }
    if k.lostv && !n.lostv then s.thaw t i else s
  else if k.rebuild && !n.rebuild && lossSame && k.rstate == 4 then s.setStripe t i { n with err := 0 }
  else s.sldErr t i 6

/-- A write of SLD_CFG. -/
def writeSldCfg (s : State) (t i : Nat) (v : DWord) : State :=
  if !(s.stripe t i).valid then s.openStripe t i v
  else if v.getLsbD 63 then s.changeStripe t i v
  else (s.dropRebuild t i).modStripe t i fun k => { k with valid := false, rstate := 0, err := 0 }

/-- A write of SLD_LEN. -/
def writeSldLen (s : State) (t i : Nat) (v : DWord) : State :=
  if (s.stripe t i).valid then s.sldErr t i 6 else s.modStripe t i fun k => { k with len := v.setWidth 32 }

/-- A write of SLD_MEM word w: while VALID is 1, one that names the entry at LOSTIDX and changes no other, while REBUILD
is 0. -/
def writeSldMem (s : State) (t i w : Nat) (v : DWord) : State :=
  let k := s.stripe t i
  let new (j : Nat) : BitVec 12 := BitVec.ofNat 12 (slice v (12 * j + 11) (12 * j))
  let mem := (List.range 20).map fun m => if m / 5 = w then new (m % 5) else k.mem.getD m 0
  let moved := (List.range 20).filter fun m => mem.getD m 0 != k.mem.getD m 0
  if !k.valid then s.setStripe t i { k with mem }
  else if !k.rebuild && k.lostidx.toNat / 5 == w && moved.all (fun m => m == k.lostidx.toNat) then
    s.setStripe t i { k with mem, err := 0 }
  else s.sldErr t i 6

end State

/-- SLD_CFG.VALID from 0 to 1 (R217). -/
def execStripeEnable (tenant : Nat) (i : Nat) (value : DWord) (s : State) : Host.Outcome State Fault Refusal :=
  s.onVf tenant fun s =>
    if i < 8 ∧ !(s.stripe tenant i).valid then s.openStripe tenant i (value ||| BitVec.ofNat 64 (2 ^ 63)) else s

/-- SLD_CFG.VALID from 1 to 0 (R216). -/
def execStripeDisable (tenant : Nat) (i : Nat) (s : State) : Host.Outcome State Fault Refusal :=
  s.onVf tenant fun s => if i < 8 ∧ (s.stripe tenant i).valid then s.writeSldCfg tenant i 0 else s

/-- LOSTV and LOSTIDX written while VALID is 1, with the other fields as they are (R221). -/
def execStripeMarkLost (tenant : Nat) (i : Nat) (value : DWord) (s : State) : Host.Outcome State Fault Refusal :=
  s.onVf tenant fun s =>
    let m : DWord := BitVec.ofNat 64 (31 * 2 ^ 57)
    if i < 8 ∧ (s.stripe tenant i).valid then
      s.changeStripe tenant i ((BitVec.ofNat 64 (sldCfg (s.stripe tenant i)) &&& ~~~m) ||| (value &&& m))
    else s

/-- REBUILD written 0 while VALID is 1 (R216, R221 step 4). -/
def execStripeRebuildEnd (tenant : Nat) (i : Nat) (s : State) : Host.Outcome State Fault Refusal :=
  s.onVf tenant fun s =>
    let k := s.stripe tenant i
    if i < 8 ∧ k.valid ∧ k.rebuild then s.changeStripe tenant i (BitVec.ofNat 64 (sldCfg { k with rebuild := false })) else s

/-- Zeroing ends (R217). -/
def execStripeZeroDone (tenant : Nat) (i : Nat) (s : State) : Host.Outcome State Fault Refusal :=
  let k := s.stripe tenant i
  .next (if tenant < 8 ∧ i < 8 ∧ k.valid ∧ k.rstate = 1 then s.zeroRegion tenant i else s)

/-- One row of a rebuild ends (R221). -/
def execRebuildRow (tenant : Nat) (i : Nat) (s : State) : Host.Outcome State Fault Refusal :=
  let k := s.stripe tenant i
  .next (if tenant < 8 ∧ i < 8 ∧ k.valid ∧ k.rstate = 3 ∧ k.due = 0 then s.rebuiltRow tenant i else s)

end Sys2Proof.Machine
end

