-- ==== Sys2Proof/Machine/Faults.lean ====
section
/-! DEFINITION. The fault record queue (R98, R254 to R257), invalidations and walks (R248 to R250), soft errors (R264,
R265), and the compare points of twin jobs (R266 to R269). -/

namespace Sys2Proof.Machine

namespace State

/-! ### Writing fault records (R98, R256) -/

/-- The capture that a record of a group belongs to: its instruction's, with lanes still unrecorded. -/
def recordCapture (x : Group) (r : Record) : Option Nat :=
  (x.ops.captures.find? fun k =>
    k.clause == r.clause && k.idx == r.idx && k.unwritten != 0 && r.lanes &&& k.left == r.lanes).map (·.id)

/-- A written record for which a group waits (R257). A GUARDFRZ record whose condition has ended meanwhile resolves
itself. -/
def awaitRecord (s : State) (t : Nat) (r : Record) (seq : Word) : State :=
  let id := recordCapture (s.group r.gid) r
  let i := r.stripe
  let s := s.modOps r.gid fun o =>
    { o with captures := o.captures.map fun (k : Capture) =>
        if some k.id = id then { k with unwritten := k.unwritten - 1, records := k.records ++ [seq.toNat] } else k }
  let w : Waiting := { seq, gid := r.gid, cause := r.cause, remote := r.remote, stripe := i }
  let s := s.modFq t fun q => { q with waiting := q.waiting ++ [w] }
  let k := s.stripe t i
  if i < 8 ∧ !k.lostv ∧ !spareClosed k then (s.resolveRecord t seq false).1 else s

/-- The oldest owed record is written, where it can be (R98): for class V the service flag is set and the group waits for
its resolution (R256); a trap's cohort ends (R262). A record outside the egress windows is not made, and its group stays
parked (R103). -/
def writeRecord (s : State) (t : Nat) : State :=
  let q := (s.tenant t).fq
  match q.owed with
  | [] => s
  | r :: rest =>
    if !recordRoom q then s
    else
      let pop (s : State) : State := s.modFq t fun q => { q with owed := rest }
      match s.recordPlace t with
      | .error 6 => pop (s.modFq t fun q => { q with outside := true })
      | .error _ => s.modFq t fun q => { q with blocked := true }
      | .ok p =>
        if !s.affordsHost t (s.recordUnits t) then s
        else
          let s := pop (s.storeRecord t p r)
          let s := if r.parks then s.awaitRecord t r q.tail else s
          let s := if recoverable r.cause then s.setServiceFlag t else s
          if r.ends then s.endCohort r.gid r.cause else s

/-! ### Invalidation (R248, R250) -/

/-- A cached leaf meets the range that a TLBINV value names (R248). -/
def inRange (t : Nat) (v : DWord) (e : Tlb) : Bool :=
  let size := match slice v 62 61 with
    | 0 => 2 ^ 16
    | 1 => 2 ^ 21
    | _ => 2 ^ 30
  let a := slice v 56 16 * 65536 / size * size
  let b := e.va / leafSize e.level * leafSize e.level
  e.tenant == t && (slice v 62 61 == 3 || (decide (a < b + leafSize e.level) && decide (b < a + size)))

/-- Accesses of a tenant's groups are not complete: requests still to be answered, remote copies, collectives whose
descriptor has been read (R396), stores that twin copies hold (R210, R250). -/
def accessesOut (s : State) (t : Nat) : Bool :=
  s.svc.copies.any (fun k => (s.group k.gid).tenant == t) || s.svc.colls.any (fun k => k.tenant == t && k.drivers != []) ||
  (s.fab.tags.any fun k => k.2.vcn == t && (match k.2.errand with | .rebuild _ _ _ => false | _ => true)) ||
    s.groups.any fun k => k.2.tenant == t && k.2.role == .job && k.2.iss.held != []

/-- Everything that a core has under way at its homes is done: store buffer, engines, dirty lines. -/
def settleCore (s : State) (c : Nat) : State :=
  let s := s.drainWhere c fun _ => true
  let ls := (s.core c).copies.flatMap fun k => (k.segs.map fun g => (k.id, g.dst / 64)).eraseDups
  let s := ls.foldl (fun s k => s.writeLine c k.1 k.2) s
  s.drainFifo c

/-- An invalidation completes (R250). -/
def endTlbinv (s : State) (t : Nat) : State :=
  let v := (s.tenant t).tlbinv
  let s := (s.clusterCores t).foldl (fun s c => s.settleCore c) s
  let s :=
    { s with
      cores := s.cores.map fun (c : Nat × Core) => (c.1, { c.2 with tlb := c.2.tlb.filter fun e => !inRange t v e })
      tlb2 := s.tlb2.map fun (c : Nat × List Tlb) => (c.1, c.2.filter fun e => !inRange t v e) }
  s.modTenant t fun k => { k with tlbBusy := false }

/-- A page walk for a core with which no access of another kind is merged: a leaf is cached, a fault is not (R249;
notes/assumptions/59.md). It waits for the HOST budget that its reads of host memory take (R103). -/
def walkFor (s : State) (c t va : Nat) : State :=
  let n := s.walkUnits t va
  if (s.tlbFind c t va).isSome || (n != 0 && !s.affordsHost t n) then s
  else
    let s := s.chargeUnits t n
    match s.walk t va with
    | .error _ => s
    | .ok (e, level) => s.tlbFill c { tenant := t, level, va, pte := e, entry := s.leafEntry t va }

/-! ### Soft errors (R264, R265) -/

/-- An uncorrectable error at a place: its unit is poisoned, with the storage that R265 names. -/
def poisonPlace (s : State) (p : Nat) (from_ : Option Nat) : State :=
  let s := s.addPoison p
  { s with poisonFrom := match from_ with
      | none => Map.del (poisonUnit p) s.poisonFrom
      | some c => Map.put (poisonUnit p) c s.poisonFrom }

/-- The tenant that holds a place of HBM, a vault, Pewter or a core's own memories (R93). -/
def holderOf (s : State) (p : Nat) : Option Nat :=
  match placeHome p with
  | .hbm => (List.range 8).find? fun t => decide ((s.tenant t).st ≠ .disabled) && s.tenantHbm t p 1
  | .pewter => (List.range 8).find? fun t => decide ((s.tenant t).st ≠ .disabled) && s.tenantPewter t p 1
  | .vault => s.ownerOf ((p - 0x010000000000) / 0x2000000)
  | _ => none

/-- The tenant within which an error in a store arises, or none (R90). -/
def errorHolder (s : State) (st : Storage) (p : Nat) : Option Nat :=
  match st with
  | .l1 c => s.ownerOf c
  | .operand => s.ownerOf ((p - 2 ^ 61 - 2 ^ 30) / 2 ^ 21)
  | .accumulator => s.ownerOf ((p - 2 ^ 61 - 2 ^ 31) / 2 ^ 21)
  | .regfile => s.ownerOf (coreOf ((p - 2 ^ 80) / 2 ^ 14))
  | _ => s.holderOf p

/-- An uncorrectable error in a store of the module (R264). A register is named by its place; Tarragon's own stores by
the tenant that owns the entry (R265). A line of a core's L1 is poisoned there alone, and a line of its scratchpad by its
place. -/
def spoilUnit (s : State) (st : Storage) (p : Nat) : State :=
  match st with
  | .homeCache => s.poisonPlace p (some 2)
  | .l1 c =>
    if placeHome p = .spad then s.poisonPlace p none
    else s.modCore c fun k =>
      { k with l1 := k.l1.map fun (e : Nat × Line) => if e.1 = p / 64 then (e.1, { e.2 with bad := true }) else e }
  | .regfile =>
    s.modRegs ((p - 2 ^ 80) / 2 ^ 14) fun r => { r with bad := insertNat ((p - 2 ^ 80) % 2 ^ 14) r.bad }
  | .tarragon => (s.signal 0 5).tenantTrigger p false
  | _ => s.poisonPlace p none

/-- The store holds the place: an error of its can lie there. -/
def storesPlace (st : Storage) (p : Nat) : Bool :=
  match st with
  | .hbm => placeHome p == .hbm
  | .vault => placeHome p == .vault
  | .pewter => placeHome p == .pewter
  | .homeCache => placeHome p == .hbm || placeHome p == .pewter
  | .l1 _ => placeHome p != .spad || decide (p < 2 ^ 61 + 2 ^ 30)
  | .operand => decide (2 ^ 61 + 2 ^ 30 ≤ p) && decide (p < 2 ^ 61 + 2 ^ 31)
  | .accumulator => decide (2 ^ 61 + 2 ^ 31 ≤ p) && decide (p < 2 ^ 62)
  | .regfile => decide (2 ^ 80 ≤ p)
  | .tarragon => decide (p < 8)

/-- An uncorrectable error found; one outside any tenant signals vector 5 of the physical function (R90). -/
def spoil (s : State) (st : Storage) (p : Nat) : State :=
  if !storesPlace st p then s
  else
    let t := s.spoilUnit st p
    if st ≠ .tarragon ∧ s.errorHolder st p = none then t.signal 0 5 else t

/-! ### Compare points (R267, R268) -/

/-- Groups of every part of a block of one run. -/
def rankGroups (s : State) (b : Block) (run : Nat) : List Nat :=
  (s.blocks.filter fun x => x.2.job == b.job && x.2.run == run && x.2.rank == b.rank && !x.2.dead).flatMap (·.2.groups)

/-- The group has reached a compare point that it has not passed. -/
def atPoint (x : Group) : Bool := decide (x.iss.passed < x.iss.compares)

/-- A held store's packet is on its way: its lane may have to be replayed (R259). -/
def expectHeld (s : State) (g : Nat) (k : Capture) : State :=
  s.modOps g fun o =>
    { o with captures :=
        if o.captures.any fun x => x.id == k.id then
          o.captures.map fun (x : Capture) => if x.id = k.id then { x with out := x.out + 1 } else x
        else o.captures ++ [{ k with out := 1 }] }

/-- One entry of a hold buffer performed (R210). -/
def performHeld (s : State) (g : Nat) (h : HeldStore) : State :=
  let bs := h.bytes.filterMap id
  match placeHome h.place, h.cap with
  | .peer p, some k =>
    let a := placeAddr h.place
    let offs := (List.range bs.length).map fun i => (a % 64 + i, bs.getD i 0)
    (s.expectHeld g k).sendTagged g 2 p (a / 64 * 64) (linePayload offs) (.store g k.id (laneBit h.lane) (pewterFrame a))
  | home, _ => s.storeRun g { place := h.place, home, strict := false } bs true

/-- The local bytes of what a hold buffer held, instruction by instruction: the stores of every byte of a line clear its
poison (R265). -/
def clearHeld (s : State) (g : Nat) (hs : List HeldStore) : State :=
  ((hs.map (·.serial)).eraseDups).foldl (fun s n =>
    s.clearPlaces g ((hs.filter fun h => h.serial == n).flatMap fun h =>
      match placeHome h.place with
      | .peer _ => []
      | _ => (List.range h.bytes.length).map fun i => h.place + i)) s

/-- A group's hold buffer leaves: performed for the copy on the lower-numbered core, discarded for the other (R267). -/
def releaseHeld (s : State) (g : Nat) : State :=
  let x := s.group g
  let s := s.modIss g fun i => { i with held := [] }
  match s.blockOf g with
  | none => s
  | some b =>
    if b.twinHi || x.iss.held == [] then s
    else ((x.iss.held.foldl (fun s h => s.performHeld g h) s).clearHeld g x.iss.held).modEvent b.job fun e => { e with released := true }

/-- A group passes its compare point; under an operation that the lower copy performs for both, the higher copy waits
for it (R210). -/
def passPoint (s : State) (g : Nat) : State :=
  let hi := ((s.blockOf g).map (·.twinHi)).getD false
  s.modIss g fun i => if i.forced = 1 ∧ hi then i else { i with passed := i.compares }

/-- Signatures match: the hold buffers leave and the groups go on (R267). -/
def passAll (s : State) (gs : List Nat) : State :=
  let s := gs.foldl (fun s g => s.releaseHeld g) s
  gs.foldl (fun s g => s.passPoint g) s

/-- A mismatch (R268). -/
def mismatch (s : State) (g : Nat) (b : Block) : State :=
  let e := s.event b.job
  if e.rerun || (e.released && !e.idem) then
    let x := s.group g
    s.trapNow g 0x33 x.flow.living ((x.flow.parts.head?.map (·.pc)).getD 0) 0
  else
    let s := s.owe (shareOf b.job) (bareRecord 0x42 e.jobid 0)
    ((s.killParts b.job).modEvent b.job fun k => { k with rerun := true, avoid := k.avoid ++ k.runs }).makeReady b.job

/-- The XOR of groups' signatures (R266). -/
def sumSig (s : State) (gs : List Nat) : DWord := gs.foldl (fun v g => v ^^^ (s.group g).iss.sig) 0

/-- The comparison of a block at JOBEND, once every group of both copies has exited (R267). -/
def compareEnds (s : State) (g : Nat) (b : Block) : State :=
  let lo := s.rankGroups b 0
  let hi := s.rankGroups b 1
  let rest := s.unstarted b.job 0 (some b.rank) || s.unstarted b.job 1 (some b.rank)
  if !rest && (lo ++ hi).all fun h => (s.group h).park == .draining && atPoint (s.group h) then
    if s.sumSig lo = s.sumSig hi then s.passAll (lo ++ hi) else s.mismatch g b
  else s

/-- A compare point of a group: nothing happens until its twin has reached one (R267). -/
def compareTwin (s : State) (g : Nat) : State :=
  match s.blockOf g, s.twinOf g with
  | some b, some h =>
    let x := s.group g
    let y := s.group h
    if !atPoint x || !atPoint y then s
    else if x.park = .draining ∧ y.park = .draining then s.compareEnds g b
    else if x.park = .wait .pass ∧ y.park = .wait .pass ∧ x.iss.compares = y.iss.compares ∧ x.iss.sig = y.iss.sig then
      s.passAll [g, h]
    else s.mismatch g b
  | _, _ => s

end State

/-! ### Events -/

/-- A fault record is written (R98). -/
def execFaultRecordWrite (tenant : Nat) (s : State) : Host.Outcome State Fault Refusal :=
  .next (if tenant < 8 then s.writeRecord tenant else s)

/-- A write of TLBINV (R248). -/
def execTlbinv (tenant : Nat) (value : DWord) (s : State) : Host.Outcome State Fault Refusal :=
  s.onVf tenant fun s => s.startTlbinv tenant value

/-- An invalidation ends, once every access of the tenant is complete (R250). -/
def execTlbinvDone (tenant : Nat) (s : State) : Host.Outcome State Fault Refusal :=
  .next (if tenant < 8 ∧ (s.tenant tenant).tlbBusy ∧ !s.accessesOut tenant then s.endTlbinv tenant else s)

/-- A page walk of a tenant's core ends (R249). -/
def execPageWalk (core : Nat) (tenant : Nat) (va : DWord) (s : State) : Host.Outcome State Fault Refusal :=
  .next (if s.ownerOf core = some tenant ∧ va.toNat < vaultBase then s.walkFor core tenant va.toNat else s)

/-- A write of FLTRES (R257). -/
def execFltres (tenant : Nat) (value : DWord) (s : State) : Host.Outcome State Fault Refusal :=
  s.onVf tenant fun s => s.resolveFault tenant value

/-- An ECC check finds an error (R264): a correctable one leaves the data as they were. -/
def execMemoryError (st : Storage) (place : Nat) (correctable : Bool) (s : State) : Host.Outcome State Fault Refusal :=
  .next (if correctable then s else s.spoil st place)

/-- A twin group's compare point (R267, R268). -/
def execTwinCompare (gid : Nat) (s : State) : Host.Outcome State Fault Refusal :=
  .next (if s.hasGroup gid then s.compareTwin gid else s)

end Sys2Proof.Machine
end

