-- ==== Sys2Proof/Machine/Mailbox.lean ====
section
/-! DEFINITION. The secure mailbox and the tenants' mailboxes, attestation, life-cycle requests, staging, measurement
extension (R27 to R29, R89, R99, R101, R104 to R107; notes/assumptions/26.md). -/

namespace Sys2Proof.Machine

/-- The input of a mailbox. -/
def Mailbox.input (m : Mailbox) (o n : Nat) : List Byte := (List.range n).map fun i => Map.get 0 m.buffer (o + i)

/-- Bytes stored into a mailbox buffer of a size. -/
def Mailbox.store (m : Mailbox) (size o : Nat) (bs : List Byte) : Mailbox :=
  let fits := (bs.zip (List.range bs.length)).filter fun b => decide (o + b.2 < size)
  { m with buffer := fits.foldl (fun (x : Map Byte) b => Map.set 0 x (o + b.2) b.1) m.buffer }

/-- A mailbox whose running command ends (R104). -/
def Mailbox.finish (m : Mailbox) : Mailbox :=
  { m with busy := false, result := if m.rejected then 3 else m.result, rejected := false }

namespace State

/-- The outcome of a command: RESULT and its output. -/
structure Reply where
  result : BitVec 8
  out : List Byte
  deriving DecidableEq, Repr

/-- A command without output. -/
def Reply.code (r : BitVec 8) : Reply := { result := r, out := [] }

/-! ### Command fields (R104) -/

def cmdCode (v : DWord) : Nat := slice v 7 0
def cmdArg (v : DWord) : Nat := slice v 15 8
def cmdLen (v : DWord) : Nat := slice v 32 16
def cmdChunk (v : DWord) : Nat := slice v 62 48

/-- Fields that every command must keep; only STAGE names a chunk (R104). -/
def cmdBad (v : DWord) : Bool := decide (65536 < cmdLen v) || slice v 47 33 != 0 || (cmdCode v != 5 && cmdChunk v != 0)

/-! ### Attestation (R107) -/

/-- The boundary registers as they read, in offset order (R102). -/
def boundaryBytes (s : State) : List Byte :=
  let ts := List.range 9
  let pages (r : Nat × Nat) : List Byte := bytesOf 8 (r.1 * 4096) ++ bytesOf 8 (r.2 * 4096)
  (ts.flatMap fun t => (List.range 4).flatMap fun i => pages ((s.boundary t).hostRange i)) ++
    (ts.flatMap fun t => bytesOf 8 (s.boundary t).fabOut.toNat) ++
    (ts.flatMap fun t => (List.range 4).flatMap fun i => pages ((s.boundary t).inRange i)) ++
    ts.flatMap fun t => bytesOf 8 ((s.boundary t).capFab.toNat + 2 ^ 16 * (s.boundary t).capHost.toNat)

/-- The 512 bytes of an attestation report; `who` is a tenant, or 0xFF for the device. -/
def report (s : State) (nonce : List Byte) (who : Nat) : List Byte :=
  let k := s.tenant who
  let own (x : Nat) : List Byte := bytesOf 8 (if who < 8 then x else 0)
  bytesOf 4 1 ++ nonce ++ bytesOf 8 Config.serial.toNat ++ digestBytes Config.identityDigest ++
    ((List.range 8).flatMap fun i => digestBytes (Map.get 0 s.host.ms i)) ++
    bytesOf 1 s.lcStat ++ bytesOf 1 who ++ bytesOf 2 s.pkgStat ++
    own k.cfg.toNat ++ own k.pch.toNat ++ own k.epoch.toNat ++
    digestBytes (Config.sha3 s.boundaryBytes) ++ List.replicate 120 0

/-- A report and its signature (R107). -/
def attest (s : State) (m : Mailbox) (who : Nat) : Reply :=
  let r := s.report (m.input 0 32) who
  { result := 0, out := r ++ Config.sign Config.keyIdentity (Config.sha3 r) }

/-! ### Life-cycle requests (R28, R29, R105) -/

/-- A transition of R28, the keys of which one must sign it (R105), or none. -/
def transitionKeys (owner : List Nat) (src dst re : Nat) : Option (List Nat) :=
  match src, dst with
  | _, 4 => some (Config.keyVendor :: owner)
  | 0, 1 => some [Config.keyVendor]
  | 1, 2 => some [Config.keyVendor]
  | 2, 3 => some owner
  | 3, 2 => if re < 15 then some owner else none
  | _, _ => none

/-- A refused life-cycle request (R105). -/
def refuseLc (s : State) (r : BitVec 8) : State × Reply := (s.modPkg fun p => { p with lcerr := true }, Reply.code r)

/-- The owner key digest that a request brings: the 32 bytes after the signature (R105; notes/assumptions/57.md). -/
def requestOwner (m : Mailbox) : BitVec 256 := BitVec.ofNat 256 (natOfBytes (m.input 2461 32))

/-- LCREQ: accepted, it waits for its commit. -/
def requestLc (s : State) : State × Reply :=
  let m := s.host.sec
  let target := ((m.input 0 1).headD 0).toNat
  let matches_ := decide (natOfBytes (m.input 1 8) = Config.serial.toNat) &&
    (match s.host.nonce with
     | none => false
     | some n => m.input 9 32 == digestBytes n)
  let s := s.modHost fun h => { h with nonce := none }
  if !matches_ then s.refuseLc 1
  else
    match transitionKeys s.ownerKeys s.pkg.lcstate.toNat target s.pkg.reentry.toNat with
    | none => s.refuseLc 4
    | some keys =>
      let d := Config.sha3 (m.input 0 41)
      if keys.any fun k => Config.verifies k d (m.input 41 2420) then
        (s.modPkg fun p => { p with lcerr := false, pendingLc := some (BitVec.ofNat 3 target, requestOwner m) }, Reply.code 0)
      else s.refuseLc 1

/-- No cached copy of a Pewter line is left (R29). -/
def dropPewterLines (k : Core) : Core :=
  let keep (l : Nat) : Bool := !pewterFrame (64 * l)
  { k with l1 := Map.keep keep k.l1, fifo := k.fifo.filter keep }

/-- The commit of an accepted request: its fuses are programmed, among them the owner key digest at the move to FIELD, and
every key rotation starts; from here on nothing written under an earlier key is readable (R29, R105). -/
def commitLc (s : State) : State :=
  match s.pkg.pendingLc with
  | none => s
  | some (t, owner) =>
    let s := s.modPkg fun p =>
      { p with
        ownerKey := if p.lcstate = 1 ∧ t = 2 then some owner else p.ownerKey
        reentry := if p.lcstate = 3 ∧ t = 2 then p.reentry + 1 else p.reentry
        lcstate := t, pendingLc := none, rotate := true }
    let s := { s with cores := s.cores.map fun (c : Nat × Core) => (c.1, dropPewterLines c.2) }
    (List.range 8).foldl (fun s t => s.modTenant t fun k => { k with erasing := true }) s

/-! ### Staging (R106) -/

/-- The slot of a target that the last boot did not use (R105). -/
def idleSlot (s : State) (target : Nat) : Nat :=
  match Map.find s.host.used target with
  | none => 0
  | some k => 1 - k

/-- A target's staging discarded: its slot holds no valid image. -/
def dropStaging (h : HostSide) (target : Nat) : HostSide :=
  { h with staging := Map.del target h.staging, slots := h.slots.filter fun k => k.target != target || k.closed }

/-- A chunk placed in an image slot. -/
def putChunk (h : HostSide) (target slot : Nat) (bs : List Byte) (last : Bool) (chunk : Nat) : HostSide :=
  let old := ((h.slots.find? fun k => k.target == target && k.slot == slot).map (·.bytes)).getD []
  let bytes := (if chunk = 0 then [] else old) ++ bs
  { h with
    slots := (h.slots.filter fun k => k.target != target || k.slot != slot) ++
      [({ target, slot, bytes, closed := last } : ImageSlot)]
    staging := if last then Map.del target h.staging else Map.put target (chunk + 1) h.staging }

/-- STAGE. -/
def stage (s : State) : State × Reply :=
  let v := s.host.sec.cmd
  let target := cmdArg v % 4
  let last := cmdArg v / 128 == 1
  let n := cmdLen v
  let chunk := cmdChunk v
  if target = 3 ∨ cmdArg v / 4 % 32 ≠ 0 then (s, Reply.code 2)
  else
    let s := if chunk = 0 then s.modHost fun h => dropStaging h target else s
    if chunk ≠ 0 ∧ Map.find s.host.staging target ≠ some chunk then (s, Reply.code 2)
    else if !last && n != 65536 then (s.modHost fun h => dropStaging h target, Reply.code 2)
    else
      let bs := s.host.sec.input 0 n
      (s.modHost fun h => putChunk h target (s.idleSlot target) bs last chunk, Reply.code 0)

/-! ### The secure mailbox (R104, R105) -/

/-- A 256-bit random value (R105). -/
def randomNonce (s : State) : State × BitVec 256 :=
  let a := s.free
  let b := a.1.free
  let c := b.1.free
  let d := c.1.free
  (d.1, d.2 ++ c.2 ++ b.2 ++ a.2)

/-- What a command does and answers. -/
def secEffect (s : State) (code : Nat) : State × Reply :=
  let m := s.host.sec
  if cmdBad m.cmd then (s, Reply.code 2)
  else if s.pkg.recovery && (code == 2 || code == 4) then (s, Reply.code 5)
  else
    match code with
    | 1 =>
      let r := s.randomNonce
      (r.1.modHost fun h => { h with nonce := some r.2 }, { result := 0, out := digestBytes r.2 })
    | 2 => if cmdArg m.cmd < 8 ∨ cmdArg m.cmd = 255 then (s, s.attest m (cmdArg m.cmd)) else (s, Reply.code 2)
    | 3 => (s, { result := 0, out := Config.identityCert })
    | 4 => s.requestLc
    | 5 => s.stage
    | _ => (s, Reply.code 2)

/-- The command in SEC_CMD is taken; it is busy until SEC_COMMAND_DONE. One that meets a running command is discarded. -/
def secTake (s : State) (code : Nat) : State :=
  if s.host.sec.busy then s.modHost fun h => { h with sec := { h.sec with rejected := true } }
  else
    let r := s.secEffect code
    r.1.modHost fun h =>
      { h with sec := { h.sec.store 65536 0 r.2.out with
          busy := true, result := r.2.result, outlen := BitVec.ofNat 16 (min r.2.out.length 65535) } }

/-- A write of SEC_CMD (R104). -/
def writeSecCmd (s : State) (v : DWord) : State :=
  if !v.getLsbD 63 then s
  else if s.host.sec.busy then s.secTake 0
  else (s.modHost fun h => { h with sec := { h.sec with cmd := v } }).secTake (cmdCode v)

/-! ### The tenants' mailboxes (R99) -/

/-- What a tenant's command answers. -/
def tenantEffect (s : State) (t : Nat) (v : DWord) : Reply :=
  let m := (s.tenant t).mbx
  if cmdBad v then Reply.code 2
  else if cmdCode v = 2 then (if s.pkg.recovery then Reply.code 5 else s.attest m t)
  else if cmdCode v = 3 then { result := 0, out := Config.identityCert }
  else Reply.code 2

/-- A tenant's command is taken. -/
def tenantTake (s : State) (t : Nat) (v : DWord) : State :=
  if !v.getLsbD 63 then s
  else if (s.tenant t).mbx.busy then s.modTenant t fun k => { k with mbx := { k.mbx with rejected := true } }
  else
    let r := s.tenantEffect t v
    s.modTenant t fun k =>
      { k with mbx := { k.mbx.store 8192 0 r.out with
          cmd := v, busy := true, result := r.result, outlen := BitVec.ofNat 16 (min r.out.length 65535) } }

/-- A command of a code, with GO, whatever else its fields hold. -/
def withCode (v : DWord) (code : Nat) : DWord := (v &&& 0x7FFFFFFFFFFFFF00) ||| BitVec.ofNat 64 (2 ^ 63 + code)

/-- SEC_STAT and the tenant's status register (R104). -/
def mailStat (m : Mailbox) : Nat := m.result.toNat + 2 ^ 16 * m.outlen.toNat + if m.busy then 2 ^ 63 else 0

/-- An event of the secure mailbox. -/
def onSec (s : State) (f : State → State) : Host.Outcome State Fault Refusal := .next (if s.hostUp then f s else s)

end State

/-- GETNONCE (R105). -/
def execGetnonce (s : State) : Host.Outcome State Fault Refusal := s.onSec fun s => s.secTake 1
/-- ATTEST (R105, R107). -/
def execAttest (s : State) : Host.Outcome State Fault Refusal := s.onSec fun s => s.secTake 2
/-- GETCERT (R105). -/
def execGetcert (s : State) : Host.Outcome State Fault Refusal := s.onSec fun s => s.secTake 3
/-- LCREQ (R28, R105). -/
def execLcreq (s : State) : Host.Outcome State Fault Refusal := s.onSec fun s => s.secTake 4
/-- STAGE (R105, R106). -/
def execStage (s : State) : Host.Outcome State Fault Refusal := s.onSec fun s => s.secTake 5
/-- A command with another code (R104). -/
def execSecInvalid (s : State) : Host.Outcome State Fault Refusal := s.onSec fun s => s.secTake 0

/-- The commit point of R29. -/
def execLcCommit (s : State) : Host.Outcome State Fault Refusal := s.onSec fun s => s.commitLc

/-- A running command ends, in the secure mailbox or in a tenant's (R90, R99, R104). -/
def execSecCommandDone (tenant : Option Nat) (s : State) : Host.Outcome State Fault Refusal :=
  match tenant with
  | none =>
    .next (if s.host.sec.busy then (s.modHost fun h => { h with sec := Mailbox.finish h.sec }).signal 0 1 else s)
  | some t =>
    .next (if t < 8 ∧ (s.tenant t).mbx.busy then
        (s.modTenant t fun k => { k with mbx := Mailbox.finish k.mbx }).signal (t + 1) 2
      else s)

/-- ATTEST in a tenant's mailbox: for its own tenant (R99). -/
def execTenantAttest (tenant : Nat) (cmd : DWord) (s : State) : Host.Outcome State Fault Refusal :=
  s.onVf tenant fun s => s.tenantTake tenant (State.withCode cmd 2)

/-- GETCERT in a tenant's mailbox (R99). -/
def execTenantGetcert (tenant : Nat) (cmd : DWord) (s : State) : Host.Outcome State Fault Refusal :=
  s.onVf tenant fun s => s.tenantTake tenant (State.withCode cmd 3)

/-- Another command in a tenant's mailbox (R99). -/
def execTenantMailboxRefused (tenant : Nat) (cmd : DWord) (s : State) : Host.Outcome State Fault Refusal :=
  s.onVf tenant fun s =>
    s.tenantTake tenant (if State.cmdCode cmd = 2 ∨ State.cmdCode cmd = 3 then State.withCode cmd 0 else State.withCode cmd (State.cmdCode cmd))

/-- PKG_MSEXT_GO: MS6 is extended with PKG_MSEXT (R101). -/
def execPkgMsextGo (s : State) : Host.Outcome State Fault Refusal := s.onSec fun s => s.extendSlot 6 s.host.msExt

/-- A write of 1 to PKG_STAT.LCERR (R89). -/
def execLcerrClear (s : State) : Host.Outcome State Fault Refusal := s.onSec fun s => s.modPkg fun p => { p with lcerr := false }

end Sys2Proof.Machine
end

