-- ==== Sys2Proof/Machine/Registers.lean ====
section
/-! DEFINITION. The registers of BAR 0 of the physical and the virtual functions: what each reads as, and what a write
does (R87, R88; notes/assumptions/32.md). -/

namespace Sys2Proof.Machine

/-- The state after an event, for a register write that is one. -/
def stateOf (s : State) : Host.Outcome State Fault Refusal → State
  | .next t => t
  | _ => s

/-- A number as a register value. -/
def reg (n : Nat) : DWord := BitVec.ofNat 64 n

/-- The index of a register in a bank that begins at `base`, with `n` registers of `size` bytes each. -/
def bankIndex (off base n size : Nat) : Option Nat :=
  if base ≤ off ∧ off < base + n * size then some ((off - base) / size) else none

namespace State

/-! ### What registers read as -/

/-- HBM_SPARESTAT (R32). -/
def spareStat (s : State) : Nat :=
  let k := s.pkg.spareLast
  2 ^ 40 * s.hardLeft k + 2 ^ 48 * (1024 - s.softUsed k.stack.toNat) + 2 ^ 60 * s.pkg.spareResult.toNat +
    if s.pkg.spareRun.isSome then 2 ^ 63 else 0

/-- FAB_PORTCTL (R39). -/
def portCtl (k : Port) : Nat :=
  4 * k.minstep.toNat + (if k.auto then 16 else 0) + (if k.spareen then 32 else 0) + if k.disable then 64 else 0

/-- FAB_PORTSTAT (R40). -/
def portStat (k : Port) : Nat :=
  k.stepdowns + 2 ^ 8 * k.failed.toNat + 2 ^ 10 * k.sparefor.toNat +
    if k.up then 2 ^ 12 * lanesUp k + 2 ^ 14 * k.step.toNat else 3 * 2 ^ 14

/-- FAB_COORD (R53). -/
def coordReg (s : State) : Nat :=
  let f := s.fab
  f.col.toNat + 2 ^ 5 * f.row.toNat + 2 ^ 10 * f.colsM1.toNat + 2 ^ 15 * f.rowsM1.toNat + 2 ^ 20 * f.pod.toNat +
    if s.pkg.bndlock then 2 ^ 63 else 0

/-- TEN_COMMCFG (R125). -/
def commCfg (k : Sched) (res : Nat) : Nat :=
  k.cmin.toNat + 2 ^ 6 * k.cmax.toNat + 2 ^ 12 * k.hiwat.toNat + 2 ^ 22 * k.lowat.toNat + 2 ^ 32 * k.shrinkn.toNat +
    2 ^ 56 * res

/-- Tarragon's registers of a tenant, by offset in their block (R125). -/
def schedReg (k : Sched) (res o : Nat) : Nat :=
  match o with
  | 0 => commCfg k res
  | 8 => k.agestep.toNat
  | 0x10 => k.wdog.toNat
  | 0x20 => k.dstate + 2 ^ 8 * k.killed + if k.saveerr then 2 ^ 16 else 0
  | 0x28 => k.savebase.toNat
  | _ => 0

/-- A tenant's management registers, by offset in their block (R91). -/
def tenReg (s : State) (t o : Nat) : Nat :=
  match o with
  | 0 => (s.tenant t).cfg.toNat
  | 8 => (s.tenant t).pch.toNat
  | 0x18 => s.tenStat t
  | _ => 0

/-- Debug registers, by offset from DBGCTL (R272). -/
def dbgReg (s : State) (t : Nat) (resident : Bool) (o : Nat) : Nat :=
  let d := (s.tenant t).dbg
  match o with
  | 0 => (if d.en then 1 else 0) + (if d.hazchk then 2 else 0) + if d.stopall then 4 else 0
  | 8 => d.core.toNat + 2 ^ 8 * d.entry.toNat
  | 0x18 => s.dbgStat t resident
  | 0x20 => d.buf.toNat
  | _ =>
    match bankIndex o 0x40 4 8 with
    | some k => (d.bp.getD k 0).toNat
    | none => 0

/-- Byte `k` of the boundary registers as a word, by offset from 0x6000 (R102). -/
def boundReg (s : State) (o : Nat) : Nat :=
  let bs := s.boundaryBytes
  let at_ (i : Nat) : Nat := natOfBytes ((bs.drop i).take 8)
  match bankIndex o 0 9 0x40, bankIndex o 0x400 9 8, bankIndex o 0x500 9 0x40, bankIndex o 0x800 9 8 with
  | some _, _, _, _ => at_ o
  | _, some t, _, _ => at_ (9 * 64 + 8 * t)
  | _, _, some _, _ => at_ (9 * 64 + 9 * 8 + (o - 0x500))
  | _, _, _, some t => at_ (18 * 64 + 9 * 8 + 8 * t)
  | _, _, _, _ => 0

/-- Stripe registers, by offset in their block (R216). -/
def stripeReg (k : Stripe) (o : Nat) : Nat :=
  match o with
  | 0 => sldCfg k
  | 8 => k.len.toNat
  | 0x30 => sldStat k
  | _ =>
    match bankIndex o 0x10 4 8 with
    | some w => sldMem k w
    | none => 0

/-- Sorrel's registers, by offset from SOR_CFG (R134, R136). -/
def sorReg (s : State) (t o : Nat) : Nat :=
  let k := (s.tenant t).sor
  let img (v : Image) (i : Nat) : Nat := ([v.w0, v.w1, v.w2, v.w3].getD i 0).toNat
  match o with
  | 0 => k.cfg.toNat
  | 8 => k.manbase.toNat
  | 0x10 => k.repbase.toNat
  | 0x18 => sorStat k
  | 0x28 => k.wsIter.toNat + 2 ^ 32 * k.wsResult.toNat + 2 ^ 48 * k.igncmd
  | 0x30 => k.rsel.toNat
  | _ =>
    match bankIndex o 0x40 4 8, bankIndex o 0x60 4 8 with
    | some i, _ => img k.img i
    | _, some i =>
      if s.slotOwner k.rsel.toNat = some t then (Slot.words (s.slot k.rsel.toNat)).getD i 0 else 0
    | _, _ => 0

/-- Operator-stream queues, by offset in their block (R95). -/
def queueReg (k : Queue) (o : Nat) : Nat :=
  match o with
  | 0 => k.base.toNat
  | 8 => qcfg k
  | 0x10 => k.tail.toNat
  | 0x18 => qheadStat k
  | _ => 0

/-- The fault record queue is full (R98): it has no room for a record. -/
def fqFull (q : FaultQueue) : Bool := decide (2 ^ q.log2n.toNat ≤ (q.tail - q.head).toNat)

/-- VF_STAT (R99). -/
def vfStat (s : State) (t : Nat) : Nat :=
  s.tenStat t % 4 + (if s.coreShort t then 4 else 0) + if fqFull (s.tenant t).fq then 8 else 0

/-- The fields of a mailbox command that read back: CODE, ARG, INLEN and CHUNK (R11, R104). -/
def commandFields : DWord := 0x7FFF0001FFFFFFFF

/-- Eight bytes of a buffer. -/
def bufReg (m : Mailbox) (o : Nat) : Nat := natOfBytes (m.input o 8)

/-- A register of the physical function, by its offset (a multiple of 8). -/
def pfReg (s : State) (off : Nat) : Nat :=
  match off with
  | 0x0 => s.pkgStat
  | 0x10 => s.lcStat
  | 0x100 => s.pkg.spareCmd.toNat
  | 0x108 => s.spareStat
  | 0x200 => s.pkg.retire.toNat
  | 0x208 => s.pkg.retstat.toNat
  | 0x1400 => s.coordReg
  | 0x1408 => s.fab.portRole.toNat
  | 0x1410 => s.fab.podSel.toNat
  | 0x1418 => (Map.get 0 s.fab.podRoute s.fab.podSel.toNat).toNat
  | 0x1420 => if s.fab.deadOp then 2 ^ 63 else 0
  | 0x1428 => s.fab.tmo.toNat
  | 0x1430 => s.fab.eyecfg.toNat
  | 0x2000 => s.pwr.cap.toNat
  | 0x2008 => s.pwrStat
  | 0x2010 => s.pwr.mode.toNat + 4 * s.pwr.ramp.toNat
  | 0x2100 => s.pwr.throttle.toNat
  | 0x2108 => s.pwr.therm.toNat
  | 0x3400 => s.sorOwner.toNat
  | 0x8000 => (s.host.sec.cmd &&& commandFields).toNat
  | 0x8008 => mailStat s.host.sec
  | _ =>
    if 0x400 ≤ off ∧ off < 0x420 then s.host.msExt.toNat / 2 ^ (8 * (off - 0x400)) % 2 ^ 64
    else if 0x500 ≤ off ∧ off < 0x600 then
      (Map.get 0 s.host.ms ((off - 0x500) / 32)).toNat / 2 ^ (8 * ((off - 0x500) % 32)) % 2 ^ 64
    else if 0x10000 ≤ off ∧ off < 0x20000 then bufReg s.host.sec (off - 0x10000)
    else if 0x6000 ≤ off ∧ off < 0x7000 then s.boundReg (off - 0x6000)
    else if 0x7000 ≤ off ∧ off < 0x7060 then
      (if s.pkg.lcstate = 3 then
        s.dbgReg s.host.dbgTenant.toNat s.host.dbgResident (off - 0x7000) +
          (if off = 0x7008 then 2 ^ 16 * s.host.dbgTenant.toNat + (if s.host.dbgResident then 2 ^ 19 else 0) else 0)
      else 0)
    else
      match bankIndex off 0x1000 62 8, bankIndex off 0x1200 62 8, bankIndex off 0x1480 16 8, bankIndex off 0x3000 8 0x40,
          bankIndex off 0x4000 8 0x40 with
      | some n, _, _, _, _ => portCtl (s.port n)
      | _, some n, _, _, _ => portStat (s.port n)
      | _, _, some i, _, _ => (Map.get 0 s.fab.dead i).toNat
      | _, _, _, some t, _ => schedReg (s.tenant t).sched (s.reserveOf t) (off % 0x40)
      | _, _, _, _, some t => s.tenReg t (off % 0x40)
      | _, _, _, _, _ => 0

/-- A register of tenant t's virtual function, by its offset (a multiple of 8). -/
def vfReg (s : State) (t : Nat) (off : Nat) : Nat :=
  let k := s.tenant t
  match off with
  | 0x200 => k.fq.base.toNat
  | 0x208 => k.fq.log2n.toNat + if k.fq.en then 256 else 0
  | 0x210 => k.fq.tail.toNat
  | 0x218 => k.fq.head.toNat
  | 0x300 => s.vfStat t
  | 0x308 => k.hostsig.toNat
  | 0x408 => k.sched.evResult.toNat + 2 ^ 16 * k.sched.lostdec
  | 0x500 => k.ptroot.toNat
  | 0x508 => k.tlbinv.toNat
  | 0x510 => if k.tlbBusy then 1 else 0
  | 0x528 => k.fltrstat.toNat
  | 0x1000 => (k.mbx.cmd &&& commandFields).toNat
  | 0x1008 => mailStat k.mbx
  | _ =>
    if 0x2000 ≤ off ∧ off < 0x4000 then bufReg k.mbx (off - 0x2000)
    else if 0x600 ≤ off ∧ off < 0x660 then s.dbgReg t false (off - 0x600)
    else if 0x800 ≤ off ∧ off < 0x880 then s.sorReg t (off - 0x800)
    else
      match bankIndex off 0 16 0x20, bankIndex off 0xA00 8 0x40 with
      | some q, _ => queueReg (s.queue t q) (off % 0x20)
      | _, some i => stripeReg (s.stripe t i) (off % 0x40)
      | _, _ => 0

/-- A register of a function as it reads (R88). -/
def cfgRead (s : State) (fn off : Nat) : DWord := reg (if fn = 0 then s.pfReg off else s.vfReg (fn - 1) off)

/-! ### Access rules (R88) -/

/-- Registers marked 8-byte-only. -/
def only8 (fn off : Nat) : Bool :=
  if fn = 0 then off == 0x100 || off == 0x8000 || off == 0x8008 || (decide (0x7000 ≤ off) && decide (off < 0x7060))
  else off == 0x400 || off == 0x408 || off == 0x520 || (decide (0x600 ≤ off) && decide (off < 0x660)) ||
    (decide (0xA00 ≤ off) && decide (off < 0xC00)) || off == 0x1000 || off == 0x1008

/-- Registers whose bits act when written. -/
def actsOnWrite (fn off : Nat) : Bool :=
  if fn = 0 then
    off == 0 || off == 8 || off == 0x200 || off == 0x420 || (decide (0x1480 ≤ off) && decide (off < 0x1500)) ||
      (decide (0x3000 ≤ off) && decide (off < 0x3200) && off % 0x40 == 0x18) ||
      (decide (0x4000 ≤ off) && decide (off < 0x4200) && off % 0x40 == 0x10)
  else off == 0x508 || off == 0x820

/-! ### Writes -/

/-- A write of HBM_SPARECMD (R31, R33). -/
def writeSpare (s : State) (v : DWord) : State :=
  if !v.getLsbD 63 then s
  else
    let s := s.modPkg fun p => { p with spareCmd := v &&& 0x7FFFFFFFFFFFFFFF }
    match slice v 62 61 with
    | 0 => s.startSpare (some 0)
    | 3 => s.startSpare (some 2)
    | _ => s.startSpare none

/-- A write of FAB_PORTCTL (R38, R39): one that selects step 3 is discarded, and the port never runs faster than MINSTEP;
the margins that a retrain measures are free. -/
def writePortCtl (s : State) (n : Nat) (v : DWord) : State :=
  let m := slice v 3 2
  if m = 3 then s
  else
  let was := s.port n
  let s := s.modPort n fun k =>
    { k with disable := v.getLsbD 6, spareen := v.getLsbD 5, auto := v.getLsbD 4
             minstep := BitVec.ofNat 2 m, step := BitVec.ofNat 2 (max m k.step.toNat) }
  let s := if v.getLsbD 6 && !was.disable then stateOf s (execPortDisable n s) else s
  if v.getLsbD 7 then (let r := s.free; stateOf r.1 (execPortRetrain n (r.2.setWidth 2) r.1)) else s

/-- A write of FAB_DEADMAP[i] (R67). -/
def writeDeadmap (s : State) (i : Nat) (v : DWord) : State :=
  let s := s.modFab fun f => { f with deadReq := some (i, v) }
  stateOf s (if s.fab.deadOp then execDeadmapClear s else execDeadmapSet s)

/-- A write of a scheduling register (R125, R142). -/
def writeSched (s : State) (t o : Nat) (v : DWord) : State :=
  match o with
  | 0 =>
    s.modSched t fun k =>
      { k with cmin := BitVec.ofNat 6 (slice v 5 0), cmax := BitVec.ofNat 6 (slice v 11 6)
               hiwat := BitVec.ofNat 10 (slice v 21 12), lowat := BitVec.ofNat 10 (slice v 31 22)
               shrinkn := BitVec.ofNat 16 (slice v 47 32) }
  | 8 => s.modSched t fun k => { k with agestep := v.setWidth 8 }
  | 0x10 => s.modSched t fun k => { k with wdog := v.setWidth 32 }
  | 0x18 =>
    match slice v 1 0 with
    | 1 => stateOf s (execDrain t s)
    | 2 => stateOf s (execDrainResume t s)
    | 3 => stateOf s (execDrainRestore t s)
    | _ => s
  | 0x28 => s.modSched t fun k => { k with savebase := v &&& 0x01FFFFFFFFFFF000 }
  | _ => s

/-- A write of a tenant's management register (R91). -/
def writeTen (s : State) (t o : Nat) (v : DWord) : State :=
  match o with
  | 0 => s.writeTenCfg t v
  | 8 => s.writeTenPch t v
  | 0x10 =>
    if v.getLsbD 1 then stateOf s (execTenantResetRequest t s)
    else if v.getLsbD 2 then s.eraseTenant t
    else if v.getLsbD 0 then s.enableTenant t
    else stateOf s (execTenantDisable t s)
  | _ => s

/-- A write of a debug register (R272); `resident` selects resident blocks (R276). -/
def writeDbg (s : State) (t : Nat) (resident : Bool) (o : Nat) (v : DWord) : State :=
  match o with
  | 0 => s.modDbg t fun d => { d with en := v.getLsbD 0, hazchk := v.getLsbD 1, stopall := v.getLsbD 2 }
  | 8 => s.modDbg t fun d => { d with core := BitVec.ofNat 6 (slice v 5 0), entry := BitVec.ofNat 8 (slice v 15 8) }
  | 0x10 => if v.getLsbD 63 then s.debugCommand t (slice v 3 0) resident else s
  | 0x20 => s.modDbg t fun d => { d with buf := v &&& 0x01FFFFFFFFFFFFC0 }
  | _ =>
    match bankIndex o 0x40 4 8 with
    | some k => s.modDbg t fun d => { d with bp := d.bp.set k (v &&& 0x01FFFFFFFFFFFFFD) }
    | none => s

/-- Debug registers through the physical function, in the RETURN state (R276). -/
def writePfDbg (s : State) (o : Nat) (v : DWord) : State :=
  if s.pkg.lcstate ≠ 3 then s
  else
    let s := if o = 8 then
        s.modHost fun h => { h with dbgTenant := BitVec.ofNat 3 (slice v 18 16), dbgResident := v.getLsbD 19 }
      else s
    s.writeDbg s.host.dbgTenant.toNat s.host.dbgResident o v

/-- A 64-bit number placed in a 256-bit register at a byte offset. -/
def putWord (x : BitVec 256) (o : Nat) (v : DWord) : BitVec 256 :=
  (x &&& ~~~(BitVec.ofNat 256 ((2 ^ 64 - 1) * 2 ^ (8 * o)))) ||| BitVec.ofNat 256 (v.toNat * 2 ^ (8 * o))

/-- A 64-bit write to a register of the physical function. -/
def writePf (s : State) (off : Nat) (v : DWord) : State :=
  match off with
  | 0x0 => if v.getLsbD 1 then stateOf s (execLcerrClear s) else s
  | 0x8 => if v.getLsbD 0 then s.resetTrigger else s
  | 0x100 => s.writeSpare v
  | 0x200 => stateOf s (execCoreRetire v s)
  | 0x420 => if v.getLsbD 0 then stateOf s (execPkgMsextGo s) else s
  | 0x1410 => s.modFab fun f => { f with podSel := v.setWidth 10 }
  | 0x1420 => s.modFab fun f => { f with deadOp := v.getLsbD 63 }
  | 0x1428 => s.modFab fun f => { f with tmo := BitVec.ofNat 16 (max 500 (slice v 15 0)) }
  | 0x1430 => s.modFab fun f => { f with eyecfg := reg (slice v 31 0) }
  | 0x2000 => (s.modPwr fun p => { p with cap := BitVec.ofNat 12 (clampNat (slice v 11 0) 1600 3200) }).noteAlarm
  | 0x2010 =>
    if slice v 1 0 = 3 then s
    else s.modPwr fun p => { p with mode := BitVec.ofNat 2 (slice v 1 0), ramp := BitVec.ofNat 6 (slice v 7 2) }
  | 0x2100 => (s.modPwr fun p => { p with throttle := BitVec.ofNat 7 (clampNat (slice v 6 0) 85 105) }).noteAlarm
  | 0x3400 => s.writeOwner (v.setWidth 32)
  | 0x8000 => s.writeSecCmd v
  | _ =>
    if 0x400 ≤ off ∧ off < 0x420 then s.modHost fun h => { h with msExt := putWord h.msExt (off - 0x400) v }
    else if 0x10000 ≤ off ∧ off < 0x20000 then
      s.modHost fun h => { h with sec := h.sec.store 65536 (off - 0x10000) (bytesOf 8 v.toNat) }
    else if 0x7000 ≤ off ∧ off < 0x7060 then s.writePfDbg (off - 0x7000) v
    else
      match bankIndex off 0x1000 62 8, bankIndex off 0x1480 16 8, bankIndex off 0x3000 8 0x40, bankIndex off 0x4000 8 0x40 with
      | some n, _, _, _ => s.writePortCtl n v
      | _, some i, _, _ => s.writeDeadmap i v
      | _, _, some t, _ => s.writeSched t (off % 0x40) v
      | _, _, _, some t => s.writeTen t (off % 0x40) v
      | _, _, _, _ => s

/-- A write of a base address that must keep [11:0] and [63:57] zero (R95, R98). -/
def baseOk (v : DWord) : Bool := slice v 11 0 == 0 && slice v 63 57 == 0

/-- A write of FQCFG (R98). -/
def writeFqcfg (s : State) (t : Nat) (v : DWord) : State :=
  let n := slice v 4 0
  s.modFq t fun q =>
    if q.en then { q with en := v.getLsbD 8 }
    else { q with log2n := BitVec.ofNat 5 n, en := v.getLsbD 8 && decide (6 ≤ n) && decide (n ≤ 16) }

/-- A write of EVCTL (R132). -/
def writeEvctl (s : State) (t : Nat) (v : DWord) : State :=
  let name : Word := v.setWidth 32
  if !v.getLsbD 63 then s
  else stateOf s
    (match slice v 35 32 with
    | 1 => execEvctlResub t name s
    | 2 => execEvctlRetire t name s
    | 3 => execEvctlDiscard t name s
    | 4 => execEvctlRelaunch t name s
    | 5 => execEvctlSignal t name s
    | _ => execEvctlInvalid t s)

/-- A write of one of Sorrel's registers (R134, R135). -/
def writeSor (s : State) (t o : Nat) (v : DWord) : State :=
  match o with
  | 0 => s.modSor t fun k => { k with cfg := reg (slice v 31 0) }
  | 8 => s.modSor t fun k => { k with manbase := v &&& 0x01FFFFFFFFFFF000 }
  | 0x10 => s.modSor t fun k => { k with repbase := v &&& 0x01FFFFFFFFFFF000 }
  | 0x20 => if v.getLsbD 63 then s.commitSlot t (slice v 11 0) else s
  | 0x30 => s.modSor t fun k => { k with rsel := v.setWidth 12 }
  | 0x40 => s.modSor t fun k => { k with img := { k.img with w0 := v } }
  | 0x48 => s.modSor t fun k => { k with img := { k.img with w1 := v } }
  | 0x50 => s.modSor t fun k => { k with img := { k.img with w2 := v } }
  | 0x58 => s.modSor t fun k => { k with img := { k.img with w3 := v } }
  | _ => s

/-- A write of an operator-stream queue's register (R95, R97). -/
def writeQueue (s : State) (t q o : Nat) (v : DWord) : State :=
  match o with
  | 0 => if baseOk v && !(s.queue t q).en then s.modQueue t q fun k => { k with base := v } else s
  | 8 => s.writeQcfg t q v
  | 0x10 => s.writeQtail t q (v.setWidth 32)
  | _ => s

/-- A write of a stripe's register (R216). -/
def writeStripe (s : State) (t i o : Nat) (v : DWord) : State :=
  match o with
  | 0 => s.writeSldCfg t i v
  | 8 => s.writeSldLen t i v
  | _ =>
    match bankIndex o 0x10 4 8 with
    | some w => s.writeSldMem t i w v
    | none => if (s.stripe t i).valid then s.sldErr t i 6 else s

/-- A 64-bit write to a register of a virtual function. -/
def writeVf (s : State) (t off : Nat) (v : DWord) : State :=
  match off with
  | 0x200 => if baseOk v && !(s.tenant t).fq.en then s.modFq t fun q => { q with base := v } else s
  | 0x208 => s.writeFqcfg t v
  | 0x218 => s.writeFqhead t (v.setWidth 32)
  | 0x400 => s.writeEvctl t v
  | 0x500 => if slice v 63 57 = 0 ∧ slice v 11 2 = 0 then s.modTenant t fun k => { k with ptroot := v } else s
  | 0x508 => s.startTlbinv t v
  | 0x520 => s.resolveFault t v
  | 0x1000 => s.tenantTake t v
  | _ =>
    if 0x2000 ≤ off ∧ off < 0x4000 then
      s.modTenant t fun k => { k with mbx := k.mbx.store 8192 (off - 0x2000) (bytesOf 8 v.toNat) }
    else if 0x600 ≤ off ∧ off < 0x660 then s.writeDbg t false (off - 0x600) v
    else if 0x800 ≤ off ∧ off < 0x880 then s.writeSor t (off - 0x800) v
    else
      match bankIndex off 0 16 0x20, bankIndex off 0xA00 8 0x40 with
      | some q, _ => s.writeQueue t q (off % 0x20) v
      | _, some i => s.writeStripe t i (off % 0x40) v
      | _, _ => s

/-- The value that a 4-byte write makes of a register (R88): the other half keeps its value, or reads as zero where bits
act when written. -/
def mergeHalf (s : State) (fn off : Nat) (v : DWord) : DWord :=
  let r := off / 8 * 8
  let old := if actsOnWrite fn r then 0 else s.cfgRead fn r
  if off % 8 = 0 then (old &&& 0xFFFFFFFF00000000) ||| (v &&& 0xFFFFFFFF)
  else (old &&& 0xFFFFFFFF) ||| (v <<< (32 : Nat))

/-- A write of 8 bytes to a register. -/
def writeWhole (s : State) (fn off : Nat) (v : DWord) : State :=
  if fn = 0 then s.writePf off v else s.writeVf (fn - 1) off v

/-- A write of `size` bytes to a BAR 0 offset of a function (R88). -/
def writeBar (s : State) (fn off size : Nat) (v : DWord) : State :=
  if size = 8 ∧ off % 8 = 0 then s.writeWhole fn off v
  else if size = 4 ∧ off % 4 = 0 ∧ !only8 fn (off / 8 * 8) then s.writeWhole fn (off / 8 * 8) (s.mergeHalf fn off v)
  else s

/-- A read of `size` bytes at a BAR 0 offset of a function (R88): all ones where no access of that size or alignment is
taken. Before phase 5, and from a tenant in reset, the answer is Completer Abort (R23, R94); a function that is not
enabled claims no request, and its requester sees all ones (R88). A read of HOSTSIG that returns bit 32 clears it
(R408). -/
def readBar (s : State) (fn off size : Nat) : State × HostReply :=
  let r := off / 8 * 8
  let clear (s : State) : State := if fn ≠ 0 ∧ r = 0x308 then stateOf s (execHostsigRead (fn - 1) s) else s
  if !s.pwr.on || decide (8 < fn) || (fn != 0 && s.hostUp && !s.fnEnabled fn) then (s, .unsupported)
  else if !s.hostUp || (fn != 0 && !s.vfOpen (fn - 1)) then (s, .completerAbort)
  else if size = 8 ∧ off % 8 = 0 then (clear s, .value (s.cfgRead fn off))
  else if size = 4 ∧ off % 4 = 0 ∧ !only8 fn r then
    if off % 8 = 0 then (s, .value (s.cfgRead fn r &&& 0xFFFFFFFF)) else (clear s, .value (s.cfgRead fn r >>> (32 : Nat)))
  else (s, .value (BitVec.allOnes 64))

/-! ### Configuration space (R23, R86, R87) -/

/-- What a field of a function's configuration space reads as (R87). BAR 0 reads as the host has set it: its address bits
are the host's, and its low bits say 64-bit and non-prefetchable, as PCI Express gives. That of the virtual functions stands
in the SR-IOV capability of the physical function, and in their own configuration spaces reads zero (R86;
notes/assumptions/24.md). -/
def configField (s : State) (fn : Nat) : ConfigField → Nat
  | .vendorId => 0x1F4E
  | .deviceId => if fn = 0 then 0x0960 else 0x0961
  | .classCode => 0x120000
  | .bar 0 => if fn = 0 then s.host.bar0.toNat / 2 ^ 17 * 2 ^ 17 % 2 ^ 32 + 4 else 0
  | .bar 1 => if fn = 0 then s.host.bar0.toNat / 2 ^ 32 else 0
  | .bar _ => 0
  | .vfBar 0 => if fn = 0 then s.host.vfBar0.toNat / 2 ^ 14 * 2 ^ 14 % 2 ^ 32 + 4 else 0
  | .vfBar 1 => if fn = 0 then s.host.vfBar0.toNat / 2 ^ 32 else 0
  | .vfBar _ => 0
  | .totalVfs => if fn = 0 then 8 else 0
  | .initialVfs => if fn = 0 then 8 else 0
  | .firstVfOffset => if fn = 0 then 1 else 0
  | .vfStride => if fn = 0 then 1 else 0
  | .numVfs => if fn = 0 then s.host.numVfs else 0
  | .vfEnable => if fn = 0 ∧ s.host.vfEnable then 1 else 0

/-- A configuration read: Request Retry Status until phase 5 begins (R23); a virtual function that is not enabled does not
answer (R88). -/
def readConfig (s : State) (fn : Nat) (f : ConfigField) : HostReply :=
  if !s.pwr.on || decide (8 < fn) then .unsupported
  else if !s.hostUp then .retryStatus
  else if fn != 0 && !s.fnEnabled fn then .unsupported
  else .value (reg (s.configField fn f))

/-- A configuration write that takes effect: the address bits of BAR 0, whose size is 128 KiB (R87). NumVFs and VF Enable
have events of their own. -/
def writeBase (s : State) (v : DWord) : State :=
  if s.hostUp then s.modHost fun h => { h with bar0 := v &&& 0xFFFFFFFFFFFE0000 } else s

/-- The same of BAR 0 of the virtual functions, 16 KiB each (R87). -/
def writeVfBase (s : State) (v : DWord) : State :=
  if s.hostUp then s.modHost fun h => { h with vfBar0 := v &&& 0xFFFFFFFFFFFFC000 } else s

end State

/-- A write of a register (R88). -/
def execRegisterWrite (fn : Nat) (off : Nat) (size : Nat) (value : DWord) (s : State) : Host.Outcome State Fault Refusal :=
  let open_ := if fn = 0 then s.hostUp else s.vfOpen (fn - 1)
  .next (if open_ then s.writeBar fn off size value else s)

end Sys2Proof.Machine
end

