-- ==== Sys2Proof/Machine/Dispatch.lean ====
section
/-! DEFINITION. The meaning of every instruction and event: one arm per constructor of Instr, each a direct call of its
meaning. -/

namespace Sys2Proof.Machine

def exec (i : Instr) (s : State) : Host.Outcome State Fault Refusal :=
  match i with
  | .inputVoltageChange mv => Sys2Proof.Machine.execInputVoltageChange mv s
  | .powerOnReset holdupOk => Sys2Proof.Machine.execPowerOnReset holdupOk s
  | .thermSample celsius => Sys2Proof.Machine.execThermSample celsius s
  | .powerWindow watts => Sys2Proof.Machine.execPowerWindow watts s
  | .sbDynamicAddress addr => Sys2Proof.Machine.execSbDynamicAddress addr s
  | .sbIndexWrite data => Sys2Proof.Machine.execSbIndexWrite data s
  | .sbRead count => Sys2Proof.Machine.execSbRead count s
  | .spareDone => Sys2Proof.Machine.execSpareDone s
  | .coreRetire mask => Sys2Proof.Machine.execCoreRetire mask s
  | .corePowerDown core => Sys2Proof.Machine.execCorePowerDown core s
  | .portRetrain port margin => Sys2Proof.Machine.execPortRetrain port margin s
  | .portDisable port => Sys2Proof.Machine.execPortDisable port s
  | .eyeMeasurement port lane margin fec => Sys2Proof.Machine.execEyeMeasurement port lane margin fec s
  | .laneFailure port lane => Sys2Proof.Machine.execLaneFailure port lane s
  | .portResume port => Sys2Proof.Machine.execPortResume port s
  | .portTrained port => Sys2Proof.Machine.execPortTrained port s
  | .matrixIdleGap core => Sys2Proof.Machine.execMatrixIdleGap core s
  | .packetForward inPort p => Sys2Proof.Machine.execPacketForward inPort p s
  | .custodyAck held => Sys2Proof.Machine.execCustodyAck held s
  | .custodyTimeout held => Sys2Proof.Machine.execCustodyTimeout held s
  | .localtmo tag => Sys2Proof.Machine.execLocaltmo tag s
  | .tagReuseTimeout tag => Sys2Proof.Machine.execTagReuseTimeout tag s
  | .gapSkipTimeout stream => Sys2Proof.Machine.execGapSkipTimeout stream s
  | .reductionTimeout collid chunk => Sys2Proof.Machine.execReductionTimeout collid chunk s
  | .reductionForget collid chunk => Sys2Proof.Machine.execReductionForget collid chunk s
  | .evsigResendStop flag peer => Sys2Proof.Machine.execEvsigResendStop flag peer s
  | .numvfsWrite n => Sys2Proof.Machine.execNumvfsWrite n s
  | .functionLevelReset vf => Sys2Proof.Machine.execFunctionLevelReset vf s
  | .tenCfgWrite tenant value => Sys2Proof.Machine.execTenCfgWrite tenant value s
  | .tenantResetRequest tenant => Sys2Proof.Machine.execTenantResetRequest tenant s
  | .pewerase tenant => Sys2Proof.Machine.execPewerase tenant s
  | .tenantEnable tenant => Sys2Proof.Machine.execTenantEnable tenant s
  | .tenantDisable tenant => Sys2Proof.Machine.execTenantDisable tenant s
  | .tenantResetEnd tenant => Sys2Proof.Machine.execTenantResetEnd tenant s
  | .keyRotationDone tenant => Sys2Proof.Machine.execKeyRotationDone tenant s
  | .queueEnable tenant queue value => Sys2Proof.Machine.execQueueEnable tenant queue value s
  | .queueDisable tenant queue => Sys2Proof.Machine.execQueueDisable tenant queue s
  | .qtailWrite tenant queue value => Sys2Proof.Machine.execQtailWrite tenant queue value s
  | .grid tenant queue => Sys2Proof.Machine.execGrid tenant queue s
  | .arm tenant queue => Sys2Proof.Machine.execArm tenant queue s
  | .signal tenant queue => Sys2Proof.Machine.execSignal tenant queue s
  | .nopOperator tenant queue => Sys2Proof.Machine.execNopOperator tenant queue s
  | .fqheadWrite tenant value => Sys2Proof.Machine.execFqheadWrite tenant value s
  | .faultRecordWrite tenant => Sys2Proof.Machine.execFaultRecordWrite tenant s
  | .jobDelivery tenant => Sys2Proof.Machine.execJobDelivery tenant s
  | .jobRetire entry => Sys2Proof.Machine.execJobRetire entry s
  | .evctlResub tenant name => Sys2Proof.Machine.execEvctlResub tenant name s
  | .evctlRetire tenant name => Sys2Proof.Machine.execEvctlRetire tenant name s
  | .evctlDiscard tenant name => Sys2Proof.Machine.execEvctlDiscard tenant name s
  | .evctlRelaunch tenant name => Sys2Proof.Machine.execEvctlRelaunch tenant name s
  | .evctlSignal tenant name => Sys2Proof.Machine.execEvctlSignal tenant name s
  | .evctlInvalid tenant => Sys2Proof.Machine.execEvctlInvalid tenant s
  | .sorOwnerWrite value => Sys2Proof.Machine.execSorOwnerWrite value s
  | .sorWcmt tenant slot => Sys2Proof.Machine.execSorWcmt tenant slot s
  | .sorrelBoundary tenant => Sys2Proof.Machine.execSorrelBoundary tenant s
  | .drain tenant => Sys2Proof.Machine.execDrain tenant s
  | .drainResume tenant => Sys2Proof.Machine.execDrainResume tenant s
  | .drainRestore tenant => Sys2Proof.Machine.execDrainRestore tenant s
  | .drainWatchdog core => Sys2Proof.Machine.execDrainWatchdog core s
  | .drainSave tenant => Sys2Proof.Machine.execDrainSave tenant s
  | .restoreDone tenant => Sys2Proof.Machine.execRestoreDone tenant s
  | .secCommandDone tenant => Sys2Proof.Machine.execSecCommandDone tenant s
  | .tenantAttest tenant cmd => Sys2Proof.Machine.execTenantAttest tenant cmd s
  | .tenantGetcert tenant cmd => Sys2Proof.Machine.execTenantGetcert tenant cmd s
  | .hostsigRead tenant => Sys2Proof.Machine.execHostsigRead tenant s
  | .registerWrite fn off size value => Sys2Proof.Machine.execRegisterWrite fn off size value s
  | .stripeEnable tenant idx value => Sys2Proof.Machine.execStripeEnable tenant idx value s
  | .stripeDisable tenant idx => Sys2Proof.Machine.execStripeDisable tenant idx s
  | .stripeMarkLost tenant idx value => Sys2Proof.Machine.execStripeMarkLost tenant idx value s
  | .stripeRebuildEnd tenant idx => Sys2Proof.Machine.execStripeRebuildEnd tenant idx s
  | .stripeZeroDone tenant idx => Sys2Proof.Machine.execStripeZeroDone tenant idx s
  | .rebuildRow tenant idx => Sys2Proof.Machine.execRebuildRow tenant idx s
  | .tlbinv tenant value => Sys2Proof.Machine.execTlbinv tenant value s
  | .tlbinvDone tenant => Sys2Proof.Machine.execTlbinvDone tenant s
  | .pageWalk core tenant va => Sys2Proof.Machine.execPageWalk core tenant va s
  | .fltres tenant value => Sys2Proof.Machine.execFltres tenant value s
  | .groupReplay gid => Sys2Proof.Machine.execGroupReplay gid s
  | .memoryError st place correctable => Sys2Proof.Machine.execMemoryError st place correctable s
  | .twinCompare gid => Sys2Proof.Machine.execTwinCompare gid s
  | .dbgStop tenant => Sys2Proof.Machine.execDbgStop tenant s
  | .dbgStep tenant => Sys2Proof.Machine.execDbgStep tenant s
  | .dbgResume tenant => Sys2Proof.Machine.execDbgResume tenant s
  | .dbgReadimg tenant => Sys2Proof.Machine.execDbgReadimg tenant s
  | .dbgWriteimg tenant => Sys2Proof.Machine.execDbgWriteimg tenant s
  | .dbgInvalid tenant => Sys2Proof.Machine.execDbgInvalid tenant s
  | .clauseStart gid => Sys2Proof.Machine.execClauseStart gid s
  | .groupPromotion gid => Sys2Proof.Machine.execGroupPromotion gid s
  | .resultWriteback gid k lanes => Sys2Proof.Machine.execResultWriteback gid k lanes s
  | .yieldExpiry gid => Sys2Proof.Machine.execYieldExpiry gid s
  | .sleepTimeout gid => Sys2Proof.Machine.execSleepTimeout gid s
  | .regroupRepack block => Sys2Proof.Machine.execRegroupRepack block s
  | .groupDrainEnd gid => Sys2Proof.Machine.execGroupDrainEnd gid s
  | .accessEngineRead gid queue => Sys2Proof.Machine.execAccessEngineRead gid queue s
  | .asyncCopyWrite core k count => Sys2Proof.Machine.execAsyncCopyWrite core k count s
  | .bankroleApply core => Sys2Proof.Machine.execBankroleApply core s
  | .collChunkTimeout core collid chunk => Sys2Proof.Machine.execCollChunkTimeout core collid chunk s
  | .nop o => Sys2Proof.Machine.execNop o s
  | .bra o => Sys2Proof.Machine.execBra o s
  | .brd o => Sys2Proof.Machine.execBrd o s
  | .bri o => Sys2Proof.Machine.execBri o s
  | .call o => Sys2Proof.Machine.execCall o s
  | .ret o => Sys2Proof.Machine.execRet o s
  | .loop o => Sys2Proof.Machine.execLoop o s
  | .lbrk o => Sys2Proof.Machine.execLbrk o s
  | .enrol o => Sys2Proof.Machine.execEnrol o s
  | .park o => Sys2Proof.Machine.execPark o s
  | .strike o => Sys2Proof.Machine.execStrike o s
  | .regang o => Sys2Proof.Machine.execRegang o s
  | .yield o => Sys2Proof.Machine.execYield o s
  | .exit o => Sys2Proof.Machine.execExit o s
  | .jobend o => Sys2Proof.Machine.execJobend o s
  | .trap o => Sys2Proof.Machine.execTrap o s
  | .bkpt o => Sys2Proof.Machine.execBkpt o s
  | .sleep o => Sys2Proof.Machine.execSleep o s
  | .gets o => Sys2Proof.Machine.execGets o s
  | .setsSrseed o => Sys2Proof.Machine.execSetsSrseed o s
  | .setsSorbnd o => Sys2Proof.Machine.execSetsSorbnd o s
  | .setsHostsig o => Sys2Proof.Machine.execSetsHostsig o s
  | .setsBankrole o => Sys2Proof.Machine.execSetsBankrole o s
  | .setsTlbinv o => Sys2Proof.Machine.execSetsTlbinv o s
  | .setsFltres o => Sys2Proof.Machine.execSetsFltres o s
  | .mbxpop o => Sys2Proof.Machine.execMbxpop o s
  | .enqop o => Sys2Proof.Machine.execEnqop o s
  | .evsig o => Sys2Proof.Machine.execEvsig o s
  | .acq o => Sys2Proof.Machine.execAcq o s
  | .tryacq o => Sys2Proof.Machine.execTryacq o s
  | .rel o => Sys2Proof.Machine.execRel o s
  | .claimq o => Sys2Proof.Machine.execClaimq o s
  | .iadd o => Sys2Proof.Machine.execIadd o s
  | .isub o => Sys2Proof.Machine.execIsub o s
  | .imul o => Sys2Proof.Machine.execImul o s
  | .imulh o => Sys2Proof.Machine.execImulh o s
  | .imad o => Sys2Proof.Machine.execImad o s
  | .iabs o => Sys2Proof.Machine.execIabs o s
  | .imin o => Sys2Proof.Machine.execImin o s
  | .imax o => Sys2Proof.Machine.execImax o s
  | .and o => Sys2Proof.Machine.execAnd o s
  | .or o => Sys2Proof.Machine.execOr o s
  | .xor o => Sys2Proof.Machine.execXor o s
  | .andn o => Sys2Proof.Machine.execAndn o s
  | .shl o => Sys2Proof.Machine.execShl o s
  | .shr o => Sys2Proof.Machine.execShr o s
  | .sar o => Sys2Proof.Machine.execSar o s
  | .rot o => Sys2Proof.Machine.execRot o s
  | .popc o => Sys2Proof.Machine.execPopc o s
  | .clz o => Sys2Proof.Machine.execClz o s
  | .brev o => Sys2Proof.Machine.execBrev o s
  | .bfx o => Sys2Proof.Machine.execBfx o s
  | .bfi o => Sys2Proof.Machine.execBfi o s
  | .icmp o => Sys2Proof.Machine.execIcmp o s
  | .isel o => Sys2Proof.Machine.execIsel o s
  | .mov o => Sys2Proof.Machine.execMov o s
  | .movi o => Sys2Proof.Machine.execMovi o s
  | .lea o => Sys2Proof.Machine.execLea o s
  | .cvti o => Sys2Proof.Machine.execCvti o s
  | .pand o => Sys2Proof.Machine.execPand o s
  | .por o => Sys2Proof.Machine.execPor o s
  | .pxor o => Sys2Proof.Machine.execPxor o s
  | .pnot o => Sys2Proof.Machine.execPnot o s
  | .fadd o => Sys2Proof.Machine.execFadd o s
  | .fsub o => Sys2Proof.Machine.execFsub o s
  | .fmul o => Sys2Proof.Machine.execFmul o s
  | .ffma o => Sys2Proof.Machine.execFfma o s
  | .ffma2 o => Sys2Proof.Machine.execFfma2 o s
  | .hfma2 o => Sys2Proof.Machine.execHfma2 o s
  | .fmin o => Sys2Proof.Machine.execFmin o s
  | .fmax o => Sys2Proof.Machine.execFmax o s
  | .fcmp o => Sys2Proof.Machine.execFcmp o s
  | .fsel o => Sys2Proof.Machine.execFsel o s
  | .frnd o => Sys2Proof.Machine.execFrnd o s
  | .fcvt o => Sys2Proof.Machine.execFcvt o s
  | .frcp o => Sys2Proof.Machine.execFrcp o s
  | .frsq o => Sys2Proof.Machine.execFrsq o s
  | .fsqrt o => Sys2Proof.Machine.execFsqrt o s
  | .fexp2 o => Sys2Proof.Machine.execFexp2 o s
  | .flog2 o => Sys2Proof.Machine.execFlog2 o s
  | .fsin o => Sys2Proof.Machine.execFsin o s
  | .fcos o => Sys2Proof.Machine.execFcos o s
  | .ftanh o => Sys2Proof.Machine.execFtanh o s
  | .fscl o => Sys2Proof.Machine.execFscl o s
  | .ffrx o => Sys2Proof.Machine.execFfrx o s
  | .fcls o => Sys2Proof.Machine.execFcls o s
  | .fdot2 o => Sys2Proof.Machine.execFdot2 o s
  | .shfl o => Sys2Proof.Machine.execShfl o s
  | .qxch o => Sys2Proof.Machine.execQxch o s
  | .ballot o => Sys2Proof.Machine.execBallot o s
  | .vote o => Sys2Proof.Machine.execVote o s
  | .match_ o => Sys2Proof.Machine.execMatch o s
  | .redux o => Sys2Proof.Machine.execRedux o s
  | .scan o => Sys2Proof.Machine.execScan o s
  | .firstl o => Sys2Proof.Machine.execFirstl o s
  | .trdrow o => Sys2Proof.Machine.execTrdrow o s
  | .twrrow o => Sys2Proof.Machine.execTwrrow o s
  | .trdcol o => Sys2Proof.Machine.execTrdcol o s
  | .twrcol o => Sys2Proof.Machine.execTwrcol o s
  | .ld o => Sys2Proof.Machine.execLd o s
  | .st o => Sys2Proof.Machine.execSt o s
  | .lds o => Sys2Proof.Machine.execLds o s
  | .sts o => Sys2Proof.Machine.execSts o s
  | .ldv o => Sys2Proof.Machine.execLdv o s
  | .stv o => Sys2Proof.Machine.execStv o s
  | .atom o => Sys2Proof.Machine.execAtom o s
  | .red o => Sys2Proof.Machine.execRed o s
  | .fence o => Sys2Proof.Machine.execFence o s
  | .sfence o => Sys2Proof.Machine.execSfence o s
  | .pbar o => Sys2Proof.Machine.execPbar o s
  | .cflush o => Sys2Proof.Machine.execCflush o s
  | .cinv o => Sys2Proof.Machine.execCinv o s
  | .pref o => Sys2Proof.Machine.execPref o s
  | .mcast o => Sys2Proof.Machine.execMcast o s
  | .acpy o => Sys2Proof.Machine.execAcpy o s
  | .abatch o => Sys2Proof.Machine.execAbatch o s
  | .await o => Sys2Proof.Machine.execAwait o s
  | .tcpy o => Sys2Proof.Machine.execTcpy o s
  | .rcpy o => Sys2Proof.Machine.execRcpy o s
  | .coll o => Sys2Proof.Machine.execColl o s
  | .bari o => Sys2Proof.Machine.execBari o s
  | .barx o => Sys2Proof.Machine.execBarx o s
  | .bara o => Sys2Proof.Machine.execBara o s
  | .barw o => Sys2Proof.Machine.execBarw o s
  | .bsync o => Sys2Proof.Machine.execBsync o s
  | .csync o => Sys2Proof.Machine.execCsync o s
  | .qinit o => Sys2Proof.Machine.execQinit o s
  | .qpush o => Sys2Proof.Machine.execQpush o s
  | .qpop o => Sys2Proof.Machine.execQpop o s
  | .qtry o => Sys2Proof.Machine.execQtry o s
  | .mclaim o => Sys2Proof.Machine.execMclaim o s
  | .mrel o => Sys2Proof.Machine.execMrel o s
  | .mma o => Sys2Proof.Machine.execMma o s
  | .mmas o => Sys2Proof.Machine.execMmas o s
  | .azero o => Sys2Proof.Machine.execAzero o s
  | .ast o => Sys2Proof.Machine.execAst o s
  | .acvt o => Sys2Proof.Machine.execAcvt o s
  | .mburst o => Sys2Proof.Machine.execMburst o s
  | .cvtn o => Sys2Proof.Machine.execCvtn o s
  | .cvtw o => Sys2Proof.Machine.execCvtw o s
  | .sclx o => Sys2Proof.Machine.execSclx o s
  | .packn o => Sys2Proof.Machine.execPackn o s
  | .unpkn o => Sys2Proof.Machine.execUnpkn o s
  | .recordRefused tenant queue => Sys2Proof.Machine.execRecordRefused tenant queue s
  | .ringReadFault tenant queue => Sys2Proof.Machine.execRingReadFault tenant queue s
  | .vectorUnmask fn vector => Sys2Proof.Machine.execVectorUnmask fn vector s
  | .linkTraining flit => Sys2Proof.Machine.execLinkTraining flit s
  | .portDown port => Sys2Proof.Machine.execPortDown port s
  | .tenantMailboxRefused tenant cmd => Sys2Proof.Machine.execTenantMailboxRefused tenant cmd s
  | .powerInputLost => Sys2Proof.Machine.execPowerInputLost s
  | .perstNAssert => Sys2Proof.Machine.execPerstNAssert s
  | .perstNRelease => Sys2Proof.Machine.execPerstNRelease s
  | .pcieHotReset => Sys2Proof.Machine.execPcieHotReset s
  | .devrst => Sys2Proof.Machine.execDevrst s
  | .persistDrain => Sys2Proof.Machine.execPersistDrain s
  | .wipe => Sys2Proof.Machine.execWipe s
  | .measuredBoot => Sys2Proof.Machine.execMeasuredBoot s
  | .modReady => Sys2Proof.Machine.execModReady s
  | .thermalTrip => Sys2Proof.Machine.execThermalTrip s
  | .pwrAlertChange => Sys2Proof.Machine.execPwrAlertChange s
  | .spareNop => Sys2Proof.Machine.execSpareNop s
  | .softSpare => Sys2Proof.Machine.execSoftSpare s
  | .hardSpare => Sys2Proof.Machine.execHardSpare s
  | .spareReserved => Sys2Proof.Machine.execSpareReserved s
  | .capRefill => Sys2Proof.Machine.execCapRefill s
  | .deadmapSet => Sys2Proof.Machine.execDeadmapSet s
  | .deadmapClear => Sys2Proof.Machine.execDeadmapClear s
  | .vfEnable => Sys2Proof.Machine.execVfEnable s
  | .vfEnableClear => Sys2Proof.Machine.execVfEnableClear s
  | .getnonce => Sys2Proof.Machine.execGetnonce s
  | .attest => Sys2Proof.Machine.execAttest s
  | .getcert => Sys2Proof.Machine.execGetcert s
  | .lcreq => Sys2Proof.Machine.execLcreq s
  | .lcCommit => Sys2Proof.Machine.execLcCommit s
  | .stage => Sys2Proof.Machine.execStage s
  | .secInvalid => Sys2Proof.Machine.execSecInvalid s
  | .pkgMsextGo => Sys2Proof.Machine.execPkgMsextGo s
  | .lcerrClear => Sys2Proof.Machine.execLcerrClear s
  | .rd => Sys2Proof.Machine.execRd s
  | .rdrsp => Sys2Proof.Machine.execRdrsp s
  | .wr => Sys2Proof.Machine.execWr s
  | .wrack => Sys2Proof.Machine.execWrack s
  | .atReq => Sys2Proof.Machine.execAtReq s
  | .atrsp => Sys2Proof.Machine.execAtrsp s
  | .mc => Sys2Proof.Machine.execMc s
  | .mcack => Sys2Proof.Machine.execMcack s
  | .rcp => Sys2Proof.Machine.execRcp s
  | .rcpack => Sys2Proof.Machine.execRcpack s
  | .redPkt => Sys2Proof.Machine.execRedPkt s
  | .redres => Sys2Proof.Machine.execRedres s
  | .evsub => Sys2Proof.Machine.execEvsub s
  | .evsigPkt => Sys2Proof.Machine.execEvsigPkt s
  | .sdelta => Sys2Proof.Machine.execSdelta s
  | .sdack => Sys2Proof.Machine.execSdack s
  | .srbld => Sys2Proof.Machine.execSrbld s
  | .srbldrsp => Sys2Proof.Machine.execSrbldrsp s
  | .errNotice => Sys2Proof.Machine.execErrNotice s
  | .gap => Sys2Proof.Machine.execGap s
  | .restart => Sys2Proof.Machine.execRestart s
  | .restartAck => Sys2Proof.Machine.execRestartAck s
  | .mgmt => Sys2Proof.Machine.execMgmt s

end Sys2Proof.Machine
end

