-- ==== Sys2Proof/Machine/Issue.lean ====
section
/-! DEFINITION. What one step of the machine does: which agent moves, what a sector issues (R155, R160), what follows an
instruction (R169, R292), and the program that the tools place (notes/assumptions/4.md, notes/assumptions/34.md). -/

namespace Sys2Proof.Machine

/-- What a step has to do: nothing, because no clock runs; the meaning of an instruction or event in a prepared state; or
no more than the state given. -/
inductive Work where
  | halt
  | run (i : Instr) (s : State)
  | done (s : State)
  deriving DecidableEq, Repr

namespace State

/-! ### A sector's turn (R48, R155) -/

/-- Parked groups of a sector whose wait is over go on, ended STEPs stop, and groups wait for what the WAIT bits of their
next clause name (R155, R274, R293). -/
def wakeSector (s : State) (sec : Nat) : State :=
  (s.sectorGroups sec).foldl (fun s g => ((s.tryResume g).endStep g).holdWaits g) s

/-- The group that a sector chooses; under the issue limit none in every second clk (R48, R155). -/
def chosen (s : State) (sec : Nat) : Option Nat :=
  if s.pwr.isslim && !s.pwr.slot then none else s.choose ((s.sectorGroups sec).filter fun g => s.groupReady g)

/-- One clk of a sector's groups (R155, R315). -/
def tickSector (s : State) (sec : Nat) (who : Option Nat) : State :=
  (s.placedOrder sec).foldl (fun s g => s.tickGroup who g) s

/-- A STEP that finds its part within a clause finishes that clause (R274). -/
def stepWithin (s : State) (g : Nat) : State :=
  match issuePart (s.group g) with
  | none => s
  | some p => if betweenClauses p ∨ (s.group g).iss.stepping ≠ 1 then s
    else s.modIss g fun i => { i with stepping := 2, stepPart := p.quads }

/-- The chosen group's next instruction becomes the one that issues, unless a clause start has parked or stopped the
group. -/
def present (s : State) (g : Nat) : State :=
  let x := s.group g
  if x.park ≠ .none ∨ x.iss.stopped.isSome then s
  else
    match (issuePart x).bind fun p => issueOf x g p with
    | none => s
    | some (c, _) => { s with cur := some c }

/-- The instruction that the issue state names: the captured one in a replay, else the one its part stands at. -/
def presented (s : State) (c : Issue) : Option Instr :=
  match c.replay with
  | some k => if (s.group c.gid).ops.captures.any fun x => x.id == k.id then some k.instr else none
  | none => (((s.group c.gid).flow.partOf? c.quads).bind fun p => p.clause).bind fun k => k.instrs[c.idx]?

/-- A sector's turn up to its instruction. -/
def prepare (s : State) (sec : Nat) : State :=
  let s := s.wakeSector sec
  match s.chosen sec with
  | none => s.tickSector sec none
  | some g =>
    let s := s.tickSector sec (some g)
    if replayNext (s.group g) then s.beginReplay g else ((s.stepWithin g).startNext g).present g

/-- The work of a state in which an instruction may stand ready to issue. -/
def launch (s : State) : Work :=
  match s.cur with
  | none => .done s
  | some c =>
    match s.presented c with
    | none => .done { s with cur := none }
    | some i => .run i s

/-! ### Work that needs no instruction -/

/-- The next phase of the reset sequence (R23). -/
def phaseEvent (s : State) : Option Instr :=
  match s.pkg.phase with
  | .stop => some .persistDrain
  | .drain => some .wipe
  | .wipe => some .measuredBoot
  | .boot => some .modReady
  | _ => none

/-- The event that the oldest packet of the arrival queue is (R60). -/
def packetEvent (p : Packet) : Option Instr :=
  match p.typ.toNat with
  | 0 => some .rd
  | 1 => some .rdrsp
  | 2 => some .wr
  | 3 => some .wrack
  | 4 => some .atReq
  | 5 => some .atrsp
  | 6 => some .mc
  | 7 => some .mcack
  | 8 => some .rcp
  | 9 => some .rcpack
  | 10 => some .redPkt
  | 11 => some .redres
  | 12 => some .evsub
  | 13 => some .evsigPkt
  | 14 => some .sdelta
  | 15 => some .sdack
  | 16 => some .srbld
  | 17 => some .srbldrsp
  | 18 => some .errNotice
  | 19 => some .gap
  | 20 =>
    match mgmtCode p with
    | 1 => some .restart
    | 2 => some .restartAck
    | _ => some .mgmt
  | _ => none

/-- The oldest packet leaves the arrival queue. -/
def dropPacket (s : State) : State := s.modFab fun f => { f with inbox := f.inbox.drop 1 }

/-- The firmware's turn: sparing, life cycle, mailbox (R29, R32, R104). Whether a spare's stack failed is a free value
(notes/assumptions/58.md). -/
def packageTurn (s : State) : State :=
  let s := s.finishSpare
  let s := s.commitLc
  if s.host.sec.busy then (s.modHost fun h => { h with sec := Mailbox.finish h.sec }).signal 0 1 else s

/-- What a tenant's resets, keys, mailbox, invalidation and fault records have due (R94, R98, R99, R109, R250). -/
def tenantTurn (s : State) (t : Nat) : State :=
  let k := s.tenant t
  let s := if k.st = .resetting then
      ((s.setTenState t (if k.endDisabled then .disabled else .active)).modTenant t fun k =>
        { k with endDisabled := false }).restartWorkers t
    else s
  let s := s.endRotation t
  let s := if (s.tenant t).mbx.busy then
      (s.modTenant t fun k => { k with mbx := Mailbox.finish k.mbx }).signal (t + 1) 2
    else s
  let s := if (s.tenant t).tlbBusy && !s.accessesOut t then s.endTlbinv t else s
  s.writeRecord t

/-- What a tenant's stripes have due (R217, R221). -/
def stripeTurn (s : State) (t i : Nat) : State :=
  let k := s.stripe t i
  if !k.valid then s
  else if k.rstate = 1 then s.zeroRegion t i
  else if k.rstate = 3 ∧ k.due = 0 then s.rebuiltRow t i
  else s

/-- What Tarragon and Sorrel have due for a tenant (R114, R124, R138, R142). -/
def schedTurn (s : State) (t : Nat) : State :=
  let s := if (s.tenant t).sor.under then s.boundaryEnd t else s
  let d := (s.tenant t).sched.dstate
  let s :=
    if d = 1 ∧ s.drainQuiet t then (s.setDstate t 2).stopWatchdogs t
    else if d = 2 then s.writeSave t
    else if d = 4 then s.restore t
    else s
  let s := (((s.evctlTurn t).debugTurn t).rereadRecord t).decodeTurn t
  (s.deliverTurn t).getD s

/-- What a group's drain, compare point, sleep and results have due (R164, R267, R291, R401). -/
def groupTurn (s : State) (g : Nat) : State :=
  if !s.hasGroup g then s
  else
    let s := (s.flushPend g).onGroup g fun x => if x.park = .sleep then { x with park := .none } else x
    let s := if atPoint (s.group g) then s.compareTwin g else s
    if (s.group g).park = .draining then
      let s := (s.reportErrs g fun _ => true).reportCopies g fun _ => true
      if (s.group g).park = .draining ∧ s.drained g then s.endDrain g else s
    else s

/-- What a core's store buffer, engines and bank roles have due (R186, R191, R192, R197). -/
def coreTurn (s : State) (c : Nat) : State :=
  let s := if (s.core c).store = [] then s else s.drainNth c 0
  let s := match (s.core c).copies.find? fun y => !y.failed with
    | none => s
    | some y => s.writeLines c y.id 1
  if s.rolesDue c then s.applyRoles c else s

/-- A microsecond's refill has something to bring: some budget is below its cap (R103). -/
def budgetWanted (s : State) : Bool :=
  (List.range 9).any fun t =>
    decide (Map.get (0 : Int) s.fab.budget t < (s.boundary t).capFab.toNat) ||
      decide (Map.get (0 : Int) s.fab.hostBudget t < (s.boundary t).capHost.toNat)

/-- One round of everything in the module that is not a sector: an order of the model's own (notes/assumptions/34.md). -/
def background (s : State) : State :=
  let s := s.packageTurn
  let ts := (Map.keys s.tenants).filter fun t => decide (t < 8)
  let s := ts.foldl (fun s t => s.tenantTurn t) s
  let s := ts.foldl (fun s t => (Map.keys (s.tenant t).stripes).foldl (fun s i => s.stripeTurn t i) s) s
  let s := ts.foldl (fun s t => s.schedTurn t) s
  let s := ((Map.keys s.events).filter fun e => s.canRetire e).foldl (fun s e => s.retireJob e) s
  let s := (Map.keys s.cores).foldl (fun s c => s.coreTurn c) s
  let s := ((List.range 64).filter fun c => s.retired c).foldl (fun s c => s.powerCoreDown c) s
  let s := (Map.keys s.groups).foldl (fun s g => s.groupTurn g) s
  let s := (Map.keys s.blocks).foldl (fun s b => s.repack b) s
  { s with pwr := { s.pwr with slot := if s.pwr.isslim then !s.pwr.slot else true } }

/-! ### Turns -/

/-- The number of the turn in which everything but the sectors moves; sectors are turns 0 to 1023 (R153). -/
def backgroundTurn : Nat := 1024

/-- The next turn after `n`: the next sector that has a group, or the background. -/
def nextTurn (s : State) (n : Nat) : Nat :=
  let secs := (Map.keys s.groups).map sectorOf
  let later := if n = backgroundTurn then secs else secs.filter fun k => decide (n < k)
  match later.filter fun k => decide (k < backgroundTurn) with
  | [] => backgroundTurn
  | k :: ks => ks.foldl min k

/-- A move of the agenda that is no event. -/
def moveWork (s : State) (m : Move) : Work :=
  match m with
  | .ev i => .run i s
  | .issue sec => (s.prepare sec).launch
  | .drainStore c k => .done (s.drainNth c k)
  | .evict c line => .done ((s.writeBack c line).dropLine c line)
  | .hostStore a bs => .done (if a + bs.length ≤ 2 ^ 57 then s.setBytes (hostPlace a) bs else s)
  | .repair c => .done (s.writeRepair c)
  | .repairRead off n => .done (s.readRepair off n)
  | .hostBase v => .done (s.writeBase v)
  | .hostVfBase v => .done (s.writeVfBase v)
  | .hostFail c id => .done (s.failCopy c id)
  | .gateway p up => .done (s.modFab fun f =>
      { f with noUplink := if up then f.noUplink.filter (· != p) else (p :: f.noUplink).eraseDups })

/-- The turn of an empty agenda. -/
def turnWork (s : State) : Work :=
  let n := s.turn
  let s1 := { s with turn := s.nextTurn n }
  if n < backgroundTurn then (s1.prepare n).launch
  else if s1.budgetWanted then .run .capRefill s1.background
  else .done s1.background

/-- What a step does: an instruction that already stands ready to issue, else the agenda's next move, else what the
module does by itself: an input that has come into range is followed by a power-on reset (R16), whose holdup test is a
free value (notes/assumptions/5.md). -/
def work (s : State) : Work :=
  match s.cur with
  | some _ => s.launch
  | none =>
    match s.agenda with
    | m :: rest => { s with agenda := rest }.moveWork m
    | [] =>
      if !s.pwr.on then
        if s.pwr.lost ∨ s.pwr.tripped then .halt
        else .run (.powerOnReset (s.free.2.getLsbD 0)) s.free.1
      else
        match s.phaseEvent, s.fab.inbox with
        | some i, _ => .run i s
        | none, p :: _ =>
          match packetEvent p with
          | some i => .run i s
          | none => .done s.dropPacket
        | none, [] => s.turnWork

/-! ### After an instruction -/

/-- The part stands at the instruction that it has issued, none of whose lanes has been performed: the replay completes it
(R258). -/
def standsAt (s : State) (c : Issue) : Bool :=
  match c.cap with
  | none => false
  | some id => (s.group c.gid).ops.captures.any fun k => k.id == id && k.stands

/-- The instruction carries the switch marker. -/
def marked (i : Instr) : Bool := (i.encFields.map fun x => x.2.ctl.sw).getD false

/-- An instruction has had its effect: its part goes on, under its switch marker, and a compare point that it forced is
over (R267, R279, R292). -/
def goOn (s : State) (i : Instr) (c : Issue) : State :=
  let s := if c.adv = .next then s.advancePart c.gid c.quads else s
  (if marked i then s.parkSwitch c.gid else s).endForced c.gid

/-- A group has issued: its count and promotion restart (R155); a yield hint takes it out of its sector's next clk (R278). -/
def issued (s : State) (c : Issue) : State :=
  s.modIss c.gid fun k => { k with promo := 0, promoted := none, yielded := c.yld }

/-- What follows an instruction that has issued: the latch ages, what it had fetched for itself is dropped, and it goes on
unless a replay has still to perform it (R155, R169, R258, R274). -/
def complete (s : State) (i : Instr) (c : Issue) : State :=
  let s := (s.modRegs c.gid ageLatch).modOps c.gid fun o => { o with peek := [], peekErr := [] }
  ((if s.standsAt c then s else s.goOn i c).issued c).noteStep c.gid

/-- What follows a replay: it is done with, and an instruction that its part stood at goes on (R258). -/
def endReplay (s : State) (i : Instr) (c : Issue) (k : Capture) : State :=
  let s := (s.dropCapture c.gid k.id).modOps c.gid fun o => { o with peek := [], peekErr := [] }
  (if k.stands && c.cap.isNone then s.goOn i c else s).issued c

/-- What follows a meaning: the instruction that issued from `s0` is completed, or stays; then exits, barriers and
collectives that the step has brought about are acted on. -/
def finish (s0 : State) (i : Instr) (s : State) : State :=
  let t :=
    match s0.cur, s.cur with
    | none, _ => s
    | some _, none => s
    | some _, some c =>
      let t := { s with cur := none }
      match c.adv, c.replay with
      | .stay, _ => t
      | .held, _ => (t.modOps c.gid fun o => { o with peek := [], peekErr := [] }).issued c
      | _, some k => t.endReplay i c k
      | _, none => t.complete i c
  t.aftermath.startColls

/-! ### A program placed by the tools (notes/assumptions/4.md) -/

/-- The clause of one instruction: its header, its word and, where X is 1, its extension word (R278, R280). -/
def clauseOf (x e : Word) : List Byte :=
  let n := if x.getLsbD 30 then 2 else 1
  let h : Header := { cnt := 1, ecl := engineOf x e, wait := 0, rgp := false, yld := false, dbg := false, nw := n }
  (h.encode :: [x, e].take n).flatMap fun w => bytesOf 4 w.toNat

/-- Where the tools place a clause: the resident image, after its header (R148). -/
def placedAt : Nat := 64

/-- A clause in the resident image and one 16-lane worker group of core 0 that stands before it, with the turn at its
sector, in the ready phase. -/
def placeClause (s : State) (bs : List Byte) : State :=
  let s := (s.wipeRange (imagePlace placedAt) (imagePlace (placedAt + 64))).setBytes (imagePlace placedAt) bs
  let worker : Group := residentGroup 8 .worker (residentBase + placedAt) 0
  { s with
    groups := Map.put 0 worker (s.groups.filter fun g => decide (16 ≤ g.1))
    agenda := [], turn := 0, cur := none
    pwr := { s.pwr with on := true, isslim := false }
    pkg := { s.pkg with phase := .ready }
    fab := { s.fab with inbox := [] } }

end State

end Sys2Proof.Machine
end

