-- ==== Sys2Proof/Machine/Step.lean ====
section
/-! DEFINITION. One step of the machine, and the placing of one instruction where the next step fetches it. -/

namespace Sys2Proof.Machine

/-- One step: what `State.work` says is to be done; an instruction is handed to `exec`, and `State.finish` follows it. -/
def step (s : State) : Host.Outcome State Fault Refusal :=
  match s.work with
  | .halt => .fault .noPower
  | .done t => .next t
  | .run i t =>
    match exec i t with
    | .next u => .next (t.finish i u)
    | .fault r => .fault r
    | .refused r => .refused r

namespace State

/-- The instruction whose bits are `w` stands where the next step fetches it (notes/assumptions/4.md). -/
def withFetchWord (s : State) (_nbits w : Nat) : State :=
  s.placeClause (clauseOf (BitVec.ofNat 32 w) (BitVec.ofNat 32 (w / 2 ^ 32)))

end State

end Sys2Proof.Machine
end

