-- ==== Sys2Proof/Safety.lean ====
section
/-! DEFINITION. The terms in which claims about the machine are stated: the memory's canonical form, when an instruction
issues with nothing in its way, what it is then given, and what it means that it computes a result. -/

namespace Sys2Proof.Machine

namespace State

/-- Memory is in the one form in which equal memories are equal lists. -/
def MemOk (s : State) : Prop := Memory.wf s.mem = true

/-- The lanes that take part in an instruction (R308). -/
def takers (s : State) (c : Issue) (a : Ask) : Lanes :=
  if a.ctl.whole then c.active else predLanes (s.group c.gid).regs a.ctl c.active

/-- The lanes that contribute to it: those that take part and are no helpers (R152, R308). -/
def givers (s : State) (c : Issue) (a : Ask) : Lanes := s.takers c a &&& ~~~(s.group c.gid).flow.helper

/-- The operand queues' entries that an instruction pops (R171). -/
def drawn (s : State) (c : Issue) (a : Ask) (q : Nat) : Option QEntry :=
  poppedOf (s.popAll c.gid (queuesIn a.srcs)).2 q

/-- The value of one source in one lane (R283 to R285); lanes at or above W have none. -/
def srcVal (s : State) (c : Issue) (a : Ask) (q : Src) (l : Nat) : Nat :=
  if l < (s.group c.gid).flow.width then
    (s.readOpnd c.gid (s.group c.gid) c.active (s.drawn c a) q.opnd q.n l).getD 0
  else 0

/-- The state after the operand queues have been popped and the store queues have taken their elements, with the operand
values, those elements, and the lanes that are active (R171, R308, R341). -/
def afterQueues (s : State) (c : Issue) (a : Ask) : State × Map Nat :=
  (s.popAll c.gid (queuesIn a.srcs)).1.pushAll c.gid (pushesIn a.dsts)
    (keepLanes c (s.operandVals c a.srcs (s.drawn c a) ++ elemVals a.srcs (s.drawn c a)))

/-- The state after an instruction's operands have been read: its queues stand as R171 says, its latch is shifted (R169). -/
def afterReads (s : State) (c : Issue) (a : Ask) : State :=
  (s.afterQueues c a).1.latchHold c.gid a.ctl.hold (s.afterQueues c a).2

end State

/-- An instruction issues with nothing in its way: it is issued for the first time and well formed, meets none of the
conditions 4 to 8 of R252, its group's slice descriptor is well formed (R303), it reads no poisoned register (R265), and the
queue elements that it reads are there, waiting for no peer and no budget (R103, R171). -/
structure Clear (s : State) (c : Issue) (a : Ask) : Prop where
  cur : s.cur = some c
  first : c.replay = none
  fresh : c.cap = none
  width : (s.group c.gid).flow.width ≤ 64
  lanes : ∀ l, c.active.getLsbD l = true → l < (s.group c.gid).flow.width
  wf : a.instr.wf = true
  free : s.entryFault c a = none
  sliced : (s.group c.gid).slice.malformed = false
  clean : s.badRegs c.gid a (laneList (s.givers c a)) = []
  near : s.elemsWait c (s.elemsDue c.gid a.srcs (laneList (s.givers c a)) none) = none
  filled : ∀ q ∈ queuesIn a.srcs, ∃ e, s.drawn c a q = some e ∧ e.bad &&& s.givers c a = 0

/-- What an instruction that issues with nothing in its way is given: the lanes, and the value of each source. -/
structure Given (s : State) (c : Issue) (a : Ask) (u : State) (x : Ctx) : Prop where
  state : u = s.afterReads c a
  lanes : x.lanes = s.takers c a
  contrib : x.contrib = s.givers c a
  active : x.active = c.active
  replay : x.replay = none
  part : x.part = s.takers c a
  late : x.late = 0
  lead : x.lead = (lowest c.active).getD 0
  first : x.first = c.active
  vals : ∀ q ∈ a.srcs, ∀ l < 64, x.val q.fld l = s.srcVal c a q l

/-! ### Results -/

/-- A fixed-latency instruction computes a result: wherever it issues with nothing in its way, exec answers the state in
which that result, lane by lane, has been put into the destination, and in which nothing else has happened but the
reading of the operands. -/
def Computes (i : Instr) (a : Ask) (d : Opnd) (n : Nat) (f : Ctx → Nat → Nat) : Prop :=
  ∀ s c, Clear s c a → ∃ u x, Given s c a u x ∧ exec i s = .next (s.putFixed u c i x d n (f x))

/-- A variable-latency instruction computes a result: as `Computes`, with the result among those that are outstanding. -/
def ComputesLater (i : Instr) (a : Ask) (kind : Kind) (d : Opnd) (n : Nat) (f : Issue → Nat → Ctx → Nat → Nat) : Prop :=
  ∀ s c, Clear s c a → ∃ u x, Given s c a u x ∧
    exec i s = .next (s.putLater u c i x kind d n (f c (u.group c.gid).flow.width x))

/-- An operand read under an integer type: signed for .s, unsigned otherwise (R310, R321). -/
def intVal (t : Ty) (v : Nat) : Int :=
  if t.isSigned then (BitVec.ofNat t.bits v).toInt else ((BitVec.ofNat t.bits v).toNat : Int)

/-- N bits extended to 32 as R310 gives: with the sign for .s, with zeros otherwise. -/
def extended (t : Ty) (b : BitVec t.bits) : Nat :=
  if t.bits < 32 ∧ t.isSigned = true then (b.signExtend 32).toNat else b.toNat

/-- An exact integer reduced modulo 2^N and extended (R310, R321). -/
def reduced (t : Ty) (r : Int) : Nat := extended t (BitVec.ofInt t.bits r)

/-- The least and the greatest value of an integer type. -/
def leastOf (t : Ty) : Int := if t.isSigned then -(2 ^ (t.bits - 1)) else 0
def greatestOf (t : Ty) : Int := if t.isSigned then 2 ^ (t.bits - 1) - 1 else 2 ^ t.bits - 1

/-- Sat(r, type minimum, type maximum) (R13, R321). -/
def saturated (t : Ty) (r : Int) : Int := max (leastOf t) (min r (greatestOf t))

/-- The low N bits of an operand (R310). -/
def low (t : Ty) (v : Nat) : BitVec t.bits := BitVec.ofNat t.bits v

/-- The sources A, B and C with n registers each. -/
def srcA (o : Alu) (n : Nat) : List (Nat × Opnd × Nat) := [(0, o.a, n)]
def srcAB (o : Alu) (n m : Nat) : List (Nat × Opnd × Nat) := [(0, o.a, n), (1, o.b, m)]
def srcABC (o : Alu) (n m k : Nat) : List (Nat × Opnd × Nat) := [(0, o.a, n), (1, o.b, m), (2, o.c, k)]

end Sys2Proof.Machine
end

