-- ==== Sys2Proof/Certificates/Slice0/Obligations.lean ====
section
/-! DEFINITION. The statements about the machine that are to be proved, one for each group of rules. -/

open Sys2Proof Sys2Proof.Machine

/-- R321: IADD, ISUB, IMUL, IMULH, IMAD, IABS, IMIN and IMAX compute the exact integer result of their operands read under
the type, saturate it where .sat says so, reduce it modulo 2^N and extend it. -/
def Obligations.IntegerArithmetic : Prop :=
  ∀ o : Alu,
    let t := o.ty.orElse .s32
    let a (x : Ctx) (l : Nat) : Int := intVal t (x.val 0 l)
    let b (x : Ctx) (l : Nat) : Int := intVal t (x.val 1 l)
    let c (x : Ctx) (l : Nat) : Int := intVal t (x.val 2 l)
    let sat (r : Int) : Int := if o.sub = 1 then saturated t r else r
    Computes (.iadd o) (ask (.iadd o) o.ctl (srcAB o t.regs t.regs) [(o.d, t.regs)]) o.d t.regs
      (fun x l => reduced t (sat (a x l + b x l))) ∧
    Computes (.isub o) (ask (.isub o) o.ctl (srcAB o t.regs t.regs) [(o.d, t.regs)]) o.d t.regs
      (fun x l => reduced t (sat (a x l - b x l))) ∧
    Computes (.imul o) (ask (.imul o) o.ctl (srcAB o t.regs t.regs) [(o.d, t.regs)]) o.d t.regs
      (fun x l => reduced t (a x l * b x l)) ∧
    Computes (.imulh o) (ask (.imulh o) o.ctl (srcAB o t.regs t.regs) [(o.d, t.regs)]) o.d t.regs
      (fun x l => reduced t (Int.fdiv (a x l * b x l) (2 ^ t.bits))) ∧
    Computes (.imad o) (ask (.imad o) o.ctl (srcABC o t.regs t.regs t.regs) [(o.d, t.regs)]) o.d t.regs
      (fun x l => reduced t (a x l * b x l + c x l)) ∧
    Computes (.iabs o) (ask (.iabs o) o.ctl (srcA o t.regs) [(o.d, t.regs)]) o.d t.regs
      (fun x l => reduced t (sat ((a x l).natAbs : Int))) ∧
    Computes (.imin o) (ask (.imin o) o.ctl (srcAB o t.regs t.regs) [(o.d, t.regs)]) o.d t.regs
      (fun x l => reduced t (min (a x l) (b x l))) ∧
    Computes (.imax o) (ask (.imax o) o.ctl (srcAB o t.regs t.regs) [(o.d, t.regs)]) o.d t.regs
      (fun x l => reduced t (max (a x l) (b x l)))

/-- R322: the bitwise, shift and count instructions on N bits; a shift or rotation takes s = B[7:0]. R323: the bit-field
instructions, with pos = Min(x[7:0], N) and wid = Min(x[15:8], N - pos). -/
def Obligations.BitwiseAndShifts : Prop :=
  (∀ o : Alu,
     let t := o.ty.orElse .b32
     let k := o.ty.orElse .s32
     let a (x : Ctx) (l : Nat) : BitVec t.bits := low t (x.val 0 l)
     let b (x : Ctx) (l : Nat) : BitVec t.bits := low t (x.val 1 l)
     let s (x : Ctx) (l : Nat) : Nat := x.val 1 l % 256
     let two (i : Instr) (m : Nat) := ask i o.ctl (srcAB o t.regs m) [(o.d, t.regs)]
     Computes (.and o) (two (.and o) t.regs) o.d t.regs (fun x l => (a x l &&& b x l).toNat) ∧
     Computes (.or o) (two (.or o) t.regs) o.d t.regs (fun x l => (a x l ||| b x l).toNat) ∧
     Computes (.xor o) (two (.xor o) t.regs) o.d t.regs (fun x l => (a x l ^^^ b x l).toNat) ∧
     Computes (.andn o) (two (.andn o) t.regs) o.d t.regs (fun x l => (a x l &&& ~~~(b x l)).toNat) ∧
     Computes (.shl o) (two (.shl o) 1) o.d t.regs (fun x l => (a x l <<< s x l).toNat) ∧
     Computes (.shr o) (two (.shr o) 1) o.d t.regs (fun x l => (a x l >>> s x l).toNat) ∧
     Computes (.sar o) (two (.sar o) 1) o.d t.regs (fun x l => ((a x l).sshiftRight (s x l)).toNat) ∧
     Computes (.rot o) (two (.rot o) 1) o.d t.regs (fun x l => ((a x l).rotateLeft (s x l)).toNat) ∧
     Computes (.popc o) (ask (.popc o) o.ctl (srcA o k.regs) [(o.d, 1)]) o.d 1
       (fun x l => ((List.range k.bits).filter fun i => (low k (x.val 0 l)).getLsbD i).length) ∧
     Computes (.clz o) (ask (.clz o) o.ctl (srcA o k.regs) [(o.d, 1)]) o.d 1
       (fun x l => (((List.range k.bits).map fun i => (low k (x.val 0 l)).getMsbD i).takeWhile fun z => !z).length) ∧
     Computes (.brev o) (ask (.brev o) o.ctl (srcA o t.regs) [(o.d, t.regs)]) o.d t.regs (fun x l => (a x l).reverse.toNat)) ∧
  (∀ o : Alu,
     let t := o.ty.orElse .s32
     let pos (x : Nat) : Nat := min (x % 256) t.bits
     let wid (x : Nat) : Nat := min (x / 256 % 256) (t.bits - pos x)
     Computes (.bfx o) (ask (.bfx o) o.ctl (srcAB o t.regs 1) [(o.d, t.regs)]) o.d t.regs (fun x l =>
       let k := x.val 1 l
       let f : BitVec (wid k) := (low t (x.val 0 l)).extractLsb' (pos k) (wid k)
       if wid k = 0 then 0
       else if t.isSigned then (f.signExtend t.bits).toNat else f.toNat) ∧
     Computes (.bfi o) (ask (.bfi o) o.ctl (srcABC o t.regs t.regs 1) [(o.d, t.regs)]) o.d t.regs (fun x l =>
       let k := x.val 2 l
       let mask : BitVec t.bits := BitVec.ofNat t.bits (2 ^ wid k - 1) <<< pos k
       ((low t (x.val 1 l) &&& ~~~mask) ||| (low t (x.val 0 l) <<< pos k &&& mask)).toNat))

/-- R324 to R327: compare, select, move, effective address, integer conversion and the predicate instructions. -/
def Obligations.CompareMoveConvert : Prop :=
  (∀ o : Alu,
    let t := o.ty.orElse .s32
    let b := o.ty.orElse .b32
    let st := (o.subTy .s32).getD .s32
    Computes (.icmp o) (ask (.icmp o) o.ctl (srcAB o t.regs t.regs) [(o.d, 1)]) o.d 1 (fun x l =>
      let u := intVal t (x.val 0 l)
      let v := intVal t (x.val 1 l)
      let holds := match condOf o.sub with
        | some .eq => decide (u = v)
        | some .ne => decide (u ≠ v)
        | some .lt => decide (u < v)
        | some .le => decide (u ≤ v)
        | some .gt => decide (u > v)
        | some .ge => decide (u ≥ v)
        | some .num => true
        | some .nan => false
        | none => false
      if holds then 1 else 0) ∧
    Computes (.isel o) (ask (.isel o) o.ctl (srcABC o b.regs b.regs 1) [(o.d, b.regs)]) o.d b.regs
      (fun x l => if x.val 2 l % 2 = 1 then x.val 0 l else x.val 1 l) ∧
    Computes (.mov o) (ask (.mov o) o.ctl (srcA o b.regs) [(o.d, b.regs)]) o.d b.regs (fun x l => x.val 0 l) ∧
    Computes (.lea o) (ask (.lea o) o.ctl (srcAB o 2 t.regs) [(o.d, 2)]) o.d 2 (fun x l =>
      (BitVec.ofNat 64 (x.val 0 l) + BitVec.ofInt 64 (intVal t (x.val 1 l)) <<< (o.aux.toNat % 8)).toNat) ∧
    Computes (.cvti o) (ask (.cvti o) o.ctl (srcA o st.regs) [(o.d, t.regs)]) o.d t.regs (fun x l =>
      let v := intVal st (x.val 0 l)
      reduced t (if o.aux.getLsbD 0 then saturated t v else v))) ∧
  (∀ o : MovImm, Computes (.movi o) (ask (.movi o) o.ctl [] [(o.d, 1)]) o.d 1 (fun _ _ => o.imm.toNat)) ∧
  (∀ o : Reg3,
    let two (i : Instr) := ask i o.ctl [(0, o.a, 1), (1, o.b, 1)] [(o.d, 1)]
    let p (x : Ctx) (l : Nat) : Nat := x.val 0 l % 2
    let q (x : Ctx) (l : Nat) : Nat := x.val 1 l % 2
    Computes (.pand o) (two (.pand o)) o.d 1 (fun x l => p x l * q x l) ∧
    Computes (.por o) (two (.por o)) o.d 1 (fun x l => max (p x l) (q x l)) ∧
    Computes (.pxor o) (two (.pxor o)) o.d 1 (fun x l => (p x l + q x l) % 2) ∧
    Computes (.pnot o) (ask (.pnot o) o.ctl [(0, o.a, 1)] [(o.d, 1)]) o.d 1 (fun x l => 1 - p x l))

/-- R329, R333: the arithmetic FLT instructions round one exact result to nearest. HFMA2's SUB 1 and 2 give B's low and
high half to both. FDOT2 gives −0 only where all three terms are −0. -/
def Obligations.FloatArithmetic : Prop :=
  ∀ o : Alu,
    let m := fmtOf o.ty
    let a (x : Ctx) (l : Nat) : Fp := m.decode (x.val 0 l)
    let b (x : Ctx) (l : Nat) : Fp := m.decode (x.val 1 l)
    let c (x : Ctx) (l : Nat) : Fp := m.decode (x.val 2 l)
    let two (i : Instr) := ask i o.ctl (srcAB o 1 1) [(o.d, 1)]
    let three (i : Instr) := ask i o.ctl (srcABC o 1 1 1) [(o.d, 1)]
    let part (f : Fmt) (n h v : Nat) : Fp := f.decode (v / 2 ^ (n * h) % 2 ^ n)
    Computes (.fadd o) (two (.fadd o)) o.d 1 (fun x l => m.encode .ne (Fp.add (a x l) (b x l))) ∧
    Computes (.fsub o) (two (.fsub o)) o.d 1 (fun x l => m.encode .ne (Fp.add (a x l) (b x l).negate)) ∧
    Computes (.fmul o) (two (.fmul o)) o.d 1 (fun x l => m.encode .ne (Fp.mul (a x l) (b x l))) ∧
    Computes (.ffma o) (three (.ffma o)) o.d 1 (fun x l => m.encode .ne (Fp.add (Fp.mul (a x l) (b x l)) (c x l))) ∧
    Computes (.ffma2 o) (ask (.ffma2 o) o.ctl (srcABC o 2 2 2) [(o.d, 2)]) o.d 2 (fun x l =>
      let r (h : Nat) : Nat := Fmt.f32.encode .ne (Fp.add
        (Fp.mul (part Fmt.f32 32 h (x.val 0 l)) (part Fmt.f32 32 h (x.val 1 l))) (part Fmt.f32 32 h (x.val 2 l)))
      r 0 + 2 ^ 32 * r 1) ∧
    (o.ty = .f16 ∨ o.ty = .bf16 →
      Computes (.hfma2 o) (three (.hfma2 o)) o.d 1 (fun x l =>
        let half (h : Nat) : Nat := if o.sub = 1 then 0 else if o.sub = 2 then 1 else h
        let r (h : Nat) : Nat := m.encode .ne (Fp.add
          (Fp.mul (part m 16 h (x.val 0 l)) (part m 16 (half h) (x.val 1 l))) (part m 16 h (x.val 2 l)))
        r 0 + 2 ^ 16 * r 1) ∧
      Computes (.fdot2 o) (three (.fdot2 o)) o.d 1 (fun x l =>
        let p (h : Nat) : Fp := Fp.mul (part m 16 h (x.val 0 l)) (part m 16 h (x.val 1 l))
        let z := Fmt.f32.decode (x.val 2 l)
        let r := Fmt.f32.encode .ne (Fp.sum [p 0, p 1, z])
        if r = 0 ∨ r = 2 ^ 31 then (if [p 0, p 1, z].all (fun t => t.isZero && t.sign) then 2 ^ 31 else 0) else r)) ∧
    Computes (.fscl o) (two (.fscl o)) o.d 1 (fun x l =>
      let k : Int := max (-1000) (min ((BitVec.ofNat 32 (x.val 1 l)).toInt) 1000)
      m.encode .ne (Fp.scale k (a x l)))

/-- R330, R333: choices, comparisons, rounding to an integral value, the split into fraction and exponent, and the class of
a value. FFRX writes the fraction to D and then the exponent to C. -/
def Obligations.FloatChoice : Prop :=
  ∀ o : Alu,
    let m := fmtOf o.ty
    let a (x : Ctx) (l : Nat) : Fp := m.decode (x.val 0 l)
    let b (x : Ctx) (l : Nat) : Fp := m.decode (x.val 1 l)
    let two (i : Instr) := ask i o.ctl (srcAB o 1 1) [(o.d, 1)]
    let one (i : Instr) := ask i o.ctl (srcA o 1) [(o.d, 1)]
    Computes (.fmin o) (two (.fmin o)) o.d 1 (fun x l =>
      m.encode .ne (if (a x l).isNan || (b x l).isNan then .nan else if Fp.before (a x l) (b x l) then a x l else b x l)) ∧
    Computes (.fmax o) (two (.fmax o)) o.d 1 (fun x l =>
      m.encode .ne (if (a x l).isNan || (b x l).isNan then .nan else if Fp.before (a x l) (b x l) then b x l else a x l)) ∧
    Computes (.fcmp o) (two (.fcmp o)) o.d 1 (fun x l =>
      let r := Fp.order (a x l) (b x l)
      let holds : Bool := match condOf o.sub with
        | some .eq => r == .eq
        | some .ne => r != .eq
        | some .lt => r == .lt
        | some .le => r == .lt || r == .eq
        | some .gt => r == .gt
        | some .ge => r == .gt || r == .eq
        | some .num => r != .unordered
        | some .nan => r == .unordered
        | none => false
      if holds then 1 else 0) ∧
    Computes (.fsel o) (ask (.fsel o) o.ctl (srcABC o 1 1 1) [(o.d, 1)]) o.d 1 (fun x l =>
      (if x.val 2 l % 2 = 1 then x.val 0 l else x.val 1 l) % 2 ^ m.width) ∧
    Computes (.frnd o) (one (.frnd o)) o.d 1 (fun x l => m.encode .ne (Fp.rounded (Round.ofCode o.sub.toNat) (a x l))) ∧
    Computes (.fcls o) (one (.fcls o)) o.d 1 (fun x l =>
      match a x l with
      | .nan => 2 ^ 8
      | .inf n => if n then 2 ^ 0 else 2 ^ 7
      | .fin n k _ =>
        if k = 0 then (if n then 2 ^ 3 else 2 ^ 4)
        else if k < 2 ^ m.frac then (if n then 2 ^ 2 else 2 ^ 5)
        else if n then 2 ^ 1 else 2 ^ 6) ∧
    (let a' := ask (.ffrx o) o.ctl (srcA o 1) [(o.d, 1), (o.c, 1)]
    ∀ s c, Clear s c a' → ∃ u x, Given s c a' u x ∧
      let e (l : Nat) : Int := match a x l with
        | .fin _ k e => if k = 0 then 0 else e + Nat.log2 k + 1
        | _ => 0
      let t := s.putFixed u c (.ffrx o) x o.d 1 fun l => m.encode .ne (Fp.scale (-(e l)) (a x l))
      exec (.ffrx o) s = .next (if t.cur.any (fun k => k.adv == .stay) then t
        else t.putReg c.gid x o.c 1 fun l => (BitVec.ofInt 32 (e l)).toNat))

/-- R331: FCVT converts the exact source value by slot N's format, rounding and overflow fate, or by the mode; a slot that
rounds stochastically takes one generator step in each lane that takes part, and a lane that is replayed none again (R237). -/
def Obligations.FloatConversion : Prop :=
  ∀ (o : Alu) (s : State) (c : Issue),
    let dt := o.ty.orElse .f32
    let st := (o.subTy .f32).getD .f32
    let a := ask (.fcvt o) o.ctl (srcA o st.regs) [(o.d, dt.regs)]
    Clear s c a → ∃ u x, Given s c a u x ∧
      let r := (u.group c.gid).regs
      let d := r.getFs o.fsi.toNat
      let mode := Round.ofCode (o.aux.toNat)
      let w := if dt = .fs ∧ fsRnd d = 2 then drawOnce u c.gid x else (u, x)
      let v (l : Nat) : Fp :=
        if st = .fs then (fsFmt d).decode (x.val 0 l)
        else if st.isInt then Fp.ofInt (intVal st (x.val 0 l))
        else (fmtOf st).decode (x.val 0 l)
      let result (l : Nat) : Nat :=
        if dt = .fs then (fsFmt d).convert (fsRound d (Map.get 0 w.2.vals (drawKey l))) (fsSat d) (v l)
        else if dt.isInt then reduced dt ((v l).toInt mode (leastOf dt) (greatestOf dt))
        else (fmtOf dt).encode mode (v l)
      (dt = .fs ∧ fsRnd d = 2 → w.1 = (u.modRegs c.gid fun r => drawLanes r x.lanes) ∧
        (∀ l, x.lanes.getLsbD l = true → Map.get 0 w.2.vals (drawKey l) = (drawStep (r.getZ l)).2) ∧
        ∀ t, ((drawOnce t c.gid w.2).1.group c.gid).regs = (t.group c.gid).regs) ∧
      exec (.fcvt o) s = .next (s.putFixed w.1 c (.fcvt o) w.2 o.d dt.regs result)

/-- R332: the special functions are variable-latency. A 16-bit input is widened exactly, and the result rounded once more. -/
def Obligations.SpecialFunctions : Prop :=
  ∀ o : Alu,
    let t := o.ty.orElse .f32
    let m := fmtOf t
    let of (f : Nat → Nat) : Issue → Nat → Ctx → Nat → Nat := fun _ _ x l =>
      let r := f (Fmt.f32.encode .ne (m.decode (x.val 0 l)))
      if t = .f32 then r else m.encode .ne (Fmt.f32.decode r)
    let one (i : Instr) := ask i o.ctl (srcA o 1) [(o.d, 1)]
    ComputesLater (.frcp o) (one (.frcp o)) .xl o.d 1 (of frcpCode) ∧
    ComputesLater (.frsq o) (one (.frsq o)) .xl o.d 1 (of frsqCode) ∧
    ComputesLater (.fsqrt o) (one (.fsqrt o)) .xl o.d 1 (of fsqrtCode) ∧
    ComputesLater (.fexp2 o) (one (.fexp2 o)) .xl o.d 1 (of fexp2Code) ∧
    ComputesLater (.flog2 o) (one (.flog2 o)) .xl o.d 1 (of flog2Code) ∧
    ComputesLater (.fsin o) (one (.fsin o)) .xl o.d 1 (of (fsinCode false)) ∧
    ComputesLater (.fcos o) (one (.fcos o)) .xl o.d 1 (of (fsinCode true)) ∧
    ComputesLater (.ftanh o) (one (.ftanh o)) .xl o.d 1 (of ftanhCode)

/-- R332: FRCP and FSQRT are correctly rounded: the grid value nearest to 1/a, measured by the product with a in units of
any 2^k that is fine enough, and to √a, measured by squares of the midpoints. -/
def Obligations.SpecialRounded : Prop :=
  ∀ (a : Nat) (n : Bool) (m : Nat) (e k : Int), Fmt.f32.decode a = .fin n m e → m ≠ 0 → k ≤ -149 → k ≤ -e → 2 * k ≤ e →
    let at_ (c : Nat) : Nat := (Fmt.f32.mag c).1 * 2 ^ ((Fmt.f32.mag c).2 - k).toNat
    (∃ c, frcpCode a = Fmt.f32.withSign n (min c 0x7F800000) ∧
      ∀ d, ((at_ c * m : Nat) - (2 ^ (-e - k).toNat : Nat) : Int).natAbs ≤
        ((at_ d * m : Nat) - (2 ^ (-e - k).toNat : Nat) : Int).natAbs) ∧
    (n = false → ∃ c, fsqrtCode a = c ∧ 4 * (m * 2 ^ (e - 2 * k).toNat) ≤ (at_ c + at_ (c + 1)) ^ 2 ∧
      (0 < c → (at_ (c - 1) + at_ c) ^ 2 ≤ 4 * (m * 2 ^ (e - 2 * k).toNat)))

/-- R332: the special values of the special functions; FRSQ is exact on powers of 4, FEXP2 on integers and FLOG2 on powers of 2. A
finite nonzero input that is no special or exact case gives FRSQ, FEXP2, FLOG2, FSIN, FCOS and FTANH their reference value
rounded, or a value within the bound that the table gives that function, measured from its reference value, which is the
model's own (log entry 8), whatever the implementation's opaque value is: 1 ulp for FRSQ, 2 ulp for FEXP2, FLOG2 and FTANH,
2^-22 for FLOG2 from 0.5 to 2, 2^-21 for FSIN and FCOS up to 2^15 in size and 1 beyond it; FEXP2 gives no negative value, and
FTANH none greater than 1 in size. -/
def Obligations.SpecialValues : Prop :=
  ((∀ f ∈ [frcpCode, frsqCode, fsqrtCode, fexp2Code, flog2Code, fsinCode false, fsinCode true, ftanhCode],
     ∀ a, Fmt.f32.decode a = .nan → f a = 0x7FC00000) ∧
   (∀ a n m e, Fmt.f32.decode a = .fin n m e → m ≠ 0 → n = true →
     fsqrtCode a = 0x7FC00000 ∧ frsqCode a = 0x7FC00000 ∧ flog2Code a = 0x7FC00000) ∧
   [frcpCode 0, frcpCode 0x80000000, frcpCode 0x7F800000, frcpCode 0xFF800000] =
     [0x7F800000, 0xFF800000, 0, 0x80000000] ∧
   [fsqrtCode 0, fsqrtCode 0x80000000, fsqrtCode 0x7F800000, fsqrtCode 0xFF800000] =
     [0, 0x80000000, 0x7F800000, 0x7FC00000] ∧
   [frsqCode 0, frsqCode 0x80000000, frsqCode 0x7F800000, frsqCode 0xFF800000] = [0x7F800000, 0xFF800000, 0, 0x7FC00000] ∧
   [fexp2Code 0x7F800000, fexp2Code 0xFF800000] = [0x7F800000, 0] ∧
   [flog2Code 0, flog2Code 0x80000000, flog2Code 0x7F800000, flog2Code 0xFF800000, flog2Code 0x3F800000] =
     [0xFF800000, 0xFF800000, 0x7F800000, 0x7FC00000, 0] ∧
   [fsinCode false 0, fsinCode false 0x80000000, fsinCode false 0x7F800000, fsinCode true 0, fsinCode true 0x80000000,
     fsinCode true 0xFF800000] = [0, 0x80000000, 0x7FC00000, 0x3F800000, 0x3F800000, 0x7FC00000] ∧
   [ftanhCode 0, ftanhCode 0x80000000, ftanhCode 0x7F800000, ftanhCode 0xFF800000] = [0, 0x80000000, 0x3F800000, 0xBF800000] ∧
   (∀ k : Int, -149 ≤ k → k ≤ 127 →
     flog2Code (Fmt.f32.encode .ne (.fin false 1 k)) = Fmt.f32.encode .ne (Fp.ofInt k) ∧
     fexp2Code (Fmt.f32.encode .ne (Fp.ofInt k)) = Fmt.f32.encode .ne (.fin false 1 k) ∧
     (k % 2 = 0 → frsqCode (Fmt.f32.encode .ne (.fin false 1 k)) = Fmt.f32.encode .ne (.fin false 1 (-k / 2))))) ∧
  (let enc := Fmt.f32.encode .ne
   let units (k : Int) (n : Bool) (m : Nat) (e : Int) : Int := (if n then -1 else 1) * (m * 2 ^ (e - k).toNat : Nat)
   let near (w ref : Fp) (b : Nat) (p : Int) : Prop :=
     ∃ n m e n' m' e', w = .fin n m e ∧ ref = .fin n' m' e' ∧ ∀ k : Int, k ≤ e → k ≤ e' → k ≤ p →
       (units k n m e - units k n' m' e').natAbs ≤ b * 2 ^ (p - k).toNat
   let ulp (ref : Fp) : Int :=
     match ref with
     | .fin _ m e => if m = 0 then -149 else max (Nat.log2 m + e - 23) (-149)
     | _ => 0
   ∀ (a : Nat) (n : Bool) (m : Nat) (e : Int), Fmt.f32.decode a = .fin n m e → m ≠ 0 →
     let meets (f : Nat → Nat) (ref : Fp) (b : Nat) (p : Int) : Prop := f a = enc ref ∨ near (Fmt.f32.decode (f a)) ref b p
     let power : Bool := m == 2 ^ Nat.log2 m
     (n = false → (power = false ∨ (e + Nat.log2 m) % 2 ≠ 0) → meets frsqCode (frsqRef m e) 1 (ulp (frsqRef m e))) ∧
     (n = false → power = false → meets flog2Code (flog2Ref m e)
       (if e + Nat.log2 m = 0 ∨ e + Nat.log2 m = -1 then 1 else 2)
       (if e + Nat.log2 m = 0 ∨ e + Nat.log2 m = -1 then -22 else ulp (flog2Ref m e))) ∧
     (let k := toFix n m e / (fixOne : Int)
      (128 ≤ k → fexp2Code a = 0x7F800000) ∧
      (k < 128 → ¬ (-149 ≤ k ∧ (0 ≤ e ∨ m % 2 ^ (-e).toNat = 0)) →
        (if enc (fexp2Ref n m e) = 0x7F800000 then fexp2Code a = 0x7F800000
         else meets fexp2Code (fexp2Ref n m e) 2 (ulp (fexp2Ref n m e))) ∧ (Fmt.f32.decode (fexp2Code a)).sign = false)) ∧
     (∀ cosine, meets (fsinCode cosine) (fsinRef cosine n m e) 1
       (if withinOf (.fin false 0 0) (.fin n m e) 1 15 = true then -21 else 0)) ∧
     meets ftanhCode (ftanhRef n m e) 2 (ulp (ftanhRef n m e)) ∧
     withinOf (.fin false 0 0) (Fmt.f32.decode (ftanhCode a)) 1 0 = true)

/-- R234 to R236: rounding on the grid of a format, in units of any 2^k that is fine enough. To nearest takes a nearest grid
value and at a tie the even code; toward zero the greatest at or below; toward −∞ and +∞ the one on that side; a draw u
takes the next one up exactly if u < floor(2^16 × the fraction of the gap). -/
def Obligations.RoundingOnTheGrid : Prop :=
  ∀ (f : Fmt) (neg : Bool) (m : Nat) (e k : Int), k ≤ e → k ≤ f.least →
    let q : Nat := m * 2 ^ (e - k).toNat
    let at_ (c : Nat) : Nat := (f.mag c).1 * 2 ^ ((f.mag c).2 - k).toNat
    let ne := f.gridCode .ne neg m e
    let lo := f.gridCode .rz neg m e
    (∀ c, ((at_ ne : Int) - q).natAbs ≤ ((at_ c : Int) - q).natAbs ∧
      (((at_ ne : Int) - q).natAbs = ((at_ c : Int) - q).natAbs → c ≠ ne → ne % 2 = 0)) ∧
    at_ lo ≤ q ∧ q < at_ (lo + 1) ∧
    f.gridCode .rm neg m e = (if neg = true ∧ at_ lo < q then lo + 1 else lo) ∧
    f.gridCode .rp neg m e = (if neg = false ∧ at_ lo < q then lo + 1 else lo) ∧
    (∀ u, f.gridCode (.st u) neg m e =
      if u < (q - at_ lo) * 2 ^ 16 / (at_ (lo + 1) - at_ lo) then lo + 1 else lo)

/-- R238, R239: the fates of NaN, infinities, zeros, negative values and overflows in a conversion to a slot's format. -/
def Obligations.ConversionFates : Prop :=
  ∀ (d : DWord) (r : Round) (sat : Nat), fsValid d = true → sat ≤ 2 →
    let f := fsFmt d
    let above (neg : Bool) : Nat :=
      if sat = 0 then f.withSign neg f.maxCode
      else if sat = 1 ∧ f.hasInf = true then f.withSign neg (f.maxCode + 1)
      else f.nanCode
    f.convert r sat .nan = f.nanCode ∧
    (∀ neg, (neg = false ∨ f.signed = true) → f.convert r sat (.inf neg) = above neg) ∧
    (f.signed = false → f.convert r sat (.inf true) = if sat = 0 then 0 else f.nanCode) ∧
    (∀ neg e, f.convert r sat (.fin neg 0 e) = if f.binary = true then f.withSign neg 0 else 0) ∧
    (∀ m e, 0 < m → f.signed = false → f.convert r sat (.fin true m e) = if sat = 0 then 0 else f.nanCode) ∧
    (∀ neg m e, 0 < m → (neg = false ∨ f.signed = true) →
      let c := f.gridCode r neg m e
      (f.maxCode < c → r ≠ .rz → f.convert r sat (.fin neg m e) = above neg) ∧
      (f.maxCode < c → r = .rz → f.convert r sat (.fin neg m e) = f.withSign neg f.maxCode) ∧
      (0 < c → c ≤ f.maxCode → f.convert r sat (.fin neg m e) = f.withSign neg c ∧
        f.decode (f.withSign neg c) = .fin neg (f.mag c).1 (f.mag c).2) ∧
      (c = 0 → f.convert r sat (.fin neg m e) = if f.binary = true then f.withSign neg 0 else 0))

/-- R226: adding, multiplying and scaling finite values are exact, in units of any 2^k that is fine enough. -/
def Obligations.ExactArithmetic : Prop :=
  ∀ (a b : Bool) (m n : Nat) (e f k : Int), k ≤ e → k ≤ f → 
    let units (neg : Bool) (m : Nat) (e : Int) : Int := (if neg then -1 else 1) * (m * 2 ^ (e - k).toNat : Nat)
    (∃ c p g, Fp.add (.fin a m e) (.fin b n f) = .fin c p g ∧ (p ≠ 0 → k ≤ g) ∧
      (if p = 0 then 0 else units c p g) = units a m e + units b n f ∧ (p = 0 → c = (a && b))) ∧
    (Fp.mul (.fin a m e) (.fin b n f) = .fin (a != b) (m * n) (e + f)) ∧
    (∀ j, Fp.scale j (.fin a m e) = .fin a m (e + j))

/-- R335 to R337: the shuffles, exchanges, votes and masks. A lane that takes part is written; lanes that contribute are
counted; SHFL reads a lane of the issuing part below W, whatever that lane's condition. A QXCH with another mode or type
takes ILLENC. -/
def Obligations.CrossLane : Prop :=
  (∀ o : Alu,
    let t := o.ty.orElse .b32
    ComputesLater (.shfl o) (askCross (.shfl o) o.ctl (srcAB o t.regs 1) [(o.d, t.regs)]) .xl o.d t.regs (fun c w x l =>
      let k := x.val 1 l
      let from_ : Int := match o.sub.toNat with
        | 0 => k
        | 1 => (l : Int) - k
        | 2 => (l : Int) + k
        | _ => (l ^^^ k : Nat)
      if 0 ≤ from_ ∧ from_ < w ∧ c.quads.getLsbD (from_.toNat / 4) = true then x.val 0 from_.toNat else x.val 0 l) ∧
    Computes (.qxch o) (askCross (.qxch o) o.ctl (srcA o t.regs) [(o.d, t.regs)]) o.d t.regs (fun x l =>
      let q := l - l % 4
      let i := l % 4
      x.val 0 (match o.sub.toNat with
        | 0 => q + (i ^^^ 1)
        | 1 => q + (i ^^^ 2)
        | 2 => q + (i ^^^ 3)
        | 3 => q + (i + 1) % 4
        | n => q + (n - 4) % 4)) ∧
    (8 ≤ o.sub.toNat ∨ (o.ty ≠ .dflt ∧ o.ty ≠ .b32 ∧ o.ty ≠ .b64) →
      ∀ s c, s.cur = some c → c.replay = none → exec (.qxch o) s = .next (s.trapNow c.gid 0x20 c.active c.clause c.idx)) ∧
    ComputesLater (.vote o) (askCross (.vote o) o.ctl (srcA o 1) [(o.d, 1)]) .xl o.d 1 (fun _ _ x _ =>
      let lanes := (List.range 64).filter fun l => x.contrib.getLsbD l
      let one (l : Nat) : Bool := x.val 0 l % 2 == 1
      let holds : Bool := match o.sub.toNat with
        | 0 => lanes.all one
        | 1 => lanes.any one
        | 2 => lanes.all one || !lanes.any one
        | _ => (lanes.filter one).length % 2 == 1
      if holds then 1 else 0) ∧
    ComputesLater (.match_ o) (askCross (.match_ o) o.ctl (srcA o t.regs) [(o.d, 2)]) .xl o.d 2 (fun _ _ x l =>
      ((List.range 64).map fun k => if x.contrib.getLsbD k && x.val 0 k == x.val 0 l then 2 ^ k else 0).sum)) ∧
  (∀ o : Reg3,
    ComputesLater (.ballot o) (askCross (.ballot o) o.ctl [(0, o.a, 1)] [(o.d, 2)]) .xl o.d 2 (fun _ _ x _ =>
      ((List.range 64).map fun k => if x.contrib.getLsbD k && x.val 0 k % 2 == 1 then 2 ^ k else 0).sum) ∧
    ComputesLater (.firstl o) (askCross (.firstl o) o.ctl [(0, o.a, 1)] [(o.d, 1)]) .xl o.d 1 (fun _ _ x _ =>
      (((List.range 64).find? fun k => x.contrib.getLsbD k && x.val 0 k % 2 == 1)).getD 0xFFFFFFFF))

/-- R338: REDUX gives every lane that takes part Op over the values of the contributing lanes, for .f32 in the canonical tree
of R79 by ascending lane; SCAN gives a lane Op over the contributing lanes up to it, or below it with .excl. -/
def Obligations.ReduceAndScan : Prop :=
  ∀ o : Alu,
    let t := o.ty.orElse .b32
    let op := o.sub.toNat % 8
    let identity : Nat :=
      if t = .f32 then (if op = 1 then 0x7F800000 else if op = 2 then 0xFF800000 else 0)
      else if op = 1 then (BitVec.ofInt t.bits (greatestOf t)).toNat
      else if op = 2 then (BitVec.ofInt t.bits (leastOf t)).toNat
      else if op = 3 then 2 ^ t.bits - 1 else 0
    let two (a b : Nat) : Nat := match op with
      | 0 => (a + b) % 2 ^ t.bits
      | 1 => if intVal t a ≤ intVal t b then a else b
      | 2 => if intVal t a ≤ intVal t b then b else a
      | 3 => a &&& b
      | 4 => a ||| b
      | _ => a ^^^ b
    let all (vs : List Nat) : Nat :=
      if t = .f32 then ((treeReduce (combineFp Fmt.f32 op) 7 vs).head?).getD identity else vs.foldl two identity
    ComputesLater (.redux o) (askCross (.redux o) o.ctl (srcA o t.regs) [(o.d, t.regs)]) .xl o.d t.regs (fun _ _ x _ =>
      all (((List.range 64).filter fun k => x.contrib.getLsbD k).map (x.val 0))) ∧
    ComputesLater (.scan o) (askCross (.scan o) o.ctl (srcA o t.regs) [(o.d, t.regs)]) .xl o.d t.regs (fun _ _ x l =>
      all (((List.range 64).filter fun k => x.contrib.getLsbD k &&
        (if o.sub.getLsbD 3 then decide (k < l) else decide (k ≤ l))).map (x.val 0)))

/-- R79, R80, R338: the canonical tree halves its list level by level, and the combination of two binary32 values rounds
their exact sum once, orders −0 below +0, and answers the canonical NaN for a NaN. -/
def Obligations.CanonicalTree : Prop :=
  (∀ (f : Nat → Nat → Nat) (cs : List Nat) (n : Nat), cs ≠ [] → cs.length ≤ 2 ^ n → ∃ r, treeReduce f n cs = [r]) ∧
  (∀ (f : Nat → Nat → Nat) (cs : List Nat) (i : Nat), 2 * i + 1 < cs.length →
    (pairUp f cs)[i]? = some (f (cs.getD (2 * i) 0) (cs.getD (2 * i + 1) 0))) ∧
  (∀ (f : Nat → Nat → Nat) (cs : List Nat), (pairUp f cs).length = (cs.length + 1) / 2 ∧
    (cs.length % 2 = 1 → (pairUp f cs)[cs.length / 2]? = cs[cs.length - 1]?)) ∧
  (∀ (m : Fmt) (a b : Nat),
    combineFp m 0 a b = m.encode .ne (Fp.add (m.decode a) (m.decode b)) ∧
    (m.decode a = .nan ∨ m.decode b = .nan → ∀ op ∈ [1, 2], combineFp m op a b = m.nanCode) ∧
    (m.decode a ≠ .nan → m.decode b ≠ .nan →
      combineFp m 1 a b = (if Fp.before (m.decode a) (m.decode b) then a else b) ∧
      combineFp m 2 a b = (if Fp.before (m.decode a) (m.decode b) then b else a)))

/-- R339: the tile row and column instructions, where the name is bound and the row or column exists: TRDROW and TRDCOL
return the words of the contributing lanes' elements, none of them poisoned, and TWRROW and TWRCOL write them in every lane
that takes part. Lane l addresses row B, word W × K + l, or row W × K + l, word B. A word that a copy under way has still to
write is old or new first, and a word that another group or engine wrote since they met is, in the group's view, what stood
before or what stands (R340, log entry 64). -/
def Obligations.TileRows : Prop :=
  ∀ (o : TileRow) (slot : Nat) (s : State) (c : Issue),
    boundTile (s.group c.gid) o.isAcc o.idx.toNat = some slot →
    let place (w b l : Nat) (col : Bool) : Nat :=
      let row := if col then w * o.seg.toNat + l else b
      let word := if col then b else w * o.seg.toNat + l
      if o.isAcc then accPlace (State.coreOf c.gid) slot row word
      else tilePlace (State.coreOf c.gid) slot (256 * row + 4 * word)
    let limit (col : Bool) : Nat :=
      if col then (if o.isAcc then 192 else 64) else if o.isAcc then 128 else 256
    let number (a : Ask) : Nat := s.srcVal c a { fld := 1, opnd := o.row, n := 1 } ((lowest c.active).getD 0)
    let reads (i : Instr) (col : Bool) : Prop :=
      let a := askCross i o.ctl [(1, o.row, 1)] [(o.val, 1)]
      Clear s c a → number a < limit col →
        ∃ u x, Given s c a u x ∧
          let p (l : Nat) : Nat := place (u.group c.gid).flow.width (number a) l col
          let ps := (laneList x.contrib).map p
          let v := (u.raceAt ps).viewFor c.gid fun k => decide (k ∈ ps)
          ((∀ l, x.contrib.getLsbD l = true → v.1.poisoned (p l) = false) →
            exec i s = .next (s.putLater v.1 c i x .mx o.val 1 fun l => v.2.numAt (p l) 4))
    let writes (i : Instr) (col : Bool) : Prop :=
      let a := askCross i o.ctl [(0, o.val, 1), (1, o.row, 1)] []
      Clear s c a → number a < limit col →
        ∃ u x, Given s c a u x ∧
          let p (l : Nat) : Nat := place (u.group c.gid).flow.width (number a) l col
          exec i s = .next (clearWritten ((laneList x.lanes).foldl (fun t l => (t.noteWrite c.gid (p l) 4).setNum (p l) 4 (x.val 0 l))
            (u.raceAt ((laneList x.lanes).map p))) o.isAcc ((laneList x.lanes).map p))
    reads (.trdrow o) false ∧ reads (.trdcol o) true ∧ writes (.twrrow o) false ∧ writes (.twrcol o) true ∧
    (∀ (t : State) (g : Nat) (inside : Nat → Bool),
      let seen := (t.viewFor g inside).2
      (t.blockOf g = none → t.viewFor g inside = (t, t)) ∧
      ∀ b, t.blockOf g = some b →
        ((∀ e ∈ b.recent, e.gid = g ∧ e.op = none) → t.viewFor g inside = (t, t)) ∧
        ∀ a, seen.byteAt a = t.byteAt a ∨
          ∃ e ∈ b.recent, ¬ (e.gid = g ∧ e.op = none) ∧ e.place ≤ a ∧ e.old[a - e.place]? = some (seen.byteAt a))

/-- R283 to R285: what a source operand reads in a lane below W: k registers of 32 bits, the first lowest; a uniform register
and a constant are the same in every lane; a predicate reads 0 or 1; the special operands of R284. R169: reading the
operands of an instruction that names no queue changes nothing but the latch, and that only with the hold bit: l0
takes operand A, l1 and l2 take what l0 and l1 held. -/
def Obligations.OperandValues : Prop :=
  (∀ (s : State) (c : Issue) (a : Ask) (fld l : Nat), l < (s.group c.gid).flow.width →
     let x := s.group c.gid
     let read (o : Opnd) (n : Nat) : Nat := s.srcVal c a { fld, opnd := o, n } l
     (∀ k : BitVec 7, read (.v k) 1 = (x.regs.getV k.toNat l).toNat ∧
       read (.v k) 2 = (x.regs.getV k.toNat l).toNat + 2 ^ 32 * (x.regs.getV (k.toNat + 1) l).toNat) ∧
     (∀ k : BitVec 6, read (.g k) 1 = (x.regs.getG k.toNat).toNat ∧
       read (.g k) 2 = (x.regs.getG k.toNat).toNat + 2 ^ 32 * (x.regs.getG (k.toNat + 1)).toNat) ∧
     (∀ k : BitVec 4, read (.p k) 1 = if x.regs.getP k.toNat l then 1 else 0) ∧
     read (.p 15) 1 = 1 ∧
     (∀ k n, read (.const k) n = k.toNat) ∧
     (∀ k n, read (.latch k) n = (x.regs.getL k.val l).toNat) ∧
     [Special.zero, .one, .ones, .fone, .fhalf, .finf].map (fun p => read (.special p) 1) =
       [0, 1, 0xFFFFFFFF, 0x3F800000, 0x3F000000, 0x7F800000] ∧
     read (.special .laneid) 1 = l ∧ read (.special .quadid) 1 = l / 4 ∧ read (.special .gwidth) 1 = x.flow.width ∧
     read (.special .coreid) 1 = c.gid / 256 ∧
     read (.special .actlo) 1 = c.active.toNat % 2 ^ 32 ∧ read (.special .acthi) 1 = c.active.toNat / 2 ^ 32 ∧
     read (.special .flatid) 1 = x.flow.width * x.index + l) ∧
  (∀ (s : State) (c : Issue) (a : Ask), queuesIn a.srcs = [] → pushesIn a.dsts = [] →
     (a.ctl.hold = false → s.afterReads c a = s) ∧
     (a.ctl.hold = true → s.hasGroup c.gid = true → (s.group c.gid).flow.width ≤ 64 →
       (a.srcs.Pairwise fun q r => q.fld < r.fld) → (∃ q ∈ a.srcs, q.fld = 0) →
       let t := s.afterReads c a
       t = { s with groups := t.groups } ∧ (∀ h, h ≠ c.gid → t.group h = s.group h) ∧
       (let r := (s.group c.gid).regs
        let r' := (t.group c.gid).regs
        r' = { r with latch := r'.latch, latchAge := r'.latchAge } ∧
        ∀ l < (s.group c.gid).flow.width,
         (∀ q ∈ a.srcs, q.fld = 0 → r'.getL 0 l = BitVec.ofNat 32 (s.srcVal c a q l)) ∧
         r'.getL 1 l = r.getL 0 l ∧ r'.getL 2 l = r.getL 1 l)))

/-- The frame of every fixed-latency result (R291, R311): the lanes that take part are written in the registers that the
destination names, a uniform register once with the value of the lowest of them, and by a replay only where that lane is
among those it performs, p15 never; no other register of the
group, no other group, no memory and nothing else in the state changes but results still outstanding for what is
written. -/
def Obligations.FixedResultFrame : Prop :=
  ∀ (s u : State) (c : Issue) (i : Instr) (x : Ctx) (o : Opnd) (n : Nat) (f : Nat → Nat),
    u.hasGroup c.gid = true → (∀ q, o ≠ .sq q) → (∀ d, o = .v d → d.toNat + n ≤ 128) → (∀ d, o = .g d → d.toNat + n ≤ 64) →
    let t := s.putFixed u c i x o n f
    t = { u with groups := t.groups } ∧ (∀ h, h ≠ c.gid → t.group h = u.group h) ∧
    (∀ a, t.byteAt a = u.byteAt a) ∧
    t.group c.gid = { u.group c.gid with regs := (t.group c.gid).regs, ops := (t.group c.gid).ops } ∧
    (let r := (u.group c.gid).regs
     let r' := (t.group c.gid).regs
     r' = { r with v := r'.v, g := r'.g, p := r'.p, bad := r'.bad } ∧
     (∀ k l, k < 128 → l < 64 → r'.getV k l =
       match o with
       | .v d => if x.lanes.getLsbD l = true ∧ d.toNat ≤ k ∧ k < d.toNat + n
           then BitVec.ofNat 32 (f l / 2 ^ (32 * (k - d.toNat))) else r.getV k l
       | _ => r.getV k l) ∧
     (∀ k, k < 64 → r'.getG k =
       match o, lowest x.lanes with
       | .g d, some low => if lowest x.part = some low ∧ d.toNat ≤ k ∧ k < d.toNat + n
           then BitVec.ofNat 32 (f low / 2 ^ (32 * (k - d.toNat))) else r.getG k
       | _, _ => r.getG k) ∧
     (∀ k l, l < 64 → r'.getP k l =
       match o with
       | .p d => if x.lanes.getLsbD l = true ∧ k = d.toNat ∧ k ≠ 15 then f l % 2 == 1 else r.getP k l
       | _ => r.getP k l))

/-- The frame of every variable-latency result (R291): no register, no other group and no memory changes when it issues; one
outstanding result is added that holds the value of every lane that takes part, those excepted whose queue operand faulted
(R258). A replay adds none: it brings the values of the lanes that it performs. -/
def Obligations.LaterResultFrame : Prop :=
  ∀ (s u : State) (c : Issue) (i : Instr) (x : Ctx) (k : Kind) (o : Opnd) (n : Nat) (f : Nat → Nat),
    u.hasGroup c.gid = true → (∀ q, o ≠ .sq q) → (u.group c.gid).iss.forced ≠ 1 → 
    (∀ p ∈ (u.group c.gid).ops.pend, p.mirror = 0) →
    let t := s.putLater u c i x k o n f
    let was := (u.group c.gid).ops.pend
    let now := (t.group c.gid).ops.pend
    let lanes := x.lanes ||| x.late
    t = { u with groups := t.groups, serial := t.serial } ∧ (∀ h, h ≠ c.gid → t.group h = u.group h) ∧
    t.group c.gid = { u.group c.gid with ops := (t.group c.gid).ops } ∧
    (x.old = none → lanes = 0 → now = was) ∧
    (x.old = none → lanes ≠ 0 → ∃ p : Pend, now = was ++ [p] ∧
      p.kind = k ∧ p.dst = o ∧ p.nregs = n ∧ p.missing = x.late ∧ p.drop = [] ∧ lowest lanes = some p.low ∧
      ∀ l < 64, Map.find p.vals l = if lanes.getLsbD l = true then some (f l) else none) ∧
    (∀ id, x.old = some id → now.map (·.id) = was.map (·.id) ∧
      ∀ (j : Nat) (p : Pend), was[j]? = some p → ∃ q, now[j]? = some q ∧ q.dst = p.dst ∧ q.drop = p.drop ∧
        q.missing = (if p.id = id then p.missing &&& ~~~x.lanes else p.missing) ∧
        ∀ l, Map.find q.vals l = if p.id = id ∧ x.lanes.getLsbD l = true then (Map.find p.vals l).map fun _ => f l
          else Map.find p.vals l)

/-- R291, R294: the event RESULT_WRITEBACK writes the lanes of an outstanding result whose values have come, except what a
later write has overtaken, to its vector registers, its uniform registers or its predicate; nothing else changes. Where no
such result is outstanding it changes nothing. -/
def Obligations.ResultWriteback : Prop :=
  ∀ (s : State) (g k : Nat) (lanes : Lanes), s.hasGroup g = true →
    ((s.group g).ops.pend[k]? = none → exec (.resultWriteback g k lanes) s = .next s) ∧
    ∀ p : Pend, (s.group g).ops.pend[k]? = some p → ((s.group g).ops.pend.find? fun q => q.id == p.id) = some p →
    (∀ e ∈ p.vals, e.1 < 64) → (∀ d, p.dst = .v d → d.toNat + p.nregs ≤ 128) → (∀ d, p.dst = .g d → d.toNat + p.nregs ≤ 64) →
    let ready (l : Nat) : Prop := lanes.getLsbD l = true ∧ p.missing.getLsbD l = false
    ∃ t, exec (.resultWriteback g k lanes) s = .next t ∧ t = { s with groups := t.groups } ∧
      (∀ h, h ≠ g → t.group h = s.group h) ∧
      (∀ r l, r < 128 → l < 64 → (t.group g).regs.getV r l =
        match p.dst, Map.find p.vals l with
        | .v d, some v =>
          if ready l ∧ d.toNat ≤ r ∧ r < d.toNat + p.nregs ∧ ¬ (64 * r + l) ∈ p.drop
          then BitVec.ofNat 32 (v / 2 ^ (32 * (r - d.toNat))) else (s.group g).regs.getV r l
        | _, _ => (s.group g).regs.getV r l) ∧
      (∀ r, r < 64 → (t.group g).regs.getG r =
        match p.dst with
        | .g d =>
          if ready p.low ∧ d.toNat ≤ r ∧ r < d.toNat + p.nregs ∧ ¬ (64 * (128 + r)) ∈ p.drop
          then BitVec.ofNat 32 (Map.get 0 p.vals p.low / 2 ^ (32 * (r - d.toNat))) else (s.group g).regs.getG r
        | _ => (s.group g).regs.getG r) ∧
      (∀ r l, l < 64 → (t.group g).regs.getP r l =
        match p.dst, Map.find p.vals l with
        | .p d, some v =>
          if ready l ∧ r = d.toNat ∧ r ≠ 15 ∧ ¬ (64 * (192 + r) + l) ∈ p.drop then v % 2 == 1 else (s.group g).regs.getP r l
        | _, _ => (s.group g).regs.getP r l)

/-- R282, R286, R252: an instruction of the seven classes that the encoding does not admit takes ILLENC before anything
else, in every active lane of the issuing part. -/
def Obligations.IllegalEncodings : Prop :=
  ∀ (i : Instr) (s : State) (c : Issue), i.encFields.isSome = true → s.cur = some c → c.replay = none → i.wf = false →
    exec i s = .next (s.trapNow c.gid 0x20 c.active c.clause c.idx)

/-- R252: a well-formed instruction takes the first of PRIVSTATE, UNHELD, LATCHINV, HAZARD and ACCMISM that applies, in the
lanes that take part, and does nothing else: HAZARD for a vector register that an outstanding result writes, in hazard-check
mode, and ACCMISM for an operand queue without a pattern or in a group of several parts. -/
def Obligations.EntryConditions : Prop :=
  ∀ (s : State) (c : Issue) (a : Ask) (body : State → Issue → Ctx → State), s.cur = some c → c.replay = none →
    a.instr.wf = true →
    let x := s.group c.gid
    let opnds := (a.srcs.map fun q => (q.opnd, q.n)) ++ a.dsts
    let trap (cause : BitVec 8) : Host.Outcome State Fault Refusal :=
      .next (s.trapNow c.gid cause (s.takers c a) c.clause c.idx)
    let unheld : Prop := a.unheld = true ∨ ∃ o ∈ opnds, ∃ k, o.1 = .v k ∧ 8 * x.granules < k.toNat + o.2
    let latch : Prop := ∃ o ∈ opnds, ∃ k, o.1 = .latch k ∧ Map.get 0 x.regs.latchAge k.val < 2
    let hazard : Prop := ∃ b, s.blockOf c.gid = some b ∧ b.hazchk = true ∧ ∃ p ∈ x.ops.pend, ∃ q ∈ a.srcs,
      ∃ (d k : BitVec 7) (r l : Nat), p.dst = .v d ∧ q.opnd = .v k ∧ l ∈ Map.keys p.vals ∧
        (quadLanes c.quads).getLsbD l = true ∧ d.toNat ≤ r ∧ r < d.toNat + p.nregs ∧ k.toNat ≤ r ∧ r < k.toNat + q.n ∧ r < 128
    let mismatch : Prop := ∃ q ∈ a.srcs, ∃ k, q.opnd = .q k ∧ (x.flow.whole = false ∨ State.patternOf x k.toNat = none)
    (a.priv = true → run s a body = trap 0x21) ∧
    (a.priv = false → unheld → run s a body = trap 0x22) ∧
    (a.priv = false → ¬ unheld → latch → run s a body = trap 0x23) ∧
    (a.priv = false → ¬ unheld → ¬ latch → hazard → run s a body = trap 0x24) ∧
    (a.priv = false → ¬ unheld → ¬ latch → x.ops.pend = [] → mismatch → run s a body = trap 0x25)

/-- R251, R254, R262, R263, R424: taking a program trap of a job's group. Where a record can be written now (R98), it is, with
the cause, the masks, the clause and the index, the job is FAILED with ATTEMPT 7, and every group of its parts drains, with
every quad exited; no other byte of memory changes. Where it cannot, the record is owed, the group stays parked, and no job
and no other group changes. Helper lanes alone take no trap (R152). Records that the same instruction owes for recoverable
faults of its lanes are not written, and its capture is given up (R253, R255). -/
def Obligations.TrapTaken : Prop :=
  ∀ (s : State) (g : Nat) (cause : BitVec 8) (lanes : Lanes) (clause idx : Nat) (b : Block),
    s.blockOf g = some b → (s.group g).tenant < 8 → s.hasGroup g = true → State.programCause cause = true →
    (s.event b.job).st = .running ∨ (s.event b.job).st = .mailed →
    let k := (s.group g).tenant
    let u := s.retract g
    let fq := (u.tenant k).fq
    let t := s.trapNow g cause lanes clause idx
    ((∀ c, s.cur = some c → c.gid = g → c.cap = none) → u = s) ∧
    (∀ c id cap, s.cur = some c → c.gid = g → c.cap = some id →
      ((s.group g).ops.captures.find? fun y => y.id == id) = some cap →
      fq.owed = (s.tenant k).fq.owed.take ((s.tenant k).fq.owed.length - cap.unwritten) ∧
      ∀ y ∈ (u.group g).ops.captures, y.id ≠ id) ∧
    let helpers : Prop := lanes ≠ 0 ∧ lanes &&& ~~~(s.group g).flow.helper = 0
    (helpers → t = s) ∧
    (¬ helpers → ∃ r : Record, r.cause = cause ∧ r.gid = g ∧ r.lanes = lanes ∧
      r.done = fullMask (s.group g).flow.width &&& ~~~lanes ∧ r.clause = clause ∧ r.idx = idx ∧ r.job = s.jobidOf g ∧
      r.parks = false ∧ r.remote = false ∧
      (∀ p, fq.owed = [] → u.recordReady k = some p →
        (∀ a, t.byteAt a = if p ≤ a ∧ a < p + 64 then (recordBytes r fq.tail).getD (a - p) 0 else s.byteAt a) ∧
        (t.tenant k).fq.tail = fq.tail + 1 ∧
        (t.event b.job).st = .failed ∧ (t.event b.job).attempt = 7 ∧
        ∀ x ∈ s.blocks, x.2.job = b.job → x.2.dead = false → ∀ h ∈ x.2.groups, s.hasGroup h = true →
          (t.group h).park = .draining ∧ (t.group h).flow.parts = []) ∧
      (fq.owed ≠ [] ∨ u.recordReady k = none →
        (t.tenant k).fq.owed = fq.owed ++ [{ r with ends := true }] ∧ (t.group g).park = .wait .record ∧
        t.mem = s.mem ∧ t.events = s.events ∧ ∀ h, h ≠ g → t.group h = s.group h))

/-- The model answers for every instruction and event in every state: exec always has a next state, and a step stops only where
no clock runs, because an input is lost or the module has cut it off, and nothing is at hand (log entry 52). -/
def Obligations.EveryStepAnswers : Prop :=
  (∀ i s, ∃ t, exec i s = .next t) ∧
  ∀ s, (∃ t, step s = .next t) ∨
    (step s = .fault .noPower ∧ s.cur = none ∧ s.agenda = [] ∧ s.pwr.on = false ∧
      (s.pwr.lost = true ∨ s.pwr.tripped = true))

/-- A step runs the decoded instruction: where an instruction stands ready to issue, or the agenda gives an event, or a
sector's turn brings an instruction to issue, step is exec of it, followed by what the step adds around it (`State.finish`:
the part goes on, the latch ages, barriers and exits take effect). The instruction is the one that the part's
clause holds at the part's index. -/
def Obligations.StepRunsDecoded : Prop :=
  (∀ s c i, s.cur = some c → s.presented c = some i → ∃ u, exec i s = .next u ∧ step s = .next (s.finish i u)) ∧
  (∀ s i rest, s.cur = none → s.agenda = .ev i :: rest →
    ∃ u, exec i { s with agenda := rest } = .next u ∧ step s = .next ({ s with agenda := rest }.finish i u)) ∧
  (∀ s c i, s.cur = none → s.agenda = [] → s.pwr.on = true → s.phaseEvent = none → s.fab.inbox = [] → s.turn < 1024 →
    let t := ({ s with turn := s.nextTurn s.turn } : State).prepare s.turn
    t.cur = some c → t.presented c = some i → ∃ u, exec i t = .next u ∧ step s = .next (t.finish i u)) ∧
  (∀ (s : State) c p k i, c.replay = none → (s.group c.gid).flow.partOf? c.quads = some p → p.clause = some k →
    k.instrs[c.idx]? = some i → s.presented c = some i)

/-- R277 to R279, R314: where no stop and no fault of the group's slice is due, a clause whose header and words are fetched and decode is installed in its part,
with its instructions, at index 0, and the address after it as the next one; with WAIT 0 nothing else happens. -/
def Obligations.ClauseStarts : Prop :=
  ∀ (s s1 s2 : State) (g : Nat) (p : Part) (hw : Word) (h : Header) (body : List Word) (is : List Instr),
    (s.group g).iss.stopAsked = false → (s.dbgOf g).en = false → (s.group g).slice.unread = none →
    (s.group g).slice.fault = none → (s.group g).slice.spoilt = none →
    s.fetchWord g p.pc = (s1, .ok hw) → Header.decode hw = .ok h → s1.fetchWords g (p.pc + 4) h.nw = (s2, .ok body) →
    decodeClause (s1.group g).flow.width h body = .ok is → h.wait = 0 → s2.hasGroup g = true →
    let t := s.startClause g p
    t = { s2 with groups := t.groups } ∧ (∀ k, k ≠ g → t.group k = s2.group k) ∧ (t.group g).regs = (s2.group g).regs ∧
    (t.group g).flow = (s2.group g).flow.modPart p.quads fun y =>
      { y with clause := some { addr := p.pc, next := p.pc + 4 * (h.nw + 1), wait := h.wait, rgp := h.rgp, yld := h.yld,
                                instrs := is, idx := 0 } }

/-- R6, R7: a number written to memory reads back, least significant byte first; no other byte changes; nothing but memory
changes; and memory keeps its canonical form. -/
def Obligations.MemoryReadsBack : Prop :=
  ∀ (s : State) (a n x : Nat),
    let t := s.setNum a n x
    t.numAt a n = x % 256 ^ n ∧
    (∀ i, i < n → t.byteAt (a + i) = BitVec.ofNat 8 (x / 256 ^ i)) ∧
    (∀ p, p < a ∨ a + n ≤ p → t.byteAt p = s.byteAt p) ∧
    t = { s with mem := t.mem } ∧
    (s.MemOk → t.MemOk)

/-- What a register of the physical function, or of a port, a tenant or a boundary index, reads as after reset where the spec
gives its reset value (R39, R43, R45, R49, R84, R102, R125), and that memory then lists nothing. -/
def Obligations.ResetRegisters : Prop :=
  let s := State.reset
  s.MemOk ∧ s.mem = [] ∧ (∀ a, s.byteAt a = 0) ∧
  s.pfReg 0x2000 = 3200 ∧ s.pfReg 0x2010 = 2 ∧ s.pfReg 0x2100 = 100 ∧
  s.pfReg 0x1430 = 256 * 2 ^ 16 + 8 * 2 ^ 8 + 24 ∧
  (∀ n < 62, s.pfReg (0x1000 + 8 * n) = 0x30) ∧
  (∀ t < 8, s.pfReg (0x3008 + 0x40 * t) = 64 ∧ s.pfReg (0x3010 + 0x40 * t) = 0) ∧
  (∀ t < 9, s.pfReg (0x6400 + 8 * t) = 31 + 31 * 2 ^ 10 ∧ s.pfReg (0x6800 + 8 * t) = 0 ∧
    ∀ i < 4, s.pfReg (0x6000 + 0x40 * t + 0x10 * i) = 0xFFFFFFFFFFFFF000 ∧
      s.pfReg (0x6008 + 0x40 * t + 0x10 * i) = 0 ∧
      s.pfReg (0x6500 + 0x40 * t + 0x10 * i) = 0x1FFFFFFFF000 ∧ s.pfReg (0x6508 + 0x40 * t + 0x10 * i) = 0)

/-- R343 to R345, R253: LD, LDS and LDV where every lane's access passes the checks, lies on this device or in host memory that
the tenant's budget covers (R103), and reads no poison: the destination of every lane that takes part becomes due with the bytes read at the lane's
address, extended with the sign for .s8 and .s16 (R310); .acq and .acr acquire (R195). LDS and LDV address the windows of
R343. -/
def Obligations.Loads : Prop :=
  ∀ (o : MemOp) (s : State) (c : Issue),
    let t := o.ty.orElse .b32
    let form (i : Instr) (n : Nat) (ea : Nat → Nat) : Prop :=
      let a := ask i o.ctl [(0, o.a, n)] [(o.d, t.regs)]
      let u := s.afterReads c a
      let lanes := s.takers c a
      let helper := (u.group c.gid).flow.helper
      let accs := accsOf lanes fun l => ea (s.srcVal c a { fld := 0, opnd := o.a, n } l)
      let r := u.checkLanes (u.whoOf c.gid) accs t.bytes (o.scope != .none) { write := false, fetch := false } helper
      let paid := if hostBytes r.2.ok = 0 then r.1 else r.1.chargeHost (u.group c.gid).tenant (hostBytes r.2.ok)
      let v := paid.readLanes c.gid r.2.ok (scopeWide (u.multiPart c.gid) o.scope) helper
      let value (l : Nat) : Nat :=
        let x := Map.get 0 v.2.1 l
        if t.isSigned then ((BitVec.ofNat t.bits x).signExtend 32).toNat else x
      let p := v.1.addPend c.gid .ld o.d t.regs (if t.isSigned then t.bits else 0) lanes 0 value
      Clear s c a → r.2.errs = [] → (∀ k ∈ r.2.ok, isRemote k = false) → u.lanesWait r.1 c.gid r.2.ok = none → v.2.2 = [] →
      exec i s = .next (if o.ord = .acq ∨ o.ord = .acr then p.1.acquire c.gid o.scope else p.1)
    form (.ld o) 2 (fun a => a) ∧
    form (.lds o) 1 (fun a =>
      let off := a % 2 ^ 32
      if o.sub = 1 then (if off < 0x1000000 then 0x01FFFFFF80000000 + off else 2 ^ 57 + (0x01FFFFFF80000000 + off) % 2 ^ 57)
      else if off < 0x200000 then 0x01FFFFFF81000000 + off else 2 ^ 57 + (0x01FFFFFF81000000 + off) % 2 ^ 57) ∧
    form (.ldv o) 1 (fun a =>
      let off := a % 2 ^ 32
      let vault := 0x01FFFFFF00000000 + if o.sub = 1 then 0x2000000 * (c.gid / 256) else 0
      if off < (if o.sub = 1 then 0x2000000 else 0x80000000) then vault + off else 2 ^ 57 + (vault + off) % 2 ^ 57)

/-- R186, R195: what local bytes read as by a load that is not performed at the home, where no copy under way has still to write
them (R208): the group's own latest store, else a valid byte of the core's L1, else the byte in memory. Memory is not
changed where the L1 keeps lines. -/
def Obligations.LoadedBytes : Prop :=
  ∀ (s : State) (g : Nat) (ls : List Loc), s.owned = [] → (∀ l ∈ ls, remoteLoc l = none) →
    (∀ l ∈ ls, s.keyFits (s.group g).tenant (l.place / 64) = true) → (∀ l ∈ ls, s.racers (l.place / 4 * 4) = []) →
    (s.loadBytes g ls false).2.1 = ls.map (fun l =>
      match s.ownByte g l.key with
      | some b => b
      | none =>
        let k := Map.get Line.empty (s.core (State.coreOf g)).l1 (l.place / 64)
        if cacheable l.home = true ∧ k.valid.getLsbD (l.place % 64) = true then k.byte (l.place % 64) else s.byteAt l.place) ∧
    (s.hasCache (State.coreOf g) = true → ∀ a, (s.loadBytes g ls false).1.byteAt a = s.byteAt a)

/-- R343 to R345: ST, STS and STV where every lane's access passes the checks and lies on this device or in host memory that the
tenant's budget covers (R103), in a group that is no twin copy: the bytes of operand B of every contributing lane,
ascending, are stored at the lane's address, and lines that they wholly cover are no longer poisoned (R265). A .rel store
is preceded by a release (R195). -/
def Obligations.Stores : Prop :=
  ∀ (o : MemOp) (s : State) (c : Issue),
    let t := o.ty.orElse .b32
    let form (i : Instr) (n : Nat) (ea : Nat → Nat) : Prop :=
      let a := ask i o.ctl [(0, o.a, n), (1, o.b, t.regs)] []
      let read := s.afterReads c a
      let u := if o.ord = .rel then read.releaseLocal c.gid o.scope else read
      let lanes := s.givers c a
      let accs := accsOf lanes fun l => ea (s.srcVal c a { fld := 0, opnd := o.a, n } l)
      let r := u.checkLanes (u.whoOf c.gid) accs t.bytes (o.scope != .none) { write := true, fetch := false } 0
      let paid := if hostBytes r.2.ok = 0 then r.1 else r.1.chargeHost (u.group c.gid).tenant (hostBytes r.2.ok)
      let data (l : Nat) : List Byte := bytesOf t.bytes (s.srcVal c a { fld := 1, opnd := o.b, n := t.regs } l)
      Clear s c a → s.isTwin c.gid = false → read.isTwin c.gid = false → u.isTwin c.gid = false →
      (u.group c.gid).iss.forced = 0 →
      (o.ord = .rel → (s.releaseLocal c.gid o.scope).releaseWait c.gid o.scope false none = none) →
      r.2.errs = [] → (∀ k ∈ r.2.ok, isRemote k = false) → u.lanesWait r.1 c.gid r.2.ok = none →
      exec i s = .next ((r.2.ok.foldl (fun v k =>
        v.storeLane c.gid k.2 (data k.1) (scopeWide (u.multiPart c.gid) o.scope) 0) paid).clearCovered c.gid r.2.ok)
    form (.st o) 2 (fun a => a) ∧ form (.sts o) 1 (spadAddr o.sub) ∧ form (.stv o) 1 (vaultAddr (c.gid / 256) o.sub)

/-- R186, R345: what the store of one lane changes, where no copy under way has still to write its bytes (R208). In scratchpad, at
once, the bytes at the lane's places and no other byte, and nothing but memory and poison, where no earlier push to the same
store queue stands in the store buffer (R171). Elsewhere a store that is not
performed at the home enters the core's store buffer, with the bytes at the lane's places in order, and no byte of memory
changes. R195, R219: a store that leaves the store buffer for its home writes its bytes there and no other byte, where its
line is not guarded, no engine owns a line, and the line has been written under the tenant's present key. -/
def Obligations.StoredBytes : Prop :=
  (∀ (s : State) (g q : Nat) (ls : List Loc) (bs : List Byte), ls.length = bs.length →
     (∀ l ∈ ls, s.racers (l.place / 4 * 4) = []) →
     ((∀ l ∈ ls, l.home = .spad) → (q ≠ 0 → ∀ e ∈ (s.core (State.coreOf g)).store, e.gid = g → e.queue ≠ q) → ∀ wide,
       let t := s.storeLane g ls bs wide q
       t = { s with mem := t.mem, poison := t.poison, poisonFrom := t.poisonFrom, cores := t.cores } ∧
       (q = 0 → t.cores = s.cores) ∧ (∀ k, t.core k = s.core k) ∧
       ∀ p, t.byteAt p = match (ls.zip bs).reverse.find? (fun x => x.1.place == p) with
         | some x => x.2
         | none => s.byteAt p) ∧
     ((∀ l ∈ ls, l.home = .hbm ∨ l.home = .pewter ∨ l.home = .vault ∨ l.home = .host) →
       let t := s.storeLane g ls bs false q
       t.mem = s.mem ∧ (∀ h, t.group h = s.group h) ∧ (∀ k, k ≠ State.coreOf g → t.core k = s.core k) ∧
       ∃ new : List BufStore, (t.core (State.coreOf g)).store = (s.core (State.coreOf g)).store ++ new ∧
         (∀ e ∈ new, e.gid = g ∧ e.queue = q) ∧
         (new.flatMap fun e => (List.range e.bytes.length).map fun i => (e.place + i, e.bytes.getD i 0)) =
           (ls.map (·.place)).zip bs)) ∧
  (∀ (s : State) (c : Nat) (e : BufStore), s.owned = [] → s.guardAt (s.group e.gid).tenant e.place = none →
     s.keyFits (s.group e.gid).tenant (e.place / 64) = true → (e.home || !cacheable (placeHome e.place) || !s.hasCache c) = true →
     let t := s.performStore c e
     (∀ p, t.byteAt p = if e.place ≤ p ∧ p < e.place + e.bytes.length then e.bytes.getD (p - e.place) 0 else s.byteAt p) ∧
     (∀ h, t.group h = s.group h) ∧ (s.MemOk → t.MemOk))

/-- R346, R347: ATOM and RED of lanes whose bytes lie on this device and are not poisoned, in a group that is no twin copy:
after the release of .rel and .acr, the contributing lanes' steps are performed in ascending lane order. ATOM's
destination becomes due in the contributing lanes with each lane's old value; a helper lane's keeps its value (R152). -/
def Obligations.Atomics : Prop :=
  ∀ (o : AtomicOp) (s : State) (c : Issue),
    let t := o.ty.orElse .b32
    let rel : Prop := o.ord = .rel ∨ o.ord = .acr
    let form (i : Instr) (dst : Option Opnd) : Prop :=
      let a := askAtomic i o (match dst with | some d => [(d, t.regs)] | none => [])
      let u := s.afterReads c a
      let accs := accsOf (s.givers c a) fun l => s.srcVal c a { fld := 0, opnd := o.a, n := 2 } l
      let r := u.checkLanes (u.whoOf c.gid) accs t.bytes true { write := true, fetch := false, ban := .host } 0
      Clear s c a → s.isTwin c.gid = false → r.1.isTwin c.gid = false →
      (rel → (s.releaseLocal c.gid o.scope).releaseWait c.gid o.scope false none = none) →
      r.2.errs = [] → (∀ k ∈ r.2.ok, isRemote k = false) → u.lanesWait r.1 c.gid r.2.ok = none →
      r.1.spoiltLanes c.gid r.2.ok = [] →
      ∃ x, Given s c a u x ∧
        let at_ (w : State) : State :=
          let q := w.atomicSteps c.gid o.op t (scopeWide (u.multiPart c.gid) o.scope) x r.2.ok
          let v := match dst with
            | some d => (q.1.addPend c.gid .ld d t.regs 0 (s.givers c a) 0 fun l => Map.get 0 q.2 l).1
            | none => q.1
          if o.ord = .acq ∨ o.ord = .acr then v.acquire c.gid o.scope else v
        (rel → exec i s = .next (at_ (r.1.releaseLocal c.gid o.scope))) ∧ (¬ rel → exec i s = .next (at_ r.1))
    form (.atom o) (some o.d) ∧ form (.red o) none

/-- R346, R347: the new value of each operation, of .f32 by the rules of R80, and one lane's step on bytes of the
scratchpad that no copy under way has still to write (R208): the old value is answered, the bytes take the new value,
and no other byte changes. Operands A to C are the address, b and the compare value. -/
def Obligations.AtomicStep : Prop :=
  (∀ (t : Ty) (old b k : Nat), old < 2 ^ t.bits → t ≠ .f32 →
    let lo (v : Nat) : Nat := v % 2 ^ t.bits
    atomicNew .add t old b k = (old + lo b) % 2 ^ t.bits ∧
    atomicNew .min t old b k = (if intVal t old ≤ intVal t (lo b) then old else lo b) ∧
    atomicNew .max t old b k = (if intVal t old ≤ intVal t (lo b) then lo b else old) ∧
    atomicNew .and t old b k = old &&& lo b ∧
    atomicNew .or t old b k = old ||| lo b ∧
    atomicNew .xor t old b k = old ^^^ lo b ∧
    atomicNew .exch t old b k = lo b ∧
    atomicNew .cas t old b k = (if old = lo k then lo b else old)) ∧
  (∀ (old b k : Nat),
    let m := Fmt.f32
    let u := m.decode old
    let v := m.decode (b % 2 ^ 32)
    atomicNew .add .f32 old b k = m.encode .ne (Fp.add u v) ∧
    atomicNew .min .f32 old b k =
      (if u = .nan ∨ v = .nan then 0x7FC00000 else if Fp.before u v = true then old else b % 2 ^ 32) ∧
    atomicNew .max .f32 old b k =
      (if u = .nan ∨ v = .nan then 0x7FC00000 else if Fp.before u v = true then b % 2 ^ 32 else old)) ∧
  (∀ (s : State) (g a l : Nat) (op : AtomOp) (t : Ty) (wide : Bool) (x : Ctx),
    let ls := (List.range t.bytes).map fun i => ({ place := a + i, home := .spad, strict := false } : Loc)
    (∀ i < t.bytes, s.ownByte g (a + i) = none ∧ s.racers ((a + i) / 4 * 4) = []) → a % 64 + t.bytes ≤ 64 →
    a < 2 ^ 61 + 2 ^ 31 →
    let q := s.atomicSteps g op t wide x [(l, ls)]
    let old := s.numAt a t.bytes
    q.2 = [(l, old)] ∧ q.1 = s.setNum a t.bytes (atomicNew op t old (x.val 1 l) (x.val 2 l)))

/-- R196, R349: FENCE in a group that is no twin copy: .rel and .acr release (R195) and complete once nothing that the release waits
for is outstanding, a .acr fence of a wide scope for every earlier remote operation (R201); .acq and .acr acquire; .acq
alone needs earlier loads from peers to have their values. R350: SFENCE writes the causes gathered, with bit 3 where a
stripe it covered has lost the parity member, and clears them, once no guarded write is outstanding (R220). R351: PBAR lets
the group's strict stores leave the store buffer and completes when no remote store to Pewter is outstanding. -/
def Obligations.Fences : Prop :=
  ∀ (o : SyncOp) (s : State) (c : Issue),
    let g := c.gid
    (let a := ask (.fence o) o.ctl [] []
     let u := s.afterReads c a
     let acq (v : State) : State := if o.ord = .acq ∨ o.ord = .acr then v.acquire g o.scope else v
     Clear s c a → u.isTwin g = false →
      (o.ord = .acq → u.loadsDue g = false → exec (.fence o) s = .next (u.acquire g o.scope)) ∧
      (o.ord = .rel ∨ o.ord = .acr → (s.releaseLocal g o.scope).releaseWait g o.scope (o.ord == .acr) none = none →
        exec (.fence o) s = .next (acq (u.releaseLocal g o.scope)))) ∧
    (let a := ask (.sfence o) o.ctl [] [(o.d, 1)]
     let u := (s.afterReads c a).drainWhere (g / 256) fun e => e.gid == g && e.guarded.isSome
     let x := u.group g
     let lost := x.ops.covered.any fun k => (u.stripe x.tenant k.1).lostv && (u.stripe x.tenant k.1).lostidx.toNat == k.2
     Clear s c a → (s.afterReads c a).isTwin g = false → x.iss.forced ≠ 1 → u.fenceDue g = false →
      ∃ y, Given s c a (s.afterReads c a) y ∧
        exec (.sfence o) s = .next (s.putFixed (u.modOps g fun k => { k with sfence := 0, covered := [] }) c (.sfence o) y o.d 1
          fun _ => x.ops.sfence.toNat ||| if lost then 8 else 0)) ∧
    (let a := ask (.pbar o) o.ctl [] []
     let u := (s.afterReads c a).drainWhere (g / 256) fun e => e.gid == g && e.strict
     Clear s c a → (s.afterReads c a).isTwin g = false → u.pewterDue g = false → exec (.pbar o) s = .next u)

/-- R352: PREF has no effect. CFLUSH and CINV where every line that a lane names passes its checks and the tenant's HOST budget covers the
walks (R103): CFLUSH writes each cached
line's dirty bytes home and drops the line, CINV drops its clean bytes. R195: an acquire at a scope wider than one core leaves
no clean byte in the core's L1, so that later loads read the homes, and every dirty byte as it is; it changes no byte of
memory, no group and no other core. At .grp and .cor an acquire does nothing. -/
def Obligations.CacheControl : Prop :=
  (∀ (o : MemOp) (s : State) (c : Issue),
     let core := State.coreOf c.gid
     let gather (u : State) (x : Ctx) : State × List Nat × List LaneErr :=
       (laneList x.lanes).foldl (fun (r : State × List Nat × List LaneErr) l =>
         let q := r.1.lineLoc (u.whoOf c.gid) (x.val 0 l)
         match q.2 with
         | .ok k => (q.1, if cacheable k.home then insertNat (k.place / 64) r.2.1 else r.2.1, r.2.2)
         | .error e => (q.1, r.2.1, if (u.group c.gid).flow.helper.getLsbD l then r.2.2 else r.2.2 ++ [laneErr l false e]))
         (u, [], [])
     let one (i : Instr) : Ask := ask i o.ctl [(0, o.a, 2)] []
     (Clear s c (one (.pref o)) → exec (.pref o) s = .next (s.afterReads c (one (.pref o)))) ∧
     (Clear s c (one (.cflush o)) → ∃ u x, Given s c (one (.cflush o)) u x ∧ ((gather u x).2.2 = [] → u.lanesWait (gather u x).1 c.gid [] = none →
       exec (.cflush o) s = .next ((gather u x).2.1.foldl
         (fun v line => ((v.drainLine c.gid line).writeBack core line).dropLine core line) (gather u x).1))) ∧
     (Clear s c (one (.cinv o)) → ∃ u x, Given s c (one (.cinv o)) u x ∧ ((gather u x).2.2 = [] → u.lanesWait (gather u x).1 c.gid [] = none →
       exec (.cinv o) s = .next ((gather u x).2.1.foldl (fun v line => v.dropClean core line) (gather u x).1)))) ∧
  (∀ (s : State) (g : Nat) (sc : Scope),
     (scopeWide (s.multiPart g) sc = true →
       let t := s.acquire g sc
       t = { s with cores := t.cores } ∧ (∀ k, k ≠ State.coreOf g → t.core k = s.core k) ∧
       (∀ line, let l := Map.get Line.empty (t.core (State.coreOf g)).l1 line
         let old := Map.get Line.empty (s.core (State.coreOf g)).l1 line
         l.valid &&& ~~~l.dirty = 0 ∧ (old.dirty ≠ 0 → l = { old with valid := old.dirty }))) ∧
     s.acquire g .grp = s ∧ s.acquire g .cor = s)

/-- R353, R354, R78: MCAST in a group that is no twin copy, with a list of members that could be read and is well formed, and lanes
that pass their checks and address one line: after the release of .rel, an outstanding result of D, and one copy of the
line's bytes to each distinct member, positions of the bitmap as in the list. With no contributing lane, D receives 0. -/
def Obligations.Multicasts : Prop :=
  ∀ (o : MemOp) (s : State) (c : Issue) (members : List (BitVec 12)) (v : State),
    let t := o.ty.orElse .b32
    let a := { ask (.mcast o) o.ctl [(0, o.a, 2), (1, o.b, t.regs), (2, o.c, 2)] [(o.d, 2)] with cross := true }
    let u := s.afterReads c a
    let lanes := s.givers c a
    let accs := accsOf lanes fun l => s.srcVal c a { fld := 0, opnd := o.a, n := 2 } l
    Clear s c a →
    (lanes = 0 → ∃ x, Given s c a u x ∧ exec (.mcast o) s = .next (s.putLater u c (.mcast o) x .fb o.d 2 fun _ => 0)) ∧
    (lanes ≠ 0 →
      u.readMembers c.gid (s.srcVal c a { fld := 2, opnd := o.c, n := 2 } ((lowest c.active).getD 0)) = (v, .ok (some members)) →
      let r := v.checkLanes (v.whoOf c.gid) accs t.bytes (o.ord == .rel) { write := true, fetch := false, ban := .odd } 0
      r.2.errs = [] → v.lanesWait r.1 c.gid (r.2.ok.map fun k => (k.1, [])) = none →
      (∃ line, ∀ e ∈ accs, e.va / 64 = line ∧ (e.va + t.bytes - 1) / 64 = line) →
      r.1.isTwin c.gid = false →
      (o.ord = .rel → (s.releaseLocal c.gid o.scope).releaseWait c.gid o.scope false none = none) →
      let base := (r.2.ok.head?.bind fun k => k.2.head?.map (·.place)).getD 0 / 64 * 64
      let offs := r.2.ok.flatMap fun k =>
        (k.2.zip (bytesOf t.bytes (s.srcVal c a { fld := 1, opnd := o.b, n := t.regs } k.1))).map fun lb => (lb.1.place % 64, lb.2)
      let w := if o.ord = .rel then r.1.releaseLocal c.gid o.scope else r.1
      let p := w.addPend c.gid .fb o.d 2 0 (s.takers c a) (s.takers c a) fun _ => 0
      exec (.mcast o) s = .next (p.1.sendMulticast c.gid p.2 members base (State.castLine offs)))

/-- R192, R355 to R359: ACPY in a group that is no twin copy, with its ranges checked and room for its requests in the core and in
the host budget: one engine operation for each contributing lane with bytes to move, each an open copy of the group; where
the lanes' destinations overlap in some byte of storage, one that takes the lanes in order (R341). ABATCH numbers the open copies
as the next batch and writes its number. AWAIT goes on where its batch is complete. TCPY of a bound slot, with a
well-formed descriptor and checked rows, is one engine operation. R208: the event ASYNC_COPY_WRITE writes the next
destination line of a copy; where a copy has one piece left, within the scratchpad, the destination takes the source's
bytes, no other byte changes, and the copy is complete. -/
def Obligations.AsyncCopies : Prop :=
  ((∀ (o : SyncOp) (s : State) (c : Issue) (bar : Option Nat),
     let g := c.gid
     let n := if SyncOp.copyGather o.sub = 0 then [(2, o.c, 1)] else []
     let d := if SyncOp.copyBar o.sub then [(3, o.d, 2)] else []
     let a := ask (.acpy o) o.ctl ([(0, o.a, 2), (1, o.b, 2)] ++ n ++ d) []
     Clear s c a → ∃ u x, Given s c a u x ∧
       let ks := laneCopies o x ((lowest x.contrib).getD 0)
       let r := ks.foldl (fun (r : State × List (LaneCopy × Extent × Extent) × List LaneErr) k =>
         let q := r.1.checkCopy g (gatherSize o.sub) k
         if q.2.2 = [] then (q.1, r.2.1 ++ [q.2.1], r.2.2) else (q.1, r.2.1, r.2.2 ++ q.2.2)) (u, [], [])
       let pieces (k : LaneCopy × Extent × Extent) : List CopySeg :=
         piecesOf k.2.1 k.2.2 none 0 k.1.src k.1.dst (k.1.len + 1) 0 k.1.len
       (u.copyBarrier g (SyncOp.copyBar o.sub) (x.val 3 ((lowest c.active).getD 0)) = .ok bar →
         (gatherSize o.sub = 0 → ∀ k ∈ ks, badCopy k = false) → r.2.2 = [] →
         u.engineWait r.1 g r.2.1.length (r.2.1.map fun k => State.segUnits (pieces k)).sum = none → r.1.isTwin g = false →
         let all := r.2.1.flatMap pieces
         let meet : Prop := ∃ k ∈ r.2.1, ∃ m ∈ r.2.1, k.1.lane ≠ m.1.lane ∧ ∃ y ∈ pieces k, ∃ z ∈ pieces m,
           State.overlaps y.dst y.len z.dst z.len = true
         let host := (r.2.1.filter fun k => (pieces k).any State.hostPiece).map (·.1.lane)
         (meet → exec (.acpy o) s = .next ((r.1.chargeSegs g all).startCopy g .as all bar [] (maskOf host))) ∧
         (¬ meet → exec (.acpy o) s = .next (r.2.1.foldl (fun t k =>
           if k.1.len = 0 then t
           else (t.chargeSegs g (pieces k)).startCopy g .as (pieces k) bar [] (laneBit k.1.lane)) r.1)))) ∧
   (∀ (o : Reg3) (s : State) (c : Issue),
     let g := c.gid
     (let a := ask (.abatch o) o.ctl [] [(o.d, 1)]
      Clear s c a → ∃ u x, Given s c a u x ∧
       let n := (u.group g).ops.batch + 1
       exec (.abatch o) s = .next (s.putFixed (u.modOps g fun k =>
         { k with batch := n, openCopies := [], batchCopies := k.batchCopies ++ k.openCopies.map fun i => (n.toNat, i) })
         c (.abatch o) x o.d 1 fun _ => n.toNat)) ∧
     (let a := ask (.await o) o.ctl [(0, o.a, 1)] []
      let n := s.srcVal c a { fld := 0, opnd := o.a, n := 1 } ((lowest c.active).getD 0) % 2 ^ 32
      Clear s c a → (s.afterReads c a).batchDone g n = true → exec (.await o) s = .next (s.afterReads c a))) ∧
   (∀ (o : SyncTile) (s v : State) (c : Issue) (slot : Nat) (bar : Option Nat) (bs : List Byte) (d : TensorDesc),
     let g := c.gid
     let withBar := SyncOp.copyBar o.sub
     let a := ask (.tcpy o) o.ctl ([(0, o.x, 2)] ++ if withBar then [(1, o.y, 2)] else []) []
     let u := s.afterReads c a
     let l := (lowest c.active).getD 0
     let at_ := s.srcVal c a { fld := 0, opnd := o.x, n := 2 } l
     s.slotOf false o.tile.toNat = some slot → Clear s c a → l < 64 →
     u.copyBarrier g withBar (if withBar then s.srcVal c a { fld := 1, opnd := o.y, n := 2 } l else 0) = .ok bar →
     at_ % 32 = 0 → u.readDesc g at_ 32 = (v, .ok bs) → parseTensor bs = some d →
     let q := v.checkRows g l (g / 256) slot d
     q.2.2 = [] → u.engineWait q.1 g 1 (State.segUnits q.2.1) = none →
     exec (.tcpy o) s = .next ((q.1.chargeSegs g q.2.1).startCopy g .as q.2.1 bar [slot] (laneBit l)))) ∧
  (∀ (s : State) (c k count : Nat) (y : Copy) (seg : CopySeg),
     (s.core c).copies[k]? = some y → (∀ z ∈ (s.core c).copies, z.id = y.id → z = y) → y.segs = [seg] →
     seg.lit = none → y.barrier = none → y.lines = [] → y.failed = false → 0 < count →
     2 ^ 61 ≤ seg.src → seg.src + seg.len ≤ 2 ^ 61 + 2 ^ 30 → 2 ^ 61 ≤ seg.dst → seg.dst + seg.len ≤ 2 ^ 61 + 2 ^ 30 →
     s.pewKey = [] → (s.core (State.coreOf y.gid)).l1 = [] → (∀ p, s.ownByte y.gid p = none) →
     s.anyPoison seg.src seg.len = false →
     ∃ t, exec (.asyncCopyWrite c k count) s = .next t ∧
       (∀ p, t.byteAt p = if seg.dst ≤ p ∧ p < seg.dst + seg.len then s.byteAt (seg.src + (p - seg.dst)) else s.byteAt p) ∧
       (∀ z ∈ (t.core c).copies, z.id ≠ y.id) ∧ (∀ h, t.group h = s.group h))

/-- R360 to R362: the async barrier instructions on an object that lies in the scratchpad or cohort window, is aligned and not
poisoned, with PENDING at most EXPECTED. BARI writes TCOUNT 0, PENDING and EXPECTED b and PHASE 0; the others need
EXPECTED above 0. BARX adds to TCOUNT, BARA takes b arrivals after a
release; each then checks for completion, and answers PHASE as it stood. BARW goes on where the phase is complete, with
an acquire; a poll answers 1 or 0. R193: the completion of a phase: with PENDING and TCOUNT both 0, PHASE counts up modulo
2^32 and PENDING takes EXPECTED again; otherwise nothing changes. A phase p is complete once PHASE has passed it by 1 to
2^31 − 1. -/
def Obligations.AsyncBarriers : Prop :=
  (∀ (o : SyncOp) (s : State) (c : Issue) (p : Nat),
     let g := c.gid
     let of (i : Instr) : Ask := { ask i o.ctl [(0, o.a, 2), (1, o.b, 1)] [(o.d, 1)] with cross := true }
     let arg (i : Instr) (f : Nat) (w : Opnd) (n : Nat) : Nat :=
       s.srcVal c (of i) { fld := f, opnd := w, n } ((lowest c.active).getD 0)
     let num (i : Instr) : Nat := arg i 1 o.b 1 % 2 ^ 32
     let ready (i : Instr) : Prop :=
       let u := s.afterReads c (of i)
       Clear s c (of i) ∧ u.objectPlace g (arg i 0 o.a 2) 16 = .ok p ∧ u.poisoned p = false ∧ u.isTwin g = false
     let sound (i : Instr) : Prop :=
       let u := s.afterReads c (of i)
       0 < u.numAt (p + 10) 2 ∧ u.numAt (p + 8) 2 ≤ u.numAt (p + 10) 2
     (ready (.bari o) → (s.afterReads c (of (.bari o))).numAt (p + 8) 2 ≤ (s.afterReads c (of (.bari o))).numAt (p + 10) 2 →
       0 < num (.bari o) → num (.bari o) ≤ 65535 → ∃ u x, Given s c (of (.bari o)) u x ∧
       exec (.bari o) s = .next (s.putLater ((((u.setNum p 8 0).setNum (p + 8) 2 (num (.bari o))).setNum (p + 10) 2
         (num (.bari o))).setNum (p + 12) 4 0) c (.bari o) x .ld o.d 1 fun _ => 0)) ∧
     (ready (.barx o) → sound (.barx o) → ∃ u x, Given s c (of (.barx o)) u x ∧
       exec (.barx o) s = .next (s.putLater (u.barAdd p (num (.barx o))) c (.barx o) x .ld o.d 1 fun _ => u.numAt (p + 12) 4)) ∧
     (ready (.bara o) → sound (.bara o) → 0 < num (.bara o) → num (.bara o) ≤ 65535 →
       num (.bara o) ≤ (s.afterReads c (of (.bara o))).numAt (p + 8) 2 →
       (s.releaseLocal g o.scope).releaseWait g o.scope false none = none → ∃ u x, Given s c (of (.bara o)) u x ∧
         let v := u.releaseLocal g o.scope
         exec (.bara o) s = .next (s.putLater ((v.setNum (p + 8) 2 (v.numAt (p + 8) 2 - num (.bara o))).barCheck p) c (.bara o) x
           .ld o.d 1 fun _ => v.numAt (p + 12) 4)) ∧
     (ready (.barw o) → sound (.barw o) → ∃ u x, Given s c (of (.barw o)) u x ∧
       let done := u.phaseDone p (BitVec.ofNat 32 (num (.barw o)))
       (done = true → exec (.barw o) s = .next (s.putLater (u.acquire g o.scope) c (.barw o) x .ld o.d 1 fun _ =>
         if o.sub.getLsbD 0 then 1 else u.numAt (p + 12) 4)) ∧
       (done = false → o.sub.getLsbD 0 = true →
         exec (.barw o) s = .next (s.putLater u c (.barw o) x .ld o.d 1 fun _ => 0)))) ∧
  (∀ (s : State) (p : Nat),
     (s.numAt (p + 8) 2 = 0 → s.numAt p 8 = 0 →
       (s.barCheck p).numAt (p + 12) 4 = (s.numAt (p + 12) 4 + 1) % 2 ^ 32 ∧
       (s.barCheck p).numAt (p + 8) 2 = s.numAt (p + 10) 2 ∧ (s.barCheck p).numAt (p + 10) 2 = s.numAt (p + 10) 2 ∧
       (s.barCheck p).numAt p 8 = 0) ∧
     (s.numAt (p + 8) 2 ≠ 0 ∨ s.numAt p 8 ≠ 0 → s.barCheck p = s) ∧
     (∀ q, q < p ∨ p + 16 ≤ q → (s.barCheck p).byteAt q = s.byteAt q) ∧
     (∀ n : BitVec 32, s.phaseDone p n = true ↔ 1 ≤ (s.numAt (p + 12) 4 + (2 ^ 32 - n.toNat)) % 2 ^ 32 ∧
       (s.numAt (p + 12) 4 + (2 ^ 32 - n.toNat)) % 2 ^ 32 < 2 ^ 31))

/-- R363, R364: BSYNC and CSYNC with a number below 16, in a group that is no twin copy, with no MX operation outstanding and
a release that need not wait: the part performs the release and stands at the barrier, with its instruction not yet complete. -/
def Obligations.BlockBarriers : Prop :=
  ∀ (o : SyncOp) (s : State) (c : Issue),
    let g := c.gid
    let form (i : Instr) (sc : Scope) (hold : Nat → Hold) : Prop :=
      let a := ask i o.ctl [(0, o.a, 1)] []
      let n := s.srcVal c a { fld := 0, opnd := o.a, n := 1 } ((lowest c.active).getD 0) % 2 ^ 32
      let u := s.afterReads c a
      Clear s c a → n < 16 → u.isTwin g = false → (u.flushPend g).kindsOutstanding g 0x08 = false →
      (s.releaseLocal g sc).releaseWait g sc false none = none →
      exec i s = .next ((((u.flushPend g).releaseLocal g sc).modFlow g fun f =>
        f.modPart c.quads fun p => { p with hold := hold n }).staysHeld)
    form (.bsync o) .blk .bsync ∧ form (.csync o) .coh .csync

/-- R365 to R367: the scratchpad queues, on an object that lies in the scratchpad or cohort window, is aligned, well formed and not
poisoned, in a group that is no twin copy. QINIT empties the queue with capacity b. QPUSH, with room and no other
group before it, stores the entry after a release; QPOP, with an entry and no other group before it, takes the oldest
with an acquire; QTRY does either where nobody waits at the object, and answers 1, with the entry in the low word, or answers 0. -/
def Obligations.ScratchpadQueues : Prop :=
  ∀ (o : SyncOp) (s : State) (c : Issue) (p e : Nat),
    let g := c.gid
    let low := (lowest c.active).getD 0
    let srcs2 := [(0, o.a, 2), (1, o.b, 1)]
    let addr (a : Ask) : Nat := s.srcVal c a { fld := 0, opnd := o.a, n := 2 } low
    let b (a : Ask) : Nat := s.srcVal c a { fld := 1, opnd := o.b, n := 1 } low
    let ready (a : Ask) : Prop :=
      let u := s.afterReads c a
      Clear s c a ∧ u.objectPlace g (addr a) 32 = .ok p ∧ u.poisoned p = false ∧ u.isTwin g = false
    let pushed (v : State) (x : Nat) : State := (v.pushEntry p e x).leaveQueue g p true
    let popped (v : State) : State := ((v.popEntry p).leaveQueue g p false).acquire g o.scope
    (let a := ask (.qinit o) o.ctl srcs2 []
     ready a → 0 < b a % 2 ^ 32 → b a % 2 ^ 32 ≤ 4096 → exec (.qinit o) s = .next
      (((((s.afterReads c a).setNum p 4 0).setNum (p + 4) 4 0).setNum (p + 8) 4 (b a % 2 ^ 32)).setNum (p + 12) 4 (b a % 2 ^ 32))) ∧
    (let a := ask (.qpush o) o.ctl srcs2 []
     let u := s.afterReads c a
     ready a → u.queueOk p = true → u.qAllow p ≠ 0 → u.queueTurn g p true = true →
      u.entryPlace g (addr a) p (u.qTail p) = .ok e → (s.releaseLocal g o.scope).releaseWait g o.scope false none = none →
      exec (.qpush o) s = .next (pushed (u.releaseLocal g o.scope) (b a))) ∧
    (let a := ask (.qpop o) o.ctl [(0, o.a, 2)] [(o.d, 1)]
     let u := s.afterReads c a
     ready a → u.queueOk p = true → u.qHead p ≠ u.qTail p → u.queueTurn g p false = true →
      u.entryPlace g (addr a) p (u.qHead p) = .ok e → u.poisoned e = false → ∃ x, Given s c a u x ∧
      exec (.qpop o) s = .next (s.putLater (popped u) c (.qpop o) x .ld o.d 1 fun _ => u.numAt e 4)) ∧
    (o.sub = 0 →
      let a := ask (.qtry o) o.ctl srcs2 [(o.d, 1)]
      let u := s.afterReads c a
      ready a → u.queueOk p = true → ∃ x, Given s c a u x ∧
      (u.qAllow p ≠ 0 → u.qWaiters p true = [] → u.qWaiters p false = [] → u.entryPlace g (addr a) p (u.qTail p) = .ok e →
        (s.releaseLocal g o.scope).releaseWait g o.scope false none = none →
        exec (.qtry o) s = .next (s.putLater (pushed (u.releaseLocal g o.scope) (b a)) c (.qtry o) x .ld o.d 1 fun _ => 1)) ∧
      (u.qAllow p = 0 ∨ u.qWaiters p true ≠ [] ∨ u.qWaiters p false ≠ [] →
        exec (.qtry o) s = .next (s.putLater u c (.qtry o) x .ld o.d 1 fun _ => 0))) ∧
    (o.sub ≠ 0 →
      let a := ask (.qtry o) o.ctl [(0, o.a, 2)] [(o.d, 2)]
      let u := s.afterReads c a
      ready a → u.queueOk p = true → ∃ x, Given s c a u x ∧
      (u.qHead p ≠ u.qTail p → u.qWaiters p true = [] → u.qWaiters p false = [] → u.entryPlace g (addr a) p (u.qHead p) = .ok e →
        u.poisoned e = false →
        exec (.qtry o) s = .next (s.putLater (popped u) c (.qtry o) x .ld o.d 2 fun _ => u.numAt e 4 + 2 ^ 32)) ∧
      (u.qHead p = u.qTail p ∨ u.qWaiters p true ≠ [] ∨ u.qWaiters p false ≠ [] →
        exec (.qtry o) s = .next (s.putLater u c (.qtry o) x .ld o.d 2 fun _ => 0)))

/-- R376, R382, R385: MCLAIM of an unbound name binds it to the lowest-numbered slot that the part holds and no tile name of its
groups names, .at to a slot the part holds; MREL unbinds the name; AZERO makes every element of every row taken 0 and
changes no other place and nothing else but what is noted of the write for other groups (R340, log entry 64); MBURST changes nothing but the group's declaration and, with ramp fillers, the ramp. -/
def Obligations.MatrixNames : Prop :=
  ∀ (o : MtxName) (p : Reg3) (s : State) (c : Issue) (b : Block) (q : Nat),
    let g := c.gid
    let tile (u : State) (m : Map Nat) : State := u.modRegs g fun r => { r with tile := m }
    let reg : Opnd := .g (o.aux.setWidth 6)
    (let a := ask (.mclaim o) o.ctl (if o.sub = 1 then [(0, reg, 1)] else []) []
     let u := s.afterReads c a
     let bound := (u.group g).regs.tile
     let named (k : Nat) : Prop := ∃ h ∈ b.groups, (u.group h).park ≠ .draining ∧ ∃ e ∈ (u.group h).regs.tile, e.2 = k
     Clear s c a → u.block? (u.group g).block = some b → u.blockOf g = some b → Map.find bound o.idx.toNat = none →
      (o.sub ≠ 1 → q < 32 → q ∈ b.tiles → ¬ named q → (∀ k < q, k ∈ b.tiles → named k) →
        exec (.mclaim o) s = .next (tile u (Map.put o.idx.toNat q bound))) ∧
      (o.sub = 1 → s.srcVal c a { fld := 0, opnd := reg, n := 1 } ((lowest c.active).getD 0) = q → q ∈ b.tiles →
        exec (.mclaim o) s = .next (tile u (Map.put o.idx.toNat q bound)))) ∧
    (let a := ask (.mrel o) o.ctl [] []
     let u := s.afterReads c a
     Clear s c a → exec (.mrel o) s = .next (tile u (Map.del o.idx.toNat (u.group g).regs.tile))) ∧
    (let a := ask (.azero o) o.ctl [] []
     let u := s.afterReads c a
     let w := (s.group g).flow.width
     s.slotOf true o.idx.toNat = some q → Clear s c a →
      ∃ t, exec (.azero o) s = .next t ∧ t = { u with mem := t.mem, poison := t.poison, poisonFrom := t.poisonFrom, blocks := t.blocks } ∧
        (∀ k, (t.block? k).map (fun y => { y with recent := [] }) = (u.block? k).map fun y => { y with recent := [] }) ∧
        (∀ p, t.byteAt p = if (List.range 128).any (fun r => (s.takers c a).getLsbD (r % w) &&
            decide (accPlace (State.coreOf g) q r 0 ≤ p) && decide (p < accPlace (State.coreOf g) q (r + 1) 0)) = true
          then 0 else u.byteAt p) ∧
        (u.MemOk → t.MemOk)) ∧
    (let a := ask (.mburst p) p.ctl [(0, p.a, 1)] []
     let u := s.afterReads c a
     let n := min (s.srcVal c a { fld := 0, opnd := p.a, n := 1 } ((lowest c.active).getD 0) % 2 ^ 32) 65535
     Clear s c a → exec (.mburst p) s = .next (
      if n ≠ 0 ∧ (u.core (State.coreOf g)).mtxMode = 1 then u
      else
        let v := u.modOps g fun k => { k with burst := n }
        if n = 0 then v else v.modCore (State.coreOf g) fun k => { k with ramped := k.ramped || k.gap }))

/-- R373, R377 to R380: MMA and MMAS with bound names, slots of an accepted pair, a K that both rows hold, well-formed metadata
in every row taken, and no poison, on the slots and the accumulator as the group sees them, where what copies under way and
other groups write is old or new (R340, log entry 64): every element of every row that is taken and that the band mask leaves open becomes the accumulation of its
operand rows, in groups of 16 (`dotRow`), from the old element or from 0 with .z; no other byte changes, no register does,
and of the rest only the array's power state, the count of declared operations, and what is noted of the writes for other
groups. -/
def Obligations.MatrixProducts : Prop :=
  ∀ (o : MtxMul) (s : State) (c : Issue) (q sa sb k : Nat),
    let g := c.gid
    let core := State.coreOf g
    let form (i : Instr) (sparse : Bool) : Prop :=
      let a := ask i o.ctl [(2, o.mask, 1)] []
      let seen := (((s.afterReads c a).raceSlot core sa).raceSlot core sb).viewFor g fun p =>
        State.inSlot core sa p || State.inSlot core sb p || State.inAcc core q p
      let u := seen.1
      let v := seen.2
      let w := (s.group g).flow.width
      let band := s.srcVal c a { fld := 2, opnd := o.mask, n := 1 } ((lowest c.active).getD 0)
      let open_ (lanes : Lanes) (r : Nat) : Prop := r < 128 ∧ lanes.getLsbD (r % w) = true ∧ band / 2 ^ (r / w) % 2 = 0
      let own (r : Nat) : Prop := open_ (s.givers c a) r
      let da := (u.group g).regs.getFs o.fsa.toNat
      let db := (u.group g).regs.getFs o.fsb.toNat
      let old (r n : Nat) : Nat := if o.sub = 1 then 0 else v.numAt (accPlace core q r n) 4
      s.slotOf true o.acc.toNat = some q → s.slotOf false o.ta.toNat = some sa → s.slotOf false o.tb.toNat = some sb →
      Clear s c a → (fsSpn da ≠ 0 ↔ sparse = true) → fsSpn db = 0 → pairOk da db = true →
      extentOf da db sparse o.ku.toNat = some k →
      (sparse = true → ∀ r < 128, (s.givers c a).getLsbD (r % w) = true → ∀ m ∈ metaWords (k / 48) (v.rowBytes core sa r), metaCount m = fsSpn da) →
      (∀ r, own r → u.rowPoisoned core sa r da = none ∧ (∀ n < 192, u.rowPoisoned core sb n db = none) ∧
        (o.sub ≠ 1 → ∀ n < 192, u.poisoned (accPlace core q r n) = false)) →
      ∃ t, exec i s = .next t ∧
        (∀ r n, r < 128 → n < 192 →
          (open_ (s.takers c a) r → t.numAt (accPlace core q r n) 4 = dotRow (old r n)
            (operandRow da k (v.rowBytes core sa r) (v.scaleBytes core sa r))
            (operandRow db k (v.rowBytes core sb n) (v.scaleBytes core sb n))) ∧
          (¬ open_ (s.takers c a) r → t.numAt (accPlace core q r n) 4 = u.numAt (accPlace core q r n) 4)) ∧
        (∀ p, p < accPlace core q 0 0 ∨ accPlace core q 128 0 ≤ p → t.byteAt p = u.byteAt p) ∧
        (∀ h, (t.group h).regs = (u.group h).regs ∧ (t.group h).flow = (u.group h).flow) ∧
        t = { u with mem := t.mem, poison := t.poison, poisonFrom := t.poisonFrom, groups := t.groups, cores := t.cores, blocks := t.blocks } ∧
        (∀ k, (t.block? k).map (fun y => { y with recent := [] }) = (u.block? k).map fun y => { y with recent := [] })
    form (.mma o) false ∧ form (.mmas o) true

/-- R244, R245: one group of 16 products in an accumulator: with finite operands the exact sum of the accumulator and every
product of two stored positions, in units of any 2^j that is fine enough, is rounded once to nearest; a NaN gives the
canonical NaN, and so do ∞ × 0 and infinities of both signs; one infinite accumulator or product gives its infinity; a zero
result is −0 only from −0 and products of −0. Rows are taken 16 positions at a time, ascending. -/
def Obligations.Accumulation : Prop :=
  (∀ (acc : Nat) (a b : List Elem) (j : Int), a.length = b.length →
    let finite (x : Fp) : Prop := ∃ n m e, x = .fin n m e
    let units (neg : Bool) (m : Nat) (e : Int) : Int := (if neg then -1 else 1) * (m * 2 ^ (e - j).toNat : Nat)
    let value (x : Fp) : Int := match x with | .fin n m e => units n m e | _ => 0
    let prods := ((a.zip b).filter fun p => p.1.live && p.2.live).map fun p => Fp.mul p.1.val p.2.val
    finite (Fmt.f32.decode acc) → (∀ e ∈ a ++ b, finite e.val) →
    (∀ n m e, (Fmt.f32.decode acc = .fin n m e ∨ .fin n m e ∈ prods) → j ≤ e) →
    let total : Int := value (Fmt.f32.decode acc) + (prods.map value).sum
    let r := Fmt.f32.encode .ne (.fin (decide (total < 0)) total.natAbs j)
    accumulate acc a b =
      if r % 2 ^ 31 = 0 then
        (if (Fmt.f32.decode acc).sign = true ∧ (Fmt.f32.decode acc).isZero = true ∧
          (∀ p ∈ prods, p.sign = true ∧ p.isZero = true) then 2 ^ 31 else 0)
      else r) ∧
  (∀ (acc : Nat) (a b : List Elem), (Fmt.f32.decode acc = .nan ∨ ∃ p ∈ a.zip b, p.1.val = .nan ∨ p.2.val = .nan) →
    accumulate acc a b = 0x7FC00000) ∧
  (∀ (acc : Nat) (a b : List Elem), Fmt.f32.decode acc ≠ .nan → (∀ p ∈ a.zip b, p.1.val ≠ .nan ∧ p.2.val ≠ .nan) →
    let terms := Fmt.f32.decode acc :: ((a.zip b).filter fun p => p.1.live && p.2.live).map fun p => Fp.mul p.1.val p.2.val
    (.nan ∈ terms ∨ (.inf false ∈ terms ∧ .inf true ∈ terms) → accumulate acc a b = 0x7FC00000) ∧
    (.nan ∉ terms → .inf false ∈ terms → .inf true ∉ terms → accumulate acc a b = 0x7F800000) ∧
    (.nan ∉ terms → .inf true ∈ terms → .inf false ∉ terms → accumulate acc a b = 0xFF800000)) ∧
  (∀ (n m : Bool) (k : Nat) (e : Int), Fp.mul (.inf n) (.inf m) = .inf (n != m) ∧
    (k ≠ 0 → Fp.mul (.inf n) (.fin m k e) = .inf (n != m) ∧ Fp.mul (.fin m k e) (.inf n) = .inf (m != n)) ∧
    Fp.mul (.inf n) (.fin m 0 e) = .nan ∧ Fp.mul (.fin m 0 e) (.inf n) = .nan) ∧
  (∀ (acc : Nat) (a b : List Elem), a.length = b.length →
    dotRow acc [] [] = acc ∧
    (a.length ≤ 16 → a ≠ [] → dotRow acc a b = accumulate acc a b) ∧
    (16 < a.length → dotRow acc a b = dotRow (accumulate acc (a.take 16) (b.take 16)) (a.drop 16) (b.drop 16)))

/-- R383, R384: AST in a group that is no twin copy, whose contributing lanes' rows all pass their checks and find room for
their requests: one engine operation for each of those lanes with the pieces of the lane's rows, as the group sees them.
ACVT of a bound slot and accumulator, into a dense format and from elements that are not poisoned: the rows taken are
converted in ascending order. A row's elements are the codes of its columns, scaled where the slot has block scales and
rounded with the draws of the owning lane's generator, or for KIND 0 the columns themselves; the rest of the slot row is
zero; with block scales their codes, chosen by R242, are written to the scale row and its rest is zero; no other byte
changes. -/
def Obligations.MatrixResults : Prop :=
  (∀ (o : MtxStore) (s : State) (c : Issue) (q : Nat),
    let g := c.gid
    let a := ask (.ast o) o.ctl [(1, o.addr, 2)] []
    s.slotOf true o.acc.toNat = some q → Clear s c a → ∃ u x, Given s c a u x ∧
      let w := (u.group g).flow.width
      let step := if o.step = 0 then 768 * w else 256 * o.step.toNat
      let v := u.viewFor g (State.inAcc (State.coreOf g) q)
      let r := (laneList x.contrib).foldl
        (fun (r : State × List (Nat × List (Nat × Nat × Extent)) × List LaneErr) l =>
          let k := r.1.storeRows g l (x.val 1 l) step w
          if k.2.2 = [] then (k.1, r.2.1 ++ [(l, k.2.1)], r.2.2) else (k.1, r.2.1, r.2.2 ++ k.2.2)) (v.1, [], [])
      let segs (rows : List (Nat × Nat × Extent)) : List CopySeg := rows.flatMap fun row =>
        r.1.markPieces (accPlace (State.coreOf g) q row.1 0) 0 (v.2.rowPieces (State.coreOf g) q row)
      (r.2.2 = [] → v.1.engineWait r.1 g r.2.1.length (r.2.1.map fun k => State.segUnits (segs k.2)).sum = none →
        r.1.isTwin g = false →
        exec (.ast o) s = .next (r.2.1.foldl (fun t k => (t.chargeSegs g (segs k.2)).startCopy g .mx (segs k.2) none [State.accUnit q]
          (laneBit k.1)) r.1))) ∧
  (∀ (o : MtxCvt) (s : State) (c : Issue) (slot q : Nat),
    let g := c.gid
    let core := State.coreOf g
    let a := ask (.acvt o) o.ctl [] []
    let seen := ((s.afterReads c a).raceSlot core slot).viewFor g (State.inAcc core q)
    let u := seen.1
    let d := (u.group g).regs.getFs o.fsi.toNat
    let w := (u.group g).flow.width
    let rows (lanes : Lanes) : List Nat := (List.range 128).filter fun r => lanes.getLsbD (r % w)
    s.slotOf true o.acc.toNat = some q → s.slotOf false o.tile.toNat = some slot → Clear s c a → fsSpn d = 0 →
    (∀ r ∈ rows (s.givers c a), ∀ n < min (192 - 16 * o.c0.toNat) (2048 / (fsFmt d).width),
      u.poisoned (accPlace core q r (16 * o.c0.toNat + n)) = false) →
    exec (.acvt o) s = .next ((rows (s.takers c a)).foldl (fun t r => seen.2.acvtRow t g core slot q o.c0.toNat d r) u)) ∧
  (∀ (v t : State) (g core slot q c0 r : Nat) (d : DWord), r < 128 →
    let f := fsFmt d
    let n := min (192 - 16 * c0) (2048 / f.width)
    let raw (i : Nat) : Nat := v.numAt (accPlace core q r (16 * c0 + i)) 4
    let b := fsBlock d
    let codes := chooseScales f true 127 ((List.range ((n + b - 1) / b)).map fun k =>
      ((List.range n).filter fun i => i / b == k).map fun i => Fmt.f32.decode (raw i))
    let value (i : Nat) : Fp :=
      if b = 0 then Fmt.f32.decode (raw i) else Fp.scale (127 - (codes.getD (i / b) 127 : Int)) (Fmt.f32.decode (raw i))
    let own := r % (t.group g).flow.width
    let z (i : Nat) : Word := Nat.repeat (fun z => (drawStep z).1) i ((t.group g).regs.getZ own)
    let y := v.acvtRow t g core slot q c0 d r
    let at_ := tilePlace core slot (256 * r)
    let scales := tilePlace core slot (0xC000 + 64 * r)
    (∀ i < n, y.numAt at_ 256 / 2 ^ (f.width * i) % 2 ^ f.width =
      (if fsKind d = 0 then raw i else f.convert (fsRound d (drawStep (z i)).2) (fsSat d) (value i)) % 2 ^ f.width) ∧
    y.numAt at_ 256 < 2 ^ (f.width * n) ∧
    (b ≠ 0 → ∀ i < 64, y.byteAt (scales + i) = (encodeScales (fsScl d) codes).getD i 0) ∧
    (∀ p, (p < at_ ∨ at_ + 256 ≤ p) → (b = 0 ∨ p < scales ∨ scales + 64 ≤ p) → y.byteAt p = t.byteAt p) ∧
    y = { t with mem := y.mem, poison := y.poison, poisonFrom := y.poisonFrom, groups := y.groups, blocks := y.blocks } ∧
    (∀ k, (y.block? k).map (fun x => { x with recent := [] }) = (t.block? k).map fun x => { x with recent := [] }) ∧
    (∀ h, h ≠ g → y.group h = t.group h) ∧
    (t.hasGroup g = true → y.group g = { t.group g with regs := { (t.group g).regs with z := (y.group g).regs.z } } ∧
      ∀ l, (y.group g).regs.getZ l = if l = own ∧ fsRnd d = 2 ∧ fsKind d ≠ 0 then z n else (t.group g).regs.getZ l)) ∧
  (∀ (f : Fmt) (first : Bool) (prev : Nat) (xs : List Fp) (more : List (List Fp)),
    let k := chooseScale f first prev xs
    let size (x : Fp) : Int := match x with | .fin _ m e => Nat.log2 m + e | _ => 0
    let big (x : Fp) : Prop := ∃ n m e, x = .fin n m e ∧ m ≠ 0
    chooseScales f first prev (xs :: more) = k :: chooseScales f false k more ∧
    ((∃ n, .inf n ∈ xs) → k = 254) ∧
    ((∀ n, .inf n ∉ xs) → (∀ x ∈ xs, ¬ big x) → k = if first then 127 else prev) ∧
    (∀ x ∈ xs, (∀ n, .inf n ∉ xs) → big x → (∀ y ∈ xs, big y → size y ≤ size x) →
      (k : Int) = max 0 (min (size x - ((Nat.log2 (f.mag f.maxCode).1 : Int) + (f.mag f.maxCode).2) + 127) 254)))

/-- R387 to R390: the register forms with a dense narrow slot whose block is no wider than the group. CVTN gives 256 times the
block's scale code plus the narrow code, CVTW the value of a scaled code as binary32, SCLX four bytes of the blocks' scale
stream to each lane, PACKN 32 bits of the stream of codes to each lane, UNPKN one code of that stream, or its value. -/
def Obligations.NarrowRegisters : Prop :=
  ∀ (o : MtxReg) (s : State) (c : Issue),
    let form (i : Instr) (srcs : List (Nat × Opnd × Nat)) (f : State → Ctx → DWord → Nat → State × (Nat → Nat)) : Prop :=
      let a := { ask i o.ctl srcs [(o.d, 1)] with cross := true }
      Clear s c a → ∃ u x, Given s c a u x ∧
        let d := (u.group c.gid).regs.getFs o.fsi.toNat
        let w := (u.group c.gid).flow.width
        (fsKind d = 3 → fsSpn d = 0 → fsBlock d ≤ w → (i = .sclx o → fsBlk d ≠ 0) →
          exec i s = .next (s.putLater (f u x d w).1 c i x .mx o.d 1 (f u x d w).2))
    let code (d : DWord) (n : Nat) : Nat := n % 2 ^ (fsFmt d).width
    let scale (n : Nat) : Nat := n / 256 % 256
    let value (d : DWord) (n k : Nat) : Nat :=
      if k = 255 then 0x7FC00000
      else Fmt.f32.encode .ne (Fp.scale ((k : Int) - 127) ((fsFmt d).decode (code d n)))
    form (.cvtn o) [(0, o.a, 1)] (fun u x d w =>
      let r := (u.group c.gid).regs
      let b := fsBlock d
      let codes := chooseScales (fsFmt d) true 127 ((List.range (w / b)).map fun k =>
        (((List.range b).map fun i => b * k + i).filter fun l => x.contrib.getLsbD l).map fun l => Fmt.f32.decode (x.val 0 l))
      (if fsRnd d = 2 then u.modRegs c.gid fun r => drawLanes r x.lanes else u, fun l =>
        let k : Nat := if b = 0 then 127 else codes.getD (l / b) 127
        256 * k + (fsFmt d).convert (fsRound d (drawStep (r.getZ l)).2) (fsSat d)
          (Fp.scale (127 - (k : Int)) (Fmt.f32.decode (x.val 0 l))))) ∧
    form (.cvtw o) [(0, o.a, 1)] (fun u x d _ =>
      (u, fun l => value d (x.val 0 l) (if fsBlk d = 0 then 127 else scale (x.val 0 l)))) ∧
    form (.sclx o) [(0, o.a, 1)] (fun u x d w =>
      let bs := encodeScales (fsScl d) ((List.range (w / fsBlock d)).map fun k => scale (x.val 0 (fsBlock d * k)))
      (u, fun l => natOfBytes ((bs.drop (4 * l)).take 4))) ∧
    form (.packn o) [(0, o.a, 1), (1, o.b, 1)] (fun u x d w =>
      let n := packElems (narrowWidth d) ((List.range w).map fun l =>
        if x.lanes.getLsbD l then x.val 0 l else x.val 1 ((lowest x.active).getD 0))
      (u, fun l => n / 2 ^ (32 * l) % 2 ^ 32)) ∧
    form (.unpkn o) ([(0, o.a, 1)] ++ if o.sub = 1 then [] else [(1, o.b, 1)]) (fun u x d w =>
      let n := packElems 32 ((List.range w).map fun l => if c.quads.getLsbD (l / 4) then x.val 0 l else 0)
      (u, fun l =>
        let k := n / 2 ^ (narrowWidth d * l) % 2 ^ narrowWidth d
        if o.sub = 1 then k else value d k (if fsBlk d = 0 then 127 else scale (x.val 1 l))))

/-- R313, R315, R317, R319: NOP does nothing. A branch whose targets leave no active loop's body moves the part: a lane that
takes the branch goes to the clause address plus four times the signed offset, or to its own A for BRI and RET, the others
in sequence; BRD is taken where A[31:0] is not 0, and CALL first writes the next clause's address. LOOP parks until its quads
have met, and then starts the loop, or skips its body where the count is 0; LBRK ends the loop and those started after it,
and goes to its exit. -/
def Obligations.BranchesAndLoops : Prop :=
  ∀ (s : State) (c : Issue),
    let g := c.gid
    let go (v : State) (p : Part) (tgt : Nat → Option Nat) : State :=
      let r := (v.group g).flow.leave p c.clause c.next c.rgp tgt
      (v.commitFlow g r.1 r.2 c.clause c.idx).moved
    let inside (l : Loop) (at_ : Nat) : Prop := l.start ≤ at_ ∧ at_ < l.exit
    let stays (v : State) (a : Ask) (tgt : Nat → Option Nat) : Prop :=
      ∀ k < 64, (s.givers c a).getLsbD k = true → ∀ t, tgt k = some t →
        ∀ l ∈ (v.group g).flow.loops, l.active = true → inside l c.clause → inside l t
    let takes (a : Ask) (dest : Nat → Nat) (k : Nat) : Option Nat := if (s.takers c a).getLsbD k then some (dest k) else none
    let near (off : BitVec 16) : Nat := (BitVec.ofNat 64 c.clause + (off.signExtend 64) <<< 2).toNat
    let val (a : Ask) (o : Opnd) (n k : Nat) : Nat := s.srcVal c a { fld := 0, opnd := o, n } k
    let branch (a : Ask) (tgt : Nat → Option Nat) : Prop :=
      let u := s.afterReads c a
      Clear s c a → ∀ p, (u.group g).flow.partOf? c.quads = some p → stays u a tgt → exec a.instr s = .next (go u p tgt)
    (∀ o : Bare, let a := ask (.nop o) o.ctl [] []
      Clear s c a → exec (.nop o) s = .next (s.afterReads c a)) ∧
    (∀ o : Branch, let a := ask (.bra o) o.ctl [] []
      branch a (takes a fun _ => near o.off)) ∧
    (∀ o : Imm, let a := { ask (.brd o) o.ctl [(0, o.a, 1)] [] with joint := true }
      branch a fun k => if val a o.a 1 k % 2 ^ 32 = 0 then none else takes a (fun _ => near o.imm) k) ∧
    (∀ o : Reg3, let a := { ask (.bri o) o.ctl [(0, o.a, 2)] [] with joint := true }
      branch a (takes a (val a o.a 2))) ∧
    (∀ o : Reg3, let a := { ask (.ret o) o.ctl [(0, o.a, 2)] [] with joint := true }
      branch a (takes a (val a o.a 2))) ∧
    (∀ o : Branch, let a := ask (.call o) o.ctl [] [(o.d, 2)]
      let tgt := takes a fun _ => near o.off
      let v := (s.afterReads c a).writeNow g o.d 2 (s.takers c a) fun _ => c.next
      Clear s c a → ∀ p, (v.group g).flow.partOf? c.quads = some p → stays v a tgt → exec (.call o) s = .next (go v p tgt)) ∧
    (∀ (o : LoopOp) (p : Part), let a := ask (.loop o) o.ctl [(0, o.count, 1)] []
      let u := s.afterReads c a
      Clear s c a → (u.group g).flow.partOf? c.quads = some p →
      (let parked := s.commitFlow g ((s.group g).flow.modPart c.quads fun p => { p with hold := .loop c.clause }) []
          c.clause c.idx
       let meets (v : State) : Prop := ∃ q, (v.group g).flow.partOf? c.quads = some q ∧ q.hold = .loopReady
       p.hold ≠ .loopReady → ¬ meets (u.commitFlow g ((u.group g).flow.modPart c.quads fun p => { p with hold := .loop c.clause })
          [] c.clause c.idx) → exec (.loop o) s = .next parked.stayed) ∧
      (∀ v exit, p.hold = .loopReady →
        let last := c.clause + 4 * o.off.toNat
        let act := (u.group g).flow.loops.filter (·.active)
        act.length < 3 → (∀ l ∈ act, l.lc ≠ o.lc.toNat ∧ last ≤ l.last) → o.off ≠ 0 →
        u.loopWalk g (o.off.toNat + 1) c.next last 0 = (v, .ok (some exit)) →
        let count : Word := BitVec.ofNat 32 (val a o.count 1 ((lowest c.active).getD 0))
        let f := (v.group g).flow
        let started : Loop := { lc := o.lc.toNat, count, start := c.next, last, exit, active := true }
        exec (.loop o) s = .next (v.commitFlow g
          (if count = 0 then State.standAt f c.quads exit
           else State.standAt { f with loops := f.loops.filter (fun l => l.lc != o.lc.toNat) ++ [started] } c.quads c.next)
          [] c.clause c.idx).moved)) ∧
    (∀ (o : LoopOp) (l : Loop) (p : Part), let a := ask (.lbrk o) o.ctl [] []
      let u := s.afterReads c a
      let v := u.modFlow g fun f => State.endLoops f o.lc.toNat
      Clear s c a → ((u.group g).flow.loops.find? fun l => l.lc == o.lc.toNat) = some l →
      (v.group g).flow.partOf? c.quads = some p → exec (.lbrk o) s = .next (go v p (takes a fun _ => l.exit)))

/-- R156, R157: the active lanes of a quad that leave a clause at which no loop ends go to the lowest of their targets, where
lanes that wait become active, and the others wait at theirs; no other lane changes. A quad without an active lane takes
the lowest address at which a lane waits. R318: at the end of an active loop a lane without a target waits there. -/
def Obligations.QuadRules : Prop :=
  ∀ (f : Flow) (q clause next : Nat) (tgt : Nat → Option Nat),
    let mine (l : Nat) : Prop := l / 4 = q
    (f.endingAt clause = none → (∃ l, mine l ∧ f.lane l = .active) →
      let dest (l : Nat) : Nat := (tgt l).getD next
      let r := f.leaveQuad clause next tgt q
      ∃ low, r.2 = .at low ∧ (∃ l, mine l ∧ f.lane l = .active ∧ dest l = low) ∧
        (∀ l, mine l → f.lane l = .active → low ≤ dest l) ∧
        ∀ l, r.1.lane l =
          if mine l ∧ f.lane l = .active ∧ dest l ≠ low then .waiting (dest l)
          else if mine l ∧ f.lane l = .waiting low then .active
          else f.lane l) ∧
    ((∀ l, mine l → f.lane l ≠ .active) → (∃ l a, mine l ∧ f.lane l = .waiting a) →
      let r := f.switch q .same
      ∃ low, r.2 = .at low ∧ (∃ l, mine l ∧ f.lane l = .waiting low) ∧ (∀ l a, mine l → f.lane l = .waiting a → low ≤ a) ∧
        ∀ l, r.1.lane l = if mine l ∧ f.lane l = .waiting low then .active else f.lane l) ∧
    (∀ k, f.endingAt clause = some k → (∀ l, tgt l = none) → (∃ l, mine l ∧ f.lane l = .active) →
      (∀ l a, mine l → f.lane l ≠ .waiting a) →
      ∀ l, (f.leaveQuad clause next tgt q).1.lane l = if mine l ∧ f.lane l = .active then .atEnd k.lc else f.lane l)

/-- R158, R161, R164, R273, R315, R316, R320, R399 to R401: ENROL adds the lanes that take part to the rejoin mask, STRIKE takes
them out and runs the release tests, PARK holds the active lanes and runs them; REGANG parks; YIELD waits for the ready
groups of the sector; SLEEP sleeps; EXIT ends the contributing lanes and JOBEND every active one, helper lanes
with the last of the others of their quad (R152, log entry 59), quads with lanes left going on; TRAP takes 0x2D with its immediate in DETAIL where a lane contributes; BKPT stops the group where debugging is enabled. -/
def Obligations.RejoinWaitsExits : Prop :=
  ∀ (s : State) (c : Issue) (p : Part),
    let g := c.gid
    let bare (i : Instr) (ctl : Ctl) (t : Ask → State → State) : Prop :=
      let a := ask i ctl [] []
      let u := s.afterReads c a
      Clear s c a → (u.group g).flow.partOf? c.quads = some p → exec i s = .next (t a u)
    let leaves (lanes : Lanes) (u : State) : State :=
      let r := u.overPart g p (exitQuad lanes)
      let stay := r.2.filterMap fun k => if k.2 = .same then some k.1 else none
      let v := (u.modRegs g fun _ => r.1.2).commitFlow g (r.1.1.resplit p r.2) (Flow.stuckOf r.2) c.clause c.idx
      let v := if stay.foldl (fun (m : BitVec 16) q => m ||| BitVec.ofNat 16 (2 ^ q)) 0 = 0 then v.moved
        else { v with cur := v.cur.map fun (k : Issue) =>
          { k with quads := stay.foldl (fun (m : BitVec 16) q => m ||| BitVec.ofNat 16 (2 ^ q)) 0 } }
      if (v.group g).flow.parts = [] ∧ (v.group g).role ≠ .job ∧ (v.group g).park ≠ .draining then v.endResident g else v
    let leavesNone (lanes : Lanes) (u : State) : Prop :=
      let r := u.overPart g p (exitQuad lanes)
      (r.1.1.resplit p r.2).parts = [] → State.sliceLeft (u.group g) = false
    (∀ o : JoinOp,
      bare (.enrol o) o.ctl (fun a u => u.modRegs g fun r => r.setJ o.j.toNat (r.getJ o.j.toNat ||| s.takers c a)) ∧
      bare (.strike o) o.ctl (fun a u =>
        let k := u.group g
        let r := k.regs.setJ o.j.toNat (k.regs.getJ o.j.toNat &&& ~~~(s.takers c a))
        let fr := (quadsOf c.quads).foldl (fun fr q => retestQuad [o.j.toNat] q fr) (k.flow, r)
        u.onGroup g fun y => { y with flow := fr.1, regs := fr.2 }) ∧
      bare (.park o) o.ctl (fun _ u =>
        let r := u.overPart g p (parkQuad c.clause c.next o.j.toNat)
        ((u.modRegs g fun _ => r.1.2).commitFlow g (r.1.1.resplit p r.2) (Flow.stuckOf r.2) c.clause c.idx).moved)) ∧
    (∀ o : Bare,
      bare (.regang o) o.ctl (fun _ u =>
        (u.commitFlow g ((u.group g).flow.modPart c.quads fun p => { p with clause := none, hold := .regang c.clause c.next }) []
          c.clause c.idx).moved) ∧
      bare (.yield o) o.ctl (fun _ u =>
        let others := (u.sectorGroups (State.sectorOf g)).filter fun h => h != g && u.groupReady h
        u.onGroup g fun y => { y with park := .yield others 16, iss := { y.iss with promo := 0 } }) ∧
      bare (.sleep o) o.ctl (fun _ u => u.onGroup g fun y => { y with park := .sleep }) ∧
      bare (.bkpt o) o.ctl (fun a u =>
        if (u.dbgOf g).en = true ∧ s.takers c a ≠ 0 then u.stopGroup g 3 else u) ∧
      (let a := ask (.exit o) o.ctl [] []
       leavesNone (s.givers c a) (s.afterReads c a) → bare (.exit o) o.ctl (fun a u => leaves (s.givers c a) u)) ∧
      (let a := ask (.jobend o) o.ctl [] []
       let out (u : State) : Lanes := c.active &&& ~~~(u.group g).flow.helper
       leavesNone (out (s.afterReads c a)) (s.afterReads c a) → bare (.jobend o) o.ctl (fun _ u => leaves (out u) u))) ∧
    (∀ o : Imm, bare (.trap o) o.ctl fun a u =>
      if s.givers c a = 0 then u
      else u.raise g (u.plainTrap g 0x2D (s.takers c a) c.clause c.idx (o.imm.setWidth 64)))

/-- R237, R402 to R408: GETS writes the register's value; SETS seeds the active lanes' generators, asks for a boundary, signals
the host, proposes bank roles, starts an invalidation, or resolves a fault; MBXPOP serves a fault, or starts the part at the
head of the mailbox; ENQOP appends its record to a queue with room and answers 0, or sends it to the ring's page at a peer, and
answers 2, 3, 1 or 4, in this order, where it cannot; EVSIG takes n from an event of the tenant and answers 0, or 2 where
some of it was dropped, 3 where n is 2^24 or more, and 1 for a name that is no local flag. That 1 comes before 3 where both
apply is the model's choice (log entry 39). In a group that is no twin copy; a release need not wait. -/
def Obligations.SystemInstructions : Prop :=
  ∀ (s : State) (c : Issue),
    let g := c.gid
    let low := (lowest c.active).getD 0
    let one (a : Ask) (f : Nat) (o : Opnd) (n : Nat) : Nat := s.srcVal c a { fld := f, opnd := o, n } low
    let mine := (s.group g).tenant
    let ready (a : Ask) : Prop := Clear s c a ∧ (s.afterReads c a).isTwin g = false
    let released (sc : Scope) : Prop := (s.releaseLocal g sc).releaseWait g sc false none = none
    (∀ o : Imm,
      (let n := (getsWidth o.imm.toNat).getD 32 / 32
       let a := { ask (.gets o) o.ctl [] [(o.d, n)] with
          priv := s.inRoutine && (o.imm.toNat == 0x33 || o.imm.toNat == 0x34 || o.imm.toNat == 0x35) }
       let r := (s.afterReads c a).readReg g o.imm.toNat
       ready a → exec (.gets o) s = .next (r.1.writeNow g o.d n (s.takers c a) fun _ => r.2)) ∧
      (let a := askSets (.setsSrseed o) o 1 false
       ready a → exec (.setsSrseed o) s = .next
        ((s.afterReads c a).seedLanes g c.active (BitVec.ofNat 32 (one a 0 o.a 1)))) ∧
      (let a := askSets (.setsSorbnd o) o 1 false
       let u := (s.afterReads c a).releaseLocal g .dev
       let v : Word := BitVec.ofNat 32 (one a 0 o.a 1)
       ready a → released .dev → exec (.setsSorbnd o) s = .next
        (if (u.tenant (u.group g).tenant).sor.iter = v then
          (u.requestBoundary (u.group g).tenant).onGroup g fun y => { y with park := .wait (.boundary v) }
         else u)) ∧
      (let a := askSets (.setsHostsig o) o 1 false
       let u := (s.afterReads c a).releaseLocal g .dev
       ready a → released .dev → exec (.setsHostsig o) s = .next
        (u.signalHost (u.group g).tenant (BitVec.ofNat 32 (one a 0 o.a 1)))) ∧
      (let a := askSets (.setsBankrole o) o 2 s.inRoutine
       let u := s.afterReads c a
       let v : DWord := BitVec.ofNat 64 (one a 0 o.a 2)
       ready a → exec (.setsBankrole o) s = .next
        (if ∀ k < 32, v.toNat / 4 ^ k % 4 ≠ 3 then
          (u.modCore (State.coreOf g) fun k => { k with bankroleNew := some (v, g) }).onGroup g fun y =>
            { y with park := .wait .bankrole }
         else u)) ∧
      (let a := askSets (.setsTlbinv o) o 2 s.inRoutine
       let u := s.afterReads c a
       let v : DWord := BitVec.ofNat 64 (one a 0 o.a 2)
       ready a → (v.getLsbD 63 = true → (u.tenant (u.group g).tenant).tlbBusy = false) → exec (.setsTlbinv o) s = .next
        (if v.getLsbD 63 = true then
          (u.modTenant (u.group g).tenant fun k => { k with tlbBusy := true, tlbinv := v &&& 0x61FFFFFFFFFF0000 }).onGroup g fun y =>
            { y with park := .wait .tlbinv }
         else u)) ∧
      (let a := askSets (.setsFltres o) o 2 s.inRoutine
       let u := s.afterReads c a
       ready a → exec (.setsFltres o) s = .next
        (u.resolveFault (u.group g).tenant (BitVec.ofNat 64 (one a 0 o.a 2)))) ∧
      (∀ v bs l, let a := ask (.enqop o) o.ctl [(0, o.a, 2)] [(o.d, 1)]
       let u := v.releaseLocal g .dev
       let t := ((s.afterReads c a).group g).tenant
       ready a → released .dev → (s.afterReads c a).readDesc g (one a 0 o.a 2) 32 = (v, .ok bs) → v.isTwin g = false →
       u.ringSlot t (u.queue t o.imm.toNat) = .ok l → u.appending t o.imm.toNat = false →
       (l.home = .host → u.hostReady t 32 = true) →
       ∃ x, Given s c a (s.afterReads c a) x ∧
        (remoteLoc l = none →
          exec (.enqop o) s = .next (s.putLater (u.appendRecord g t o.imm.toNat l bs) c (.enqop o) x .fb o.d 1 fun _ => 0)) ∧
        (∀ peer, remoteLoc l = some peer →
          let p := u.addPend g .fb o.d 1 0 (s.takers c a) (s.takers c a) fun _ => 0
          exec (.enqop o) s = .next (p.1.sendTagged g 2 peer (l.place / 64 * 64)
            (State.linePayload ((List.range 32).map fun j => (l.place % 64 + j, bs.getD j 0))) (.append g p.2 t o.imm.toNat)))) ∧
      (∀ v bs, let a := ask (.enqop o) o.ctl [(0, o.a, 2)] [(o.d, 1)]
       let u := v.releaseLocal g .dev
       let t := ((s.afterReads c a).group g).tenant
       let q := u.queue t o.imm.toNat
       ready a → released .dev → (s.afterReads c a).readDesc g (one a 0 o.a 2) 32 = (v, .ok bs) → v.isTwin g = false →
       ∃ x, Given s c a (s.afterReads c a) x ∧
        let answers (n : Nat) : Prop := exec (.enqop o) s = .next (s.putLater u c (.enqop o) x .fb o.d 1 fun _ => n)
        (q.owner = false → answers 2) ∧
        (q.owner = true → q.en = false → answers 3) ∧
        (q.owner = true → q.en = true → (q.tail - q.head).toNat = 2 ^ q.log2n.toNat → answers 1) ∧
        (q.owner = true → q.en = true → (q.tail - q.head).toNat ≠ 2 ^ q.log2n.toNat →
          (∃ e, u.tenantLoc t (State.ringAddr q q.tail) 32 true = .error e) → answers 4))) ∧
    (∀ o : Reg3, let a := ask (.evsig o) o.ctl [(0, o.a, 1), (1, o.b, 1)] [(o.d, 1)]
      let name : Word := BitVec.ofNat 32 (one a 0 o.a 1)
      let n := one a 1 o.b 1 % 2 ^ 32
      let u := s.afterReads c a
      let v := u.releaseLocal g .pod
      let e := v.event (nameIndex name)
      ready a → ∃ x, Given s c a u x ∧
        (u.localFlag (u.group g).tenant name = true → n < 2 ^ 24 → released .pod →
          exec (.evsig o) s = .next (s.putLater (v.decFlag (nameIndex name) n) c (.evsig o) x .fb o.d 1 fun _ =>
            if n ≠ 0 ∧ (e.st ≠ .armed ∨ e.count < n) then 2 else 0)) ∧
        (u.localFlag (u.group g).tenant name = false →
          exec (.evsig o) s = .next (s.putLater u c (.evsig o) x .fb o.d 1 fun _ => 1)) ∧
        (u.localFlag (u.group g).tenant name = true → 2 ^ 24 ≤ n →
          exec (.evsig o) s = .next (s.putLater u c (.evsig o) x .fb o.d 1 fun _ => 3))) ∧
    (∀ o : Bare, let a := { ask (.mbxpop o) o.ctl [] [] with priv := s.inRoutine }
      let core := State.coreOf g
      let u := ((s.afterReads c a).flushPend g).drainGroup g
      Clear s c a → (∀ p ∈ (u.group g).ops.pend, p.missing = 0) → u.kindsOutstanding g 0x10 = false →
        (∀ k, (u.core core).svcFlag = some k → u.rolesPending core = false →
          let v := (u.clearServiceFlag k).onGroup g fun y => { y with role := .service }
          exec (.mbxpop o) s = .next (v.modFlow g fun f => State.standAt f c.quads v.fentry).moved) ∧
        ((u.core core).svcFlag = none → u.headAdmitted core = true →
          exec (.mbxpop o) s = .next (u.startPart core g))) ∧
    (let x := s.group g
     let at_ (n : Nat) : State × Nat := s.readReg g n
     (∃ d < 2 ^ 32, (at_ 0x00).2 = ((s.core (State.coreOf g)).cycles.toNat + d) % 2 ^ 64) ∧
     at_ 0x01 = (s, (s.jobidOf g).toNat) ∧
     at_ 0x03 = (s, x.tenant % 8 + if x.role = .job then 0 else 8) ∧
     at_ 0x04 = (s, (if (s.core (State.coreOf g)).half = true then 1 else 0) + (if s.alarm = true then 2 else 0) +
       if x.ops.burst = 0 then 0 else 4) ∧
     (∀ i < 8, (at_ 0x05).2 / 256 ^ i % 256 = Map.get 255 x.regs.tile i % 256 ∧
       (at_ 0x06).2 / 256 ^ i % 256 = Map.get 255 x.regs.tile (8 + i) % 256 ∧
       (at_ 0x07).2 / 256 ^ i % 256 = Map.get 255 x.regs.acc i % 256 ∧
       (at_ 0x08).2 / 256 ^ i % 256 = Map.get 255 x.regs.acc (8 + i) % 256) ∧
     [0x10, 0x20, 0x22, 0x30, 0x33, 0x34, 0x35].map (fun n => (at_ n).2) =
       [x.regs.srseed.toNat, (s.tenant mine).sor.iter.toNat, (s.tenant mine).hostsigLast.toNat,
        (s.core (State.coreOf g)).bankrole.toNat, (s.tenant mine).fltrstat.toNat, (s.tenant mine).fq.base.toNat,
        (s.tenant mine).fq.tail.toNat])

/-- R178, R180, R368 to R371: a request for 0 units is granted: ACQ completes and writes 0. ACQ otherwise parks at Sage, whose
pass then runs; where no other request of the core is parked, its part stands in the pass's order, and the request is
granted, ACQ completes in that pass: the units are given, 0 is written, and the group goes on. TRYACQ completes in its place
of a pass, after the parts that go before and its own part's parked requests and before the parts that follow (R179), or at
once where nothing is parked, and answers 0 with the units, 1 where they are not free, 2 where granting them would be unsafe,
3 behind an earlier request of its part. REL completes where the units are held and not in use: they are returned, those of its class that the rules
name, and the pass runs. CLAIMQ completes and answers what is held, the maximum and what is free. -/
def Obligations.ResourceInstructions : Prop :=
  ∀ (o : SageOp) (s : State) (c : Issue),
    let g := c.gid
    let core := State.coreOf g
    let num (a : Ask) : Nat := s.srcVal c a { fld := 0, opnd := o.a, n := 1 } ((lowest c.active).getD 0) % 2 ^ 32
    let first := o.first.toNat
    (let a := ask (.acq o) o.ctl [(0, o.a, 1)] [(o.d, 1)]
     let u := s.afterReads c a
     Clear s c a → ∃ x, Given s c a u x ∧
      (num a = 0 → exec (.acq o) s = .next (s.putFixed u c (.acq o) x o.d 1 fun _ => 0)) ∧
      (num a ≠ 0 → u.requestFault g o.cls (num a) first = none →
        let parked := ((u.onGroup g fun y => { y with park := .sage o.cls (num a) first o.d c.quads }).modCore core fun k =>
          { k with sageQueue := k.sageQueue ++ [g] }).staysHeld
        exec (.acq o) s = .next (parked.sagePass core) ∧
        (u.hasGroup g = true → (u.core core).sageQueue = [] → (u.group g).block ∈ parked.safeOrder core →
          parked.verdict g o.cls (num a) = .granted →
          let given := parked.giveUnits g o.cls (num a) first
          let told := given.writeNow g o.d 1 ((given.group g).flow.active &&& quadLanes c.quads) fun _ => 0
          exec (.acq o) s = .next (((told.modCore core fun k => { k with sageQueue := k.sageQueue.erase g }).onGroup g fun y =>
            { y with park := .none }).finishPart g c.quads)))) ∧
    (let a := ask (.tryacq o) o.ctl [(0, o.a, 1)] [(o.d, 1)]
     let u := s.afterReads c a
     Clear s c a → ∃ x, Given s c a u x ∧
      let key := (u.group g).block
      let answers (v : State) (n : Nat) : State := s.putFixed v c (.tryacq o) x o.d 1 fun _ => n
      let judged (v : State) : State :=
        if v.queuedBehind g then answers v 3
        else match v.verdict g o.cls (num a) with
          | .granted => answers (v.giveUnits g o.cls (num a) first) 0
          | .unavailable => answers v 1
          | .unsafe_ => answers v 2
      (num a = 0 → exec (.tryacq o) s = .next (answers u 0)) ∧
      (num a ≠ 0 → u.requestFault g o.cls (num a) first = none →
        exec (.tryacq o) s = .next ((judged (u.passParts core ((u.safeOrder core).takeWhile (· != key) ++ [key]))).passParts core
          (((u.safeOrder core).dropWhile (· != key)).drop 1)) ∧
        ((u.core core).sageQueue = [] → ((judged u).core core).sageQueue = [] →
          exec (.tryacq o) s = .next (judged u)))) ∧
    (let a := ask (.rel o) o.ctl [(0, o.a, 1)] []
     let u := s.afterReads c a
     let key := (u.group g).block
     let had := (u.group g).granules
     Clear s c a →
      (∀ v, u.returnUnits g o.cls (num a) first = .done v → exec (.rel o) s = .next (v.sagePass core)) ∧
      (o.cls = .vreg → num a ≤ had → (∀ p ∈ ((u.flushPend g).group g).ops.pend, p.missing = 0) →
        exec (.rel o) s = .next (((u.flushPend g).onGroup g fun y =>
          { y with granules := had - num a, regs := State.clearVecs y.regs (8 * (had - num a)) (8 * had) }).sagePass core)) ∧
      (∀ b, u.block? key = some b →
        (o.cls = .spad → num a ≤ b.spad.length → u.spadBusy b (b.spad.drop (b.spad.length - num a)) = false →
          exec (.rel o) s = .next ((u.setBlock key { b with spad := b.spad.take (b.spad.length - num a) }).sagePass core)) ∧
        (o.cls = .tile → num a ≤ (u.unnamedSlots key).length →
          u.slotsBusy b ((u.unnamedSlots key).take (num a)) = false →
          exec (.rel o) s = .next ((u.setBlock key
            { b with tiles := b.tiles.filter fun q => !((u.unnamedSlots key).take (num a)).contains q }).sagePass core)) ∧
        (o.cls = .acc → first + num a ≤ 16 →
          (∀ i < num a, (Map.find (u.group g).regs.acc (first + i)).isSome = true) → num a ≤ b.accs.length →
          let qs := (List.range (num a)).filterMap fun i => Map.find (u.group g).regs.acc (first + i)
          u.matrixBusy b = false → u.unitsBusy b.core (qs.map State.accUnit) = false →
          let unbound := b.groups.foldl (fun v h =>
            v.modRegs h fun r => { r with acc := r.acc.filter fun e => !qs.contains e.2 }) u
          exec (.rel o) s = .next ((unbound.setBlock key { b with accs := b.accs.filter fun q => !qs.contains q }).sagePass core)))) ∧
    (let a := ask (.claimq o) o.ctl [] [(o.d, 1)]
     let u := s.afterReads c a
     Clear s c a → ∃ x, Given s c a u x ∧
      exec (.claimq o) s = .next (s.putFixed (u.claimWord g o.cls).1 c (.claimq o) x o.d 1 fun _ => (u.claimWord g o.cls).2) ∧
      ∀ b, u.blockOf g = some b →
        let free := u.avail core
        (u.claimWord g o.cls).2 = (match o.cls with
          | .vreg => (u.group g).granules + 2 ^ 8 * b.vmax + 2 ^ 16 * min (free.v / (u.group g).flow.width) 65535
          | .spad => (u.holdOf b).s + 2 ^ 8 * b.smax + 2 ^ 16 * free.s
          | .tile => (u.holdOf b).t + 2 ^ 8 * b.tmax + 2 ^ 16 * free.t
          | .acc => (u.holdOf b).a + 2 ^ 8 * b.amax + 2 ^ 16 * free.a)) ∧
    (∀ n, (s.group g).granules < n → s.returnUnits g .vreg n first = .trap 0x26) ∧
    (∀ n b, s.blockOf g = some b → b.vmax < (s.group g).granules + n → s.requestFault g .vreg n first = some 0x26)

/-- R391 to R398: RCPY in a group that is no twin copy, of a bound tile, with a descriptor that is aligned, read and well formed:
the destination waits for the status, the remote copy is entered with its rows due, and each row goes out in ascending
order: at the target plus its stride, .put as the bytes of the slot row as the group sees it, or failed where the row is
poisoned or past the map, .get as one read of each line. COLL, with no MX operation outstanding and a release that need not
wait: the group counts, and the communication group brings the descriptor and the barrier that it has checked. A collective
starts once every group of its block that has not exited has counted: without exactly one driver the block takes
DESCRIPTOR; else the tile's binding is taken and its chunks start, chunk c at member (ROOT + c) mod NMEM. -/
def Obligations.RemoteAndCollective : Prop :=
  (∀ (o : SyncTile) (s v : State) (c : Issue) (slot : Nat) (bs : List Byte) (d : CopyDesc),
    let g := c.gid
    let put := !o.sub.getLsbD 0
    let a := ask (.rcpy o) o.ctl [(0, o.y, 2)] [(o.x, 1)]
    let at_ := s.srcVal c a { fld := 0, opnd := o.y, n := 2 } ((lowest c.active).getD 0)
    s.slotOf false o.tile.toNat = some slot → Clear s c a → at_ % 64 = 0 →
    (s.afterReads c a).readDesc g at_ 64 = (v, .ok bs) → parseCopy s.fab.pod.toNat put bs = some d → v.isTwin g = false →
    let p := v.addPend g .fb o.x 1 0 (s.takers c a) (s.takers c a) fun _ => 0
    let t := p.1.tick
    let dests := v.slotsFor g o.tile.toNat
    let k : RemoteCopy :=
      { id := t.2, gid := g, pend := p.2, put, dests, row0 := d.row0, rowBytes := d.bytes,
        due := (List.range d.rows).map fun r => (r, d.packets put r), data := [], failed := [],
        flag := d.flag.map fun f => (f.pod, f.ddev, f.addr, d.value), flagFailed := none }
    let w := t.1.modSvc fun y => { y with copies := y.copies ++ [k] }
    let seen := w.slotView g (dests.headD (0, 0)).1 (dests.headD (0, 0)).2
    exec (.rcpy o) s = .next ((List.range d.rows).foldl
      (fun y r => seen.2.sendRow y g t.2 put (dests.headD (0, 0)).1 (dests.headD (0, 0)).2 d r) seen.1)) ∧
  (∀ (v s : State) (g rc core slot r : Nat) (d : CopyDesc),
    let a := d.rowAddr r
    let p := tilePlace core slot (256 * (d.row0 + r))
    let row (put : Bool) : State := v.sendRow s g rc put core slot d r
    (∀ put, 2 ^ 45 < a + d.bytes → row put = s.rowAnswer rc r (.error 4)) ∧
    (a + d.bytes ≤ 2 ^ 45 → s.poisoned p = true → row true = s.rowAnswer rc r (.error 5)) ∧
    (a + d.bytes ≤ 2 ^ 45 → s.poisoned p = false →
      row true = s.sendFabric g 8 d.target.pod d.target.ddev a (v.bytesAt p d.bytes) (.row rc r 0 0 0)) ∧
    (a + d.bytes ≤ 2 ^ 45 → 0 < d.bytes → row false =
      ((List.range ((a + d.bytes - 1) / 64 - a / 64 + 1)).map fun i => 64 * (a / 64 + i)).foldl (fun y line =>
        y.sendFabric g 0 d.target.pod d.target.ddev line []
          (.row rc r (max a line - a) (max a line % 64) (min (a + d.bytes) (line + 64) - max a line))) s)) ∧
  (∀ (o : SyncTile) (s : State) (c : Issue),
    let g := c.gid
    let drv := o.sub.getLsbD 0
    let a := ask (.coll o) o.ctl [(0, o.x, 2), (1, o.y, 2)] []
    let one (f : Nat) (w : Opnd) : Nat := s.srcVal c a { fld := f, opnd := w, n := 2 } ((lowest c.active).getD 0)
    let u := (s.afterReads c a).flushPend g
    Clear s c a → u.kindsOutstanding g 0x08 = false →
    (u.blockOf g).isSome = true → u.isTwin g = false → (s.releaseLocal g .blk).releaseWait g .blk false none = none →
      (drv = false → exec (.coll o) s = .next ((u.releaseLocal g .blk).countColl g o.tile.toNat none)) ∧
      (∀ v d, drv = true → u.readComm g (one 0 o.x) (one 1 o.y) o.tile.toNat = (v, .ok d) → v.isTwin g = false →
        exec (.coll o) s = .next ((v.releaseLocal g .blk).countColl g o.tile.toNat (some d)))) ∧
  (∀ (d : CopyDesc) (r : Nat), d.rowAddr r = (BitVec.ofInt 45 ((d.target.addr : Int) + d.stride * (r : Int))).toNat) ∧
  (∀ (w : State) (g tile : Nat) (e : Option (List Byte × List CollDest)) (b : Block), w.blockOf g = some b →
    let n := (w.group g).ops.colls
    let mine (k : Coll) : Prop := k.job = b.job ∧ k.run = b.run ∧ k.rank = b.rank ∧ k.k = n
    let counts (k : Coll) : Coll :=
      match e with
      | none => { k with counted := k.counted ++ [g] }
      | some q => { k with counted := k.counted ++ [g], drivers := k.drivers ++ [g], tile, desc := q.1, dests := q.2 }
    ∃ v : State, w.countColl g tile e = v.startColls ∧ v = { w with groups := v.groups, serial := v.serial, svc := v.svc } ∧
      (∀ h, h ≠ g → v.group h = w.group h) ∧ (w.hasGroup g = true → (v.group g).ops.colls = n + 1) ∧
      ((∃ k ∈ w.svc.colls, mine k) → v.svc.colls.length = w.svc.colls.length ∧
        ∀ (i : Nat) (k : Coll), w.svc.colls[i]? = some k → (mine k → v.svc.colls[i]? = some (counts k)) ∧ (¬ mine k → v.svc.colls[i]? = some k)) ∧
      ((¬ ∃ k ∈ w.svc.colls, mine k) → v.svc.colls = w.svc.colls ++
        [counts { id := w.serial + 1, job := b.job, run := b.run, rank := b.rank, k := n, counted := [], drivers := [],
                  tenant := b.tenant, tile := 0, desc := [], dests := [], started := false, casts := [], answered := [] }])) ∧
  (∀ (v : State) (k : Coll),
    (v.collReady k = true ↔ k.started = false ∧ v.unstarted k.job k.run (some k.rank) = false ∧
      v.groupsOfRun k.job k.run (some k.rank) ≠ [] ∧ ∀ g ∈ v.groupsOfRun k.job k.run (some k.rank), g ∈ k.counted) ∧
    ((∀ y ∈ v.svc.colls, v.collReady y = false) → v.startColls = v) ∧
    (k.drivers.length ≠ 1 → ∃ g pc, v.beginColl k = (v.modSvc fun y => { y with colls := y.colls.filter fun z => z.id != k.id }).trapNow
      g 0x2C (v.group g).flow.living pc 0) ∧
    (∀ g m ds, k.drivers = [g] → k.comm v = some m → ds ≠ [] →
      (k.dests.filterMap fun d => (Map.find (v.group d.gid).regs.tile k.tile).map fun slot =>
        ({ d with core := State.coreOf d.gid, slot } : CollDest)) = ds →
      let w := v.modSvc fun y => { y with colls := y.colls.map fun (z : Coll) =>
        if z.id = k.id then { k with started := true, dests := ds } else z }
      v.beginColl k = ((List.range m.rows).foldl (fun y i => y.startChunk k.id i) w).replayEarly)) ∧
  (∀ (v : State) (i : Nat) (k : Coll) (m : Comm) (g : Nat), (v.svc.colls.find? fun y => y.id == k.id) = some k →
    k.comm v = some m → m.op ≠ 6 → k.drivers.head? = some g →
    let r := v.chunkRow k m i
    let root := (m.root + i) % m.members.length
    (r.2 = none → v.startChunk k.id i = r.1.chunkDone k.id i (.error 5)) ∧
    (∀ bs, r.2 = some bs → root ≠ m.myidx → v.startChunk k.id i =
      r.1.sendFabric g 10 (m.members.getD root (0, 0)).1 (m.members.getD root (0, 0)).2
        (2 ^ 43 + 2 ^ 32 * i + m.collid) bs (.chunk k.id i)) ∧
    (∀ bs, r.2 = some bs → root = m.myidx → (k.tenant, m.collid, i) ∉ r.1.svc.answered → v.startChunk k.id i =
      r.1.contribute k.tenant m.collid i (some k.id)
        { order := 1024 * r.1.fab.pod.toNat + r.1.peer, pkt := none, data := bs }))

/-- R16 to R50, R85, R86, R100: what the events of the package do where they apply: input power, resets and the five phases of
the reset sequence, the thermal trip and the power and thermal measurements, the sideband target, row sparing, core
retirement, ports, the array's idle gap and the host link. -/
def Obligations.PackageEvents : Prop :=
  ∀ s : State,
    let gives (e : Instr) (q : State → Prop) : Prop := ∃ t, exec e s = .next t ∧ q t
    let reset (t : State) : Prop := t.pkg.phase = (if s.pwr.perstLow = true then .held else .stop) ∧ t.pkg.modReady = false ∧
      t.groups = [] ∧ t.cores = [] ∧ t.blocks = [] ∧ t.events = [] ∧ t.fab.custody = [] ∧ t.mem = s.mem ∧
      ∀ k, (t.tenant k).epoch = (s.tenant k).epoch
    let dark (t : State) : Prop := t.pwr.on = false ∧ t.pkg.phase = .off ∧ t.groups = [] ∧ (s.MemOk → t.MemOk) ∧
      ∀ p, t.byteAt p = if State.lasting p = true then s.byteAt p else 0
    let on : Prop := s.pwr.on = true
    -- input power and resets
    (∀ mv, gives (.inputVoltageChange mv) fun t => t.pwr.inputMv = mv ∧ t.pwr.lost = decide (mv < 38000 ∨ 64000 < mv) ∧
      t.pwr.cutoff = decide (64000 < mv) ∧ t.pwr.lowv = decide (38000 ≤ mv ∧ mv < 40000) ∧
      t.pwr.highv = decide (60000 < mv ∧ mv ≤ 64000) ∧
      (38000 ≤ mv → mv ≤ 64000 → t.pwr.on = s.pwr.on ∧ t.mem = s.mem ∧ t.groups = s.groups) ∧
      (mv < 38000 ∨ 64000 < mv → on → dark t)) ∧
    (gives .powerInputLost fun t => t.pwr.lost = true ∧ t.pwr.on = false ∧ (on → dark t)) ∧
    (∀ ok, ¬ on → s.pwr.tripped = false → s.pwr.lost = false → gives (.powerOnReset ok) fun t =>
      t.pwr.on = true ∧ t.pwr.lost = false ∧ t.pkg.holdup = ok ∧ reset t) ∧
    (∀ ok, on ∨ s.pwr.tripped = true ∨ s.pwr.lost = true → exec (.powerOnReset ok) s = .next s) ∧
    (gives .perstNAssert fun t => t.pwr.perstLow = true ∧
      (s.pkg.phase ∈ [.boot, .ready, .scrapped] → t.pkg.phase = .held ∧ t.groups = [] ∧ t.mem = s.mem) ∧
      (s.pkg.phase ∉ [.boot, .ready, .scrapped] → t.pkg = s.pkg ∧ t.groups = s.groups ∧ t.mem = s.mem)) ∧
    (gives .perstNRelease fun t => t.pwr = { s.pwr with perstLow := false } ∧
      t.pkg = if s.pkg.phase = .held then { s.pkg with phase := .stop } else s.pkg) ∧
    (∀ e ∈ [Instr.pcieHotReset, .devrst],
      (s.pkg.phase ∈ [.boot, .ready, .scrapped] → gives e reset) ∧
      (s.pkg.phase ∉ [.boot, .ready, .scrapped] → exec e s = .next s)) ∧
    (s.pkg.phase = .stop → exec .persistDrain s = .next (s.modPkg fun p => { p with phase := .drain })) ∧
    (s.pkg.phase = .drain → gives .wipe fun t => t.pkg = { s.pkg with phase := .wipe } ∧ (s.MemOk → t.MemOk) ∧
      ∀ p, t.byteAt p = if State.lasting p = true then s.byteAt p else 0) ∧
    (s.pkg.phase = .wipe → s.pkg.lcstate = 4 → exec .measuredBoot s = .next (s.modPkg fun p => { p with phase := .scrapped })) ∧
    (s.pkg.phase = .wipe → s.pkg.lcstate ≠ 4 → gives .measuredBoot fun t => t.pkg.phase = .boot ∧ t.pkg.bndlock = true ∧
      t.pkg.frrbad = s.repairRecord.isNone ∧
      (∀ r, s.repairRecord = some r → t.pkg.retire = r.retire ∧ t.pkg.soft = r.soft) ∧ (∀ k < 8, (t.tenant k).erasing = false) ∧
      t.host.staging = [] ∧ t.fab.restartWait.length = ((List.range 1024).filter fun p => t.inPod p && p != t.peer).length) ∧
    (s.pkg.phase = .boot → gives .modReady fun t => t.pkg.phase = .ready ∧ t.pkg.modReady = true ∧ t.mem = s.mem) ∧
    -- temperature and power
    (on → gives .thermalTrip fun t => t.pwr.tripped = true ∧ dark t) ∧
    (∀ c, on → gives (.thermSample c) fun t =>
      if 115 ≤ c.toNat then t.pwr.tripped = true ∧ dark t
      else t.pwr = { s.pwr with therm := c } ∧ t.hot = decide (s.pwr.throttle.toNat < c.toNat) ∧ t.mem = s.mem) ∧
    (∀ w : BitVec 12, on → gives (.powerWindow w) fun t => t.mem = s.mem ∧
      let exceeds := decide (s.pwr.cap.toNat < w.toNat)
      let n := if exceeds then s.pwr.overWindows + 1 else 0
      t.overCap = exceeds ∧
      t.pwr = { s.pwr with avg := w, overWindows := n, isslim := exceeds && (s.pwr.isslim || decide (10 ≤ n)) }) ∧
    (gives .pwrAlertChange fun t => t.pwr = { s.pwr with alertLow := !s.pwr.alertLow } ∧
      (s.alarm = false → Map.get false s.host.cause 1 = false → Map.get true s.host.masked 2 = false →
        s.pwr.therm.toNat ≤ s.pwr.throttle.toNat → t.host.vectors = (0, 2) :: s.host.vectors)) ∧
    -- the sideband target
    (∀ a, on → exec (.sbDynamicAddress a) s = .next (s.modPwr fun p => { p with sbDynamic := some a })) ∧
    (∀ b : Byte, on → exec (.sbIndexWrite ⟨s.sbAddress, [b]⟩) s = .next (s.modPwr fun p =>
      if b.toNat < 16 then { p with sbIndex := b.setWidth 4 } else { p with sbNack := p.sbNack + 1 })) ∧
    (∀ d : List Byte, on → d.length ≠ 1 → exec (.sbIndexWrite ⟨s.sbAddress, d⟩) s = .next (s.modPwr fun p => { p with sbNack := p.sbNack + 1 })) ∧
    (∀ n, on → exec (.sbRead ⟨s.sbAddress, n⟩) s = .next (s.modPwr fun p =>
      { p with sbOut := ((List.range (min n (16 - p.sbIndex.toNat))).map fun k => s.sbByte (p.sbIndex.toNat + k)).reverse ++ p.sbOut })) ∧
    (∀ a, on → a ≠ s.sbAddress → ∀ e ∈ [Instr.sbIndexWrite ⟨a, []⟩, .sbIndexWrite ⟨a, [0]⟩, .sbRead ⟨a, 1⟩],
      exec e s = .next (s.modPwr fun p => { p with sbNack := p.sbNack + 1 })) ∧
    -- row sparing
    (∀ e ∈ [Instr.spareNop, .softSpare, .hardSpare, .spareReserved], s.pkg.spareRun.isSome = true →
      exec e s = .next (s.modPkg fun p => { p with spareRejected := true })) ∧
    (s.pkg.spareRun = none →
      let k := State.spareOf s.pkg.spareCmd
      let ended (r : BitVec 3) : State := (s.modPkg fun p =>
        { p with spareLast := k, spareRun := none, spareResult := if p.spareRejected then 3 else r, spareRejected := false }).signal
          0 4
      (State.spareBad s.pkg.spareCmd = true → ∀ e ∈ [Instr.spareNop, .softSpare, .hardSpare, .spareReserved],
        exec e s = .next (ended 2)) ∧
      (State.spareBad s.pkg.spareCmd = false →
        exec .spareNop s = .next (ended 0) ∧ exec .spareReserved s = .next (ended 2) ∧
        ∀ e ∈ [Instr.softSpare, .hardSpare], exec e s = .next (s.modPkg fun p => { p with spareLast := k, spareRun := some k }))) ∧
    (∀ k, s.pkg.spareRun = some k →
      let row := (k.stack.toNat, k.pch.toNat, k.bank.toNat, k.row.toNat)
      let ends (p : Package) (r : BitVec 3) : State := ({ s with freeCount := s.freeCount + 1, pkg :=
        { p with spareRun := none, spareResult := if p.spareRejected then 3 else r, spareRejected := false } }).signal 0 4
      exec .spareDone s = .next (
        if (Config.freeBits s.freeCount).getLsbD 0 = true then ends s.pkg 4
        else if k.op = 1 then
          (if row ∈ s.pkg.soft then ends s.pkg 0
           else if 1024 ≤ (s.pkg.soft.filter fun r => r.1 == k.stack.toNat).length then ends s.pkg 1
           else ends { s.pkg with soft := s.pkg.soft ++ [row] } 0)
        else if s.hardLeft k = 0 then ends s.pkg 1
        else ends { s.pkg with hard := s.pkg.hard ++ [row], soft := s.pkg.soft.erase row } 0)) ∧
    -- core retirement
    (∀ m, gives (.coreRetire m) fun t => t.pkg.retire = s.pkg.retire ||| m ∧
      (∀ e, (s.event e).st ≠ .mailed → (t.event e).st = (s.event e).st) ∧ t.groups = s.groups) ∧
    (∀ c, s.retired c = true → (s.core c).down = false → s.blocksOn c = [] → (s.core c).mailbox = [] →
      gives (.corePowerDown c) fun t => (t.core c).down = true ∧ t.pkg = { s.pkg with retstat := s.pkg.retstat ||| laneBit c } ∧
        ∀ e ∈ t.groups, State.coreOf e.1 ≠ c) ∧
    -- ports
    (∀ n m, n < 62 → (s.port n).up = true → exec (.portRetrain n m) s = .next (s.modPort n fun k =>
      { k with step := if k.minstep.toNat < m.toNat then BitVec.ofNat 2 (min m.toNat 2) else k.minstep })) ∧
    (∀ n, n < 62 → exec (.portDisable n) s = .next (
      let t := s.modPort n fun k => { k with disable := true, up := false }
      if (s.port n).up = true then t.signal 0 3 else t)) ∧
    (∀ n, (s.port n).up = true → exec (.portDown n) s = .next ((s.modPort n fun k => { k with up := false }).signal 0 3)) ∧
    (∀ n lane, n < 62 → lane < 2 → (s.port n).failed.getLsbD lane = false → gives (.laneFailure n lane) fun t =>
      (t.port n).failed = (s.port n).failed ||| BitVec.ofNat 2 (2 ^ lane) ∧
      (t.port n).sparefor = (if (s.port n).spareen = true ∧ (s.port n).sparefor = 0 ∧ (s.port n).spareFailed = false
        then BitVec.ofNat 2 (lane + 1) else (s.port n).sparefor) ∧
      ∀ m, m ≠ n → t.port m = s.port m) ∧
    (∀ n lane mg (fec : BitVec 16), n < 62 → lane < 3 → slice s.fab.eyecfg 7 0 ≤ mg.toNat →
      (slice s.fab.eyecfg 31 16 = 0 ∨ fec.toNat < slice s.fab.eyecfg 31 16) →
      exec (.eyeMeasurement n lane mg ⟨fec, false⟩) s = .next (s.modPort n fun k => { k with poor := Map.put lane 0 k.poor })) ∧
    (∀ n lane mg (fec : BitVec 16) lost, n < 62 → lane < 2 → (mg.toNat < slice s.fab.eyecfg 7 0 ∨ lost = true) → (s.port n).failed.getLsbD lane = false →
      slice s.fab.eyecfg 15 8 ≤ Map.get 0 (s.port n).poor lane + 1 → (s.port n).auto = false →
      exec (.eyeMeasurement n lane mg ⟨fec, lost⟩) s =
        .next ((s.modPort n fun k => { k with poor := Map.put lane 0 k.poor }).signal 0 3)) ∧
    (∀ n, (∀ k ∈ s.fab.custody, k.port = n → s.portUp n = true) → gives (.portResume n) fun t =>
      t.fab.custody = (s.fab.custody.filter fun k => k.port != n) ++ (s.fab.custody.filter fun k => k.port == n) ∧
      t.fab.outbox = ((s.fab.custody.filter fun k => k.port == n).map fun k => (some k.port, k.pkt)).reverse ++ s.fab.outbox) ∧
    (∀ n, n < 62 → (s.port n).disable = false → State.lanesUp (s.port n) ≠ 0 → s.heldDown n = false → s.beforeBoot = false →
      gives (.portTrained n) fun t =>
      (t.port n).up = true ∧ (t.port n).step.toNat = max (s.port n).step.toNat (s.port n).minstep.toNat ∧ t.mem = s.mem) ∧
    -- the array and the link
    (∀ c, exec (.matrixIdleGap c) s = .next (s.modCore c fun k => { k with gap := true, ramped := false })) ∧
    (∀ flit, exec (.linkTraining flit) s = .next (s.modPkg fun p => { p with noflit := !flit }))

/-- R56 to R83, R103, R121 to R123, R219: the oldest packet of the arrival queue, by its type, and the router's own events: a
request is refused with the code of R71 that applies, or performed at its home and answered; a response closes its tag and
does what its errand asks; notices, signals, GAP, RESTART and management; arrival in order, custody and its timers, the
dead-device map, and the refill of budgets. -/
def Obligations.FabricEvents : Prop :=
  ∀ s : State,
    (∀ (p : Packet) (rest : List Packet), s.fab.inbox = p :: rest →
      let v : State := { s with fab := { s.fab with inbox := rest } }
      let t := p.vcn.toNat
      let line := p.addr.toNat / 64 * 64
      let acked (u : State) (typ : Nat) (data : List Byte) : State := u.respond { p with payload := data } typ (bytesOf 8 0 ++ data)
      let u := v.recallLine (line / 64)
      let ends (w : State) : Host.Outcome State Fault Refusal := .next (w.giveTags w.fab.untagged.length)
      -- a tenant in reset
      (∀ e ∈ [(0, Instr.rd), (2, .wr), (4, .atReq), (6, .mc), (8, .rcp), (10, .redPkt), (12, .evsub), (13, .evsigPkt),
          (14, .sdelta), (16, .srbld)], p.typ.toNat = e.1 → v.shutOut p = true → exec e.2 s = ends (v.refuse p 4)) ∧
      -- requests
      (v.shutOut p = false →
        (∀ c, v.inboundCode p line 64 false = some c →
          (p.typ = 0 → exec .rd s = ends (v.refuse p c)) ∧ (p.typ = 16 → exec .srbld s = ends (v.refuse p c))) ∧
        (v.inboundCode p line 64 false = none → u.poisoned line = false →
          let r := u.homeLine t (line / 64)
          (p.typ = 0 → exec .rd s = ends (r.1.respond p 1 r.2)) ∧ (p.typ = 16 → exec .srbld s = ends (r.1.respond p 17 r.2))) ∧
        (v.inboundCode p line 64 false = none → u.poisoned line = true →
          (p.typ = 0 → exec .rd s = ends (u.refuse p 5)) ∧ (p.typ = 16 → exec .srbld s = ends (u.refuse p 5))) ∧
        (∀ bs c, State.writeBytes p = some bs → v.inboundCode p line 64 true = some c →
          (p.typ = 2 → exec .wr s = ends (v.refuse p c)) ∧ (p.typ = 6 → p.rsv ≠ 1 → exec .mc s = ends (v.refuse p c))) ∧
        (∀ bs, State.writeBytes p = some bs → v.inboundCode p line 64 true = none → u.guardAt t line = none →
          (∀ k ∈ (u.homeWrite t line bs).fab.tags, ∀ a b c r, k.2.errand ≠ .delta a b c (some r)) →
          (p.typ = 2 → exec .wr s = ends (acked (u.homeWrite t line bs) 3 [])) ∧
          (p.typ = 6 → p.rsv ≠ 1 → exec .mc s = ends (acked (u.homeWrite t line bs) 7 []))) ∧
        (p.typ = 6 → p.rsv = 1 → exec .mc s = ends v) ∧
        (let others (w : State) : State :=
          { w with svc := { w.svc with atParts := w.svc.atParts.filter fun q => !State.sameAt p q } }
         p.typ = 4 →
          ((State.atIndex p).2 = false →
            let w := if (State.atIndex p).1 = 0 then others v else v
            exec .atReq s = ends { w with svc := { w.svc with atParts := w.svc.atParts ++ [p] } }) ∧
          ((State.atIndex p).2 = true → ∀ op ty steps, v.wholeAt p = some (op, ty, steps) →
            (∀ c, v.inboundCode p line 64 true = some c → exec .atReq s = ends ((others v).refuse p c)) ∧
            (v.inboundCode p line 64 true = none →
              let w := (others v).recallLine (line / 64)
              let l := w.homeLine t (line / 64)
              let olds := (steps.map fun (k : Nat × Nat × Nat) => k.1).eraseDups.flatMap fun o =>
                bytesOf 8 (natOfBytes ((l.2.drop o).take ty.bytes))
              let line' := steps.foldl (fun (b : List Byte) (k : Nat × Nat × Nat) =>
                b.take k.1 ++ bytesOf ty.bytes (atomicNew op ty (natOfBytes ((b.drop k.1).take ty.bytes)) k.2.1 k.2.2) ++
                  b.drop (k.1 + ty.bytes)) l.2
              let q : Packet := { p with payload := olds }
              w.poisoned line = false →
                exec .atReq s = ends ((l.1.inboundWrite q 5 line (line'.map some)).answerWrite q 5)))) ∧
        (p.typ = 8 → p.addr.toNat / 2 ^ 40 ≠ 8 →
          (∀ c, v.inboundCode p p.addr.toNat p.payload.length true = some c → exec .rcp s = ends (v.refuse p c)) ∧
          (v.inboundCode p p.addr.toNat p.payload.length true = none → exec .rcp s = ends
            (((linePieces p.addr.toNat p.payload.length).foldl (fun w k =>
              w.inboundWrite { p with payload := [] } 9 (p.addr.toNat + k.1) (((p.payload.drop k.1).take k.2.2).map some))
                v).answerWrite { p with payload := [] } 9))) ∧
        (p.typ = 8 → p.addr.toNat / 2 ^ 40 = 8 →
          (v.takeCast p = none → exec .rcp s = ends { v with svc := { v.svc with early := v.svc.early ++ [p] } }) ∧
          (∀ w, v.takeCast p = some w → exec .rcp s = ends w)) ∧
        (p.typ = 10 →
          let part : Contribution :=
            { order := 1024 * (p.ext.elim s.fab.pod.toNat fun e => e.spod.toNat) + p.src.toNat, pkt := some p, data := p.payload }
          let key := keyColl p.addr.toNat
          exec .redPkt s = ends (if (t, key.1, key.2) ∈ v.svc.answered then v.sendResult p none (partsBitmap [part])
            else v.contribute t key.1 key.2 none part)) ∧
        (p.typ = 14 → ∀ i row, (v.tenant t).st ≠ .resetting → State.inMap line 64 = true → v.inAllowed t line 64 = true →
          v.guardOf t line = some (i, row) → State.parityOf (v.stripe t i) row = (v.stripe t i).myidx.toNat →
          let r := u.homeLine t (line / 64)
          (State.spareClosed (v.stripe t i) = true → exec .sdelta s = ends (v.refuse p 10)) ∧
          (State.spareClosed (v.stripe t i) = false →
            exec .sdelta s = ends ((r.1.setBytes line (State.xorBytes r.2 p.payload)).respond p 15 [])))) ∧
      -- responses and notices
      (v.shutOut p = false →
        (∀ e ∈ [(1, Instr.rdrsp), (3, .wrack), (5, .atrsp), (7, .mcack), (9, .rcpack), (11, .redres), (15, .sdack),
            (17, .srbldrsp)], p.typ.toNat = e.1 →
          (Map.find s.fab.tags p.tag.toNat = none → exec e.2 s = ends v) ∧
          (∀ k, Map.find s.fab.tags p.tag.toNat = some k →
            exec e.2 s = ends ((v.closeTag p.tag.toNat (v.errandGroup k.errand)).succeed k.errand p))) ∧
        (p.typ = 18 →
          let d := natOfBytes p.payload
          let of := d / 2 ^ 16 % 32
          (of = 12 → exec .errNotice s = ends (v.loseSub t (p.addr.setWidth 32))) ∧
          (of = 13 → exec .errNotice s = ends (v.resendEvsig t (p.addr.setWidth 32))) ∧
          (∀ k, of ≠ 12 → of ≠ 13 → Map.find s.fab.tags p.tag.toNat = some k →
            exec .errNotice s = ends (if k.typ = of ∧ k.addr % 2 ^ 45 = p.addr.toNat then
              (v.closeTag p.tag.toNat (v.errandGroup k.errand)).fail k.errand (BitVec.ofNat 4 d) (BitVec.ofNat 64 d) else v)) ∧
          (of ≠ 12 → of ≠ 13 → Map.find s.fab.tags p.tag.toNat = none → exec .errNotice s = ends v)) ∧
        -- subscriptions and signals
        (p.typ = 12 →
          let name : Word := p.addr.setWidth 32
          let i := nameIndex name
          let known := v.inSubs.any fun r => r.flag == i && r.peer == p.src
          let full := decide (2048 ≤ (v.inSubs.filter fun r => shareOf r.flag == t).length)
          let record (sent : Bool) : State := { v with inSubs :=
            (v.inSubs.filter fun r => !(r.flag == i && r.peer == p.src)) ++ [{ flag := i, peer := p.src, sent := sent }] }
          (v.localFlag t name = false → exec .evsub s = ends (v.sendSignal t p.src name true)) ∧
          (v.localFlag t name = true → known = false → full = true → exec .evsub s = ends (v.sendSignal t p.src name true)) ∧
          (v.localFlag t name = true → known = true ∨ full = false →
            exec .evsub s = ends (if (v.event i).st = .fired then (record true).sendEvsig i p.src false else record false))) ∧
        (p.typ = 13 →
          let name : Word := p.addr.setWidth 32
          let mine (o : OutSub) : Bool := o.tenant == t && o.name == name
          (v.outSubs.find? mine = none → exec .evsigPkt s = ends v) ∧
          (∀ o, v.outSubs.find? mine = some o →
            (natOfBytes p.payload / 2 ^ 32 % 2 = 1 → exec .evsigPkt s = ends (v.loseSub t name)) ∧
            (natOfBytes p.payload / 2 ^ 32 % 2 = 0 → exec .evsigPkt s = ends
              (o.jobs.foldl (fun w e => w.decJob e) { v with outSubs := v.outSubs.filter fun x => !mine x })))) ∧
        (p.typ = 19 → exec .gap s = ends (v.skipSeq (State.gapKey p) p.seq.toNat))) ∧
      -- RESTART, management
      (p.typ = 20 →
        let code := (p.payload.headD 0).toNat
        (code = 1 → (∀ k ∈ s.svc.reductions, k.coll ≠ none) → ∃ w, exec .restart s = .next w ∧ (∀ e ∈ w.fab.rx, e.1.peer = p.src → e.1.off ≠ none) ∧
          (∀ e ∈ w.fab.txSeq, e.1.peer = p.src → e.1.off ≠ none) ∧ w.mem = s.mem ∧ w.groups = s.groups) ∧
        (code = 2 → exec .restartAck s = .next
          ({ v with fab := { v.fab with restartWait := v.fab.restartWait.filter fun d => d != p.src.toNat } }).releaseAll) ∧
        (code ≠ 1 → code ≠ 2 → exec .mgmt s = .next { v with fab := { v.fab with mgmtIn := v.fab.mgmtIn ++ [p] } }))) ∧
    -- arrival
    (∀ i p, s.pwr.on = false ∨ s.beforeBoot = true ∨ (∃ k, i = some k ∧ s.portUp k = false) →
      exec (.packetForward i p) s = .next s) ∧
    (∀ i p, s.pwr.on = true → s.beforeBoot = false → (∀ k, i = some k → s.portUp k = true ∧ s.isUplink k = false) →
      let taken (w : State) : State := i.elim w fun k => { w with fab := { w.fab with acks := k :: w.fab.acks } }
      let inbox (w : State) : State := { w with fab := { w.fab with inbox := w.fab.inbox ++ [p] } }
      let r := s.rxOf (State.inKey p)
      (State.badHeader p = true → p.typ ≠ 10 → exec (.packetForward i p) s = .next (taken (s.endPacket p 6))) ∧
      (State.badHeader p = false →
        (s.forMe p = false → exec (.packetForward i p) s = .next ((s.place p).elim s taken)) ∧
        (s.forMe p = true → State.unnumbered p = true → exec (.packetForward i p) s = .next (taken (inbox s))) ∧
        (s.forMe p = true → State.unnumbered p = false → p.ext = none → p.typ ≠ 6 →
          (r.early = [] → r.skipped = [] → r.expect = p.seq.toNat → ∃ t, exec (.packetForward i p) s = .next t ∧
            t.fab.inbox = s.fab.inbox ++ [p] ∧
            t.rxOf (State.inKey p) = { expect := (p.seq.toNat + 1) % 65536, early := [], skipped := [] }) ∧
          (32768 ≤ (p.seq.toNat + 65536 - r.expect) % 65536 → exec (.packetForward i p) s = .next (taken s))))) ∧
    -- custody and timers
    (∀ n, exec (.custodyAck n) s = .next ({ s with fab := { s.fab with custody := s.fab.custody.eraseIdx n } }).releaseAll) ∧
    (∀ n k, s.fab.custody[n]? = some k → exec (.custodyTimeout n) s =
      .next (({ s with fab := { s.fab with custody := s.fab.custody.eraseIdx n } }).endPacket k.pkt 8).releaseAll) ∧
    (∀ i p, s.svc.early[i]? = some p → exec (.custodyTimeout (s.fab.custody.length + i)) s =
      .next (({ s with svc := { s.svc with early := s.svc.early.eraseIdx i } }).refuse p 8)) ∧
    (∀ i p, s.heldParts[i]? = some p → exec (.custodyTimeout (s.fab.custody.length + s.svc.early.length + i)) s =
      .next ((({ s with svc := { s.svc with reductions := s.svc.reductions.map fun k =>
        { k with parts := k.parts.filter fun x => x.pkt != some p } } } : State).refuse p 8).failChunk p)) ∧
    (∀ (tag : BitVec 16) k, Map.find s.fab.tags tag.toNat = some k → exec (.localtmo tag) s = .next
      (((s.closeTag tag.toNat (s.errandGroup k.errand)).retireTag tag.toNat).fail k.errand 9
        (BitVec.ofNat 64 (9 + 16 * s.peer + 2 ^ 16 * k.typ)))) ∧
    (∀ tag : BitVec 16, exec (.tagReuseTimeout tag) s =
      .next (({ s with fab := { s.fab with retired := s.fab.retired.filter fun r => r.1 != tag.toNat } } : State).giveTags
        s.fab.untagged.length)) ∧
    (∀ k, exec (.gapSkipTimeout k) s = .next (if (s.rxOf k).early = [] then s else s.skipSeq k (s.rxOf k).expect)) ∧
    (∀ (cid : Word) ch, (∀ k ∈ s.svc.reductions, k.collid = cid.toNat → k.chunk ≠ ch) → exec (.reductionTimeout cid ch) s = .next s) ∧
    (∀ (cid : Word) ch k, s.svc.reductions.filter (fun k => k.collid == cid.toNat && k.chunk == ch) = [k] →
      exec (.reductionTimeout cid ch) s = .next (s.answerChunk k none)) ∧
    (∀ (cid : Word) ch, exec (.reductionForget cid ch) s = .next { s with svc := { s.svc with
      answered := s.svc.answered.filter fun k => !(k.2.1 == cid.toNat && k.2.2 == ch) } }) ∧
    (∀ i peer, exec (.evsigResendStop i peer) s =
      .next { s with
        inSubs := s.inSubs.filter fun r => !(r.flag == i && r.peer == peer && r.sent)
        svc := { s.svc with lost := s.svc.lost.filter fun k => !(nameIndex k.name == i && k.peer == peer) } }) ∧
    (∀ core (cid : Word) ch k, (s.svc.colls.find? fun k =>
        k.started && k.dests.any (fun d => d.core == core) && (k.comm s).any (fun m => m.collid == cid.toNat) &&
          !(k.answered.any fun a => a.1 == ch)) = some k →
      exec (.collChunkTimeout core cid ch) s = .next (s.chunkDone k.id ch (.error 9))) ∧
    (∀ i m, s.fab.deadReq = some (i, m) →
      (exec .deadmapClear s = .next { s with fab := { s.fab with
        deadReq := none, dead := Map.set 0 s.fab.dead i (Map.get 0 s.fab.dead i &&& ~~~m) } }) ∧
      ∃ t, exec .deadmapSet s = .next t ∧ t.fab.dead = Map.set 0 s.fab.dead i (Map.get 0 s.fab.dead i ||| m) ∧
        t.fab.deadReq = none ∧ (∀ k ∈ t.fab.custody, k.pkt.ext = none ∨ t.isDead t.peer = false → t.isDead k.pkt.dst.toNat = true →
          State.restartMsg k.pkt = true)) ∧
    (let full (m : Map Int) (cap : Nat → Nat) : Map Int := (List.range 9).map fun t =>
      let b := Map.get 0 m t
      (t, if 0 ≤ b then (cap t : Int) else b + cap t)
     exec .capRefill s = .next ({ s with fab := { s.fab with
      budget := full s.fab.budget fun t => (s.boundary t).capFab.toNat,
      hostBudget := full s.fab.hostBudget fun t => (s.boundary t).capHost.toNat } }).releaseAll)

/-- R87 to R109, R148, R149, R408: what the events of the host do where they apply: the functions and their vectors, the tenants'
states, configuration and keys, stream and fault queues as the host moves them, the secure mailbox and the tenants', the
life cycle, and the writes of registers, of 8 bytes and of 4. -/
def Obligations.TenantEvents : Prop :=
  ∀ (s : State) (t : Nat),
    let k := s.tenant t
    let gives (e : Instr) (q : State → Prop) : Prop := ∃ u, exec e s = .next u ∧ q u
    let up : Prop := s.pwr.on = true ∧ s.pkg.phase = .ready
    let vf : Prop := up ∧ t < 8 ∧ s.fnEnabled (t + 1) = true ∧ k.st ≠ .resetting
    let resets (u : State) (off : Bool) : Prop := (u.tenant t).st = .resetting ∧ (u.tenant t).endDisabled = off ∧
      (∀ c < 64, s.holdsCluster t (State.clusterOf c) = true → u.blocksOn c = [] ∧ u.groupsOn c = []) ∧
      (∀ g < 64, k.pch.getLsbD g = true → ∀ p, 2 ^ 33 * g ≤ p → p < 2 ^ 33 * (g + 1) → u.byteAt p = 0)
    -- functions
    (∀ n, up → n ≤ 8 → gives (.numvfsWrite n) fun u => u.host.numVfs = n ∧ (t < 8 → n ≤ t → k.st = .active → (u.tenant t).st = .resetting)) ∧
    (up → exec .vfEnable s = .next (s.modHost fun h => { h with vfEnable := true })) ∧
    (up → gives .vfEnableClear fun u => u.host.vfEnable = false ∧ (t < 8 → k.st = .active → (u.tenant t).st = .resetting)) ∧
    (up → t < 8 → s.fnEnabled (t + 1) = true → k.st = .active → gives (.functionLevelReset (t + 1)) fun u => resets u false) ∧
    (∀ fn vec, up → vec < 16 → s.fnEnabled fn = true →
      let open_ := s.modHost fun h =>
        { h with masked := Map.put (16 * fn + vec) false h.masked, pendingVec := Map.del (16 * fn + vec) h.pendingVec }
      exec (.vectorUnmask fn vec) s = .next (
        if Map.get false s.host.pendingVec (16 * fn + vec) = true then
          open_.modHost fun h => { h with vectors := (fn, vec) :: h.vectors }
        else open_)) ∧
    -- states and keys
    (∀ v, up → t < 8 → k.st = .disabled → exec (.tenCfgWrite t v) s = .next (s.modTenant t fun x =>
      { x with cfg := v &&& 0xFFFFFFFF, err := 0, erasing := x.erasing ||
          (slice v 31 20 != 0 && (slice v 19 8 != x.recBase.toNat || slice v 31 20 != x.recSize.toNat)) })) ∧
    (∀ v, up → t < 8 → k.st ≠ .disabled → exec (.tenCfgWrite t v) s = .next (s.modTenant t fun x => { x with err := 5 })) ∧
    (up → t < 8 → k.st = .active → gives (.tenantResetRequest t) fun u => resets u false) ∧
    (up → t < 8 → k.st = .active → gives (.tenantDisable t) fun u => resets u true) ∧
    (up → t < 8 → exec (.pewerase t) s = .next (s.modTenant t fun x =>
      if k.st = .disabled then { x with erasing := true, err := 0 } else { x with err := 4 })) ∧
    (up → t < 8 → k.st ≠ .disabled → exec (.tenantEnable t) s = .next (s.modTenant t fun x => { x with err := 0 })) ∧
    (up → t < 8 → k.st = .disabled → k.erasing = true →
      exec (.tenantEnable t) s = .next (s.modTenant t fun x => { x with enableWait := true, err := 0 })) ∧
    (up → t < 8 → k.st = .disabled → k.erasing = false → gives (.tenantEnable t) fun u =>
      (u.tenant t).err = s.enableCode t ∧ ((u.tenant t).st = .active ↔ s.enableCode t = 0)) ∧
    (up → t < 8 → k.st = .resetting → gives (.tenantResetEnd t) fun u =>
      (u.tenant t).st = (if k.endDisabled = true then .disabled else .active) ∧ (u.tenant t).endDisabled = false) ∧
    (t < 8 → k.erasing = true → k.enableWait = false → s.pkg.rotate = false → exec (.keyRotationDone t) s =
      .next (s.modTenant t fun x =>
        { x with erasing := false, enableWait := false, epoch := x.epoch + 1, recBase := BitVec.ofNat 12 (slice x.cfg 19 8),
                 recSize := BitVec.ofNat 12 (slice x.cfg 31 20) })) ∧
    -- queues
    (∀ q v, vf → q < 16 → (s.queue t q).en = false →
      let n := slice v 4 0
      let set (e : Bool) : State := s.modQueue t q fun x =>
        { x with log2n := BitVec.ofNat 5 n, owner := v.getLsbD 5, prio := BitVec.ofNat 2 (slice v 7 6), en := e,
                 head := if e then 0 else x.head, tail := if e then 0 else x.tail, qerr := if e then 0 else 7 }
      exec (.queueEnable t q v) s = .next (if n < 6 ∨ 20 < n then (set false).signal (t + 1) 1 else set true)) ∧
    (∀ q, vf → q < 16 → exec (.queueDisable t q) s = .next (s.modQueue t q fun x => { x with en := false })) ∧
    (∀ q v, vf → q < 16 →
      let x := s.queue t q
      let error (e : BitVec 4) : State := (s.modQueue t q fun x => { x with qerr := e }).signal (t + 1) 1
      exec (.qtailWrite t q v) s = .next (
        if x.owner = true then error 3
        else if 2 ^ x.log2n.toNat < (v - x.tail).toNat then error 2
        else if 2 ^ x.log2n.toNat < (v - x.head).toNat then error 1
        else s.modQueue t q fun x => { x with tail := v })) ∧
    (∀ v, vf → exec (.fqheadWrite t v) s = .next (
      if 2 ^ k.fq.log2n.toNat < (k.fq.tail - v).toNat then s else s.modFq t fun x => { x with head := v })) ∧
    (vf → exec (.hostsigRead t) s = .next (s.modTenant t fun x => { x with hostsig := x.hostsig &&& 0x0FFFFFFFF })) ∧
    -- mailboxes and the life cycle
    (up → s.host.sec.busy = true → ∀ e ∈ [Instr.getnonce, .attest, .getcert, .lcreq, .stage, .secInvalid],
      exec e s = .next (s.modHost fun h => { h with sec := { h.sec with rejected := true } })) ∧
    (up → s.host.sec.busy = false → ∀ e ∈ [(1, Instr.getnonce), (2, .attest), (3, .getcert), (4, .lcreq), (5, .stage), (0, .secInvalid)],
      gives e.2 fun u => u.host.sec.busy = true ∧ u.host.sec.result = (s.secEffect e.1).2.result ∧
        u.host.sec.outlen.toNat = min (s.secEffect e.1).2.out.length 65535 ∧ u.pkg = (s.secEffect e.1).1.pkg ∧
        u.host.nonce = (s.secEffect e.1).1.host.nonce ∧ u.host.slots = (s.secEffect e.1).1.host.slots) ∧
    (State.cmdBad s.host.sec.cmd = false → s.pkg.recovery = false →
      (s.secEffect 1).2.out.length = 32 ∧ (s.secEffect 3).2.out = Config.identityCert ∧ (s.secEffect 0).2.result = 2 ∧
      (∀ a, State.cmdArg s.host.sec.cmd = a → a < 8 ∨ a = 255 →
        (s.secEffect 2).2.result = 0 ∧ (s.secEffect 2).2.out.take 512 = (s.report (s.host.sec.input 0 32) a).take 512)) ∧
    (∀ l owner, up → s.pkg.pendingLc = some (l, owner) → gives .lcCommit fun u => u.pkg = { s.pkg with
        lcstate := l, reentry := if s.pkg.lcstate = 3 ∧ l = 2 then s.pkg.reentry + 1 else s.pkg.reentry, pendingLc := none,
        ownerKey := if s.pkg.lcstate = 1 ∧ l = 2 then some owner else s.pkg.ownerKey,
        rotate := true } ∧ ∀ j < 8, (u.tenant j).erasing = true) ∧
    (s.host.sec.busy = true → exec (.secCommandDone none) s = .next ((s.modHost fun h => { h with sec := { h.sec with
        busy := false, result := if h.sec.rejected then 3 else h.sec.result, rejected := false } }).signal 0 1)) ∧
    (t < 8 → k.mbx.busy = true → exec (.secCommandDone (some t)) s = .next ((s.modTenant t fun x => { x with mbx := { x.mbx with
        busy := false, result := if x.mbx.rejected then 3 else x.mbx.result, rejected := false } }).signal (t + 1) 2)) ∧
    (∀ v, vf → k.mbx.busy = true → ∀ e ∈ [Instr.tenantAttest t v, .tenantGetcert t v, .tenantMailboxRefused t v],
      exec e s = .next (s.modTenant t fun x => { x with mbx := { x.mbx with rejected := true } })) ∧
    (∀ v, vf → k.mbx.busy = false →
      let good (e : Instr) (code : Nat) (r : Nat) (out : List Byte) : Prop := gives e fun u =>
        (u.tenant t).mbx.busy = true ∧ (u.tenant t).mbx.result.toNat = r ∧ State.cmdCode (u.tenant t).mbx.cmd = code ∧
        (u.tenant t).mbx.outlen.toNat = min out.length 65535
      (State.cmdBad (State.withCode v 3) = false → good (.tenantGetcert t v) 3 0 Config.identityCert) ∧
      (State.cmdBad (State.withCode v 2) = false → s.pkg.recovery = false →
        good (.tenantAttest t v) 2 0 (s.attest k.mbx t).out) ∧
      (State.cmdBad (State.withCode v 2) = false → s.pkg.recovery = true → good (.tenantAttest t v) 2 5 []) ∧
      (State.cmdCode v ≠ 2 → State.cmdCode v ≠ 3 → good (.tenantMailboxRefused t v) (State.cmdCode v) 2 [])) ∧
    (up → exec .pkgMsextGo s = .next (s.modHost fun h =>
      { h with ms := Map.put 6 (extendMs (Map.get 0 h.ms 6) h.msExt) h.ms })) ∧
    (up → exec .lcerrClear s = .next (s.modPkg fun p => { p with lcerr := false })) ∧
    -- registers
    (∀ off v, up → off % 8 = 0 → exec (.registerWrite 0 off 8 v) s = .next (s.writePf off v)) ∧
    (∀ off v, vf → off % 8 = 0 → exec (.registerWrite (t + 1) off 8 v) s = .next (s.writeVf t off v)) ∧
    (∀ off v, up → off % 8 = 0 → State.only8 0 off = true → exec (.registerWrite 0 off 4 v) s = .next s) ∧
    (∀ v, up → exec (.registerWrite 0 0x2000 8 v) s =
      .next (s.modPwr fun p => { p with cap := BitVec.ofNat 12 (max 1600 (min (slice v 11 0) 3200)) }).noteAlarm) ∧
    (∀ v, up → exec (.registerWrite 0 0x2100 8 v) s =
      .next (s.modPwr fun p => { p with throttle := BitVec.ofNat 7 (max 85 (min (slice v 6 0) 105)) }).noteAlarm) ∧
    (∀ v, up → exec (.registerWrite 0 0x1428 4 v) s = .next (s.modFab fun f =>
      { f with tmo := BitVec.ofNat 16 (max 500 (v.toNat % 65536)) }))

/-- R96 to R98, R110 to R147, R216 to R221, R254 to R256: what the events of the dispatcher do where they apply: records are decoded
and acted on, jobs delivered and retired, events controlled, slots committed and boundaries closed, tenants drained, saved and
restored; the stripes of a tenant; and the writing of an owed fault record. -/
def Obligations.DispatchEvents : Prop :=
  ∀ (s : State) (t : Nat),
    let k := s.tenant t
    let gives (e : Instr) (q : State → Prop) : Prop := ∃ u, exec e s = .next u ∧ q u
    let up : Prop := s.pwr.on = true ∧ s.pkg.phase = .ready
    let vf : Prop := up ∧ t < 8 ∧ s.fnEnabled (t + 1) = true ∧ k.st ≠ .resetting
    let open_ : Prop := s.laneOpen t = true
    let answer (u : State) (r : BitVec 4) : State := u.modSched t fun x => { x with evResult := r }
    -- records of the operator streams
    (∀ q u, (s.queue t q).grid = none →
      let past := (u.modQueue t q fun x => { x with head := x.head + 1 }).modSched t fun x => { x with lane := (q + 1) % 16 }
      let stop (e : BitVec 4) : State := (u.modQueue t q fun x => { x with qerr := e, en := false }).signal (t + 1) 1
      (∀ op job, s.decodeHead t q = (u, .grid op job) → exec (.grid t q) s = .next
        ((past.modQueue t q fun x => { x with grid := some { op, job, index := (u.queue t q).head, made := 0 } }).goOnGrid t q)) ∧
      (∀ i n, s.decodeHead t q = (u, .arm i n) → exec (.arm t q) s = .next
        (if n = 0 then past.fire i else past.setEvent i { past.event i with st := .armed, count := n })) ∧
      (∀ i n, s.decodeHead t q = (u, .signal i n) → exec (.signal t q) s = .next (past.decFlag i n)) ∧
      (s.decodeHead t q = (u, .nop) → exec (.nopOperator t q) s = .next past) ∧
      (s.decodeHead t q = (u, .refused) → exec (.recordRefused t q) s = .next (stop 6)) ∧
      (∀ e, s.decodeHead t q = (u, .fault e) → exec (.ringReadFault t q) s = .next (stop e)) ∧
      (s.decodeHead t q = (u, .waiting) → ∀ e ∈ [Instr.grid t q, .arm t q, .signal t q, .nopOperator t q, .recordRefused t q,
        .ringReadFault t q], exec e s = .next u)) ∧
    (∀ q h, open_ → (s.queue t q).grid = some h → exec (.grid t q) s = .next (s.goOnGrid t q)) ∧
    (∀ q h, (s.queue t q).grid = some h → State.opJobs h.op ≤ h.made →
      s.goOnGrid t q = s.modQueue t q fun x => { x with grid := none }) ∧
    (∀ i n, (s.event i).st = .armed → 0 < n →
      (n < (s.event i).count → s.decFlag i n = s.setEvent i { s.event i with count := (s.event i).count - n }) ∧
      ((s.event i).count = n → s.decFlag i n = (s.lostDec (shareOf i) 0).fire i)) ∧
    -- delivery and retirement
    (¬ open_ ∨ s.poolOf t = [] → exec (.jobDelivery t) s = .next s) ∧
    (open_ → s.poolOf t ≠ [] →
      let v := s.holdMinimum t
      (∀ before e after u, v.poolOrder t = before ++ e :: after → (∀ b ∈ before, v.deliver t b = none) → v.deliver t e = some u →
        exec (.jobDelivery t) s = .next u) ∧
      ((∀ e ∈ v.poolOrder t, v.deliver t e = none) → exec (.jobDelivery t) s = .next v)) ∧
    (∀ e u, (s.tarragonRead t (s.event e).desc 128 = (u, .error none) → s.deliver t e = some u) ∧
      (∀ c, s.tarragonRead t (s.event e).desc 128 = (u, .error (some c)) → s.deliver t e = some (u.failBadJob e)) ∧
      (∀ rec, s.tarragonRead t (s.event e).desc 128 = (u, .ok rec) →
        let runs := s.placeRuns t rec ((s.event e).twin || recTwin rec) (s.event e).avoid
        (recValid rec = false → s.deliver t e = some (u.failBadJob e)) ∧
        (recValid rec = true → runs = none → s.deliver t e = none) ∧
        (∀ r, recValid rec = true → runs = some r →
          (s.fitsRuns rec r = false → s.deliver t e = some (u.failBadJob e)) ∧
          (s.fitsRuns rec r = true → ∃ w, s.deliver t e = some w ∧ (w.event e).st = .mailed ∧ (w.event e).runs = r ∧
            (w.event e).left = (r.map (·.length)).sum ∧ (w.event e).record = rec)))) ∧
    (∀ e, ((s.failBadJob e).event e).st = .failed ∧ ((s.failBadJob e).tenant (shareOf e)).fq.owed =
      (s.tenant (shareOf e)).fq.owed ++ [State.bareRecord 0x40 (s.event e).jobid 0]) ∧
    (∀ e, (s.event e).st = .running → (s.event e).left = 0 → s.blocks = [] → s.cores = [] →
      gives (.jobRetire e) fun u => (State.doneOf (s.event e) = noName → (u.event e).st = .free) ∧ u.mem = s.mem) ∧
    (∀ e, (s.event e).st = .running → (s.event e).left = 0 →
      let v := ((s.event e).runs.flatMap fun r => r).foldl (fun (w : State) c => w.drainFifo c) s
      let freed : State := { v with events := Map.del e v.events }
      exec (.jobRetire e) s = .next (if State.doneOf (s.event e) = noName then freed
        else freed.decFlag (nameIndex (State.doneOf (s.event e))) 1)) ∧
    (∀ e, (s.event e).st ≠ .running ∨ (s.event e).left ≠ 0 → exec (.jobRetire e) s = .next s) ∧
    -- event control
    (∀ n : Word, vf → k.sched.dstate ≠ 0 → ∀ e ∈ [Instr.evctlResub t n, .evctlRetire t n, .evctlDiscard t n, .evctlRelaunch t n,
      .evctlSignal t n, .evctlInvalid t], k.sched.evctl = [] → exec e s = .next (answer s 3)) ∧
    (vf → k.sched.dstate = 0 → k.sched.evctl = [] → exec (.evctlInvalid t) s = .next (answer s 2)) ∧
    (∀ n : Word, vf → k.sched.evctl ≠ [] → ∀ e ∈ [(1, Instr.evctlResub t n), (2, .evctlRetire t n), (3, .evctlDiscard t n),
      (4, .evctlRelaunch t n), (5, .evctlSignal t n)],
      exec e.2 s = .next (s.modSched t fun x => { x with evctl := x.evctl ++ [(e.1, n)] })) ∧
    (∀ n : Word, vf → k.sched.dstate = 0 → k.sched.evctl = [] →
      (∀ e, s.failedJob t n = some e →
        let freed : State := { s with events := Map.del e s.events }
        exec (.evctlDiscard t n) s = .next (answer freed 0) ∧
        exec (.evctlRetire t n) s = .next (answer
          (if State.doneOf (s.event e) = noName then freed else freed.decFlag (nameIndex (State.doneOf (s.event e))) 1) 0) ∧
        (∀ u, s.tarragonRead t (s.event e).desc 128 = (u, .error none) →
          exec (.evctlRelaunch t n) s = .next (u.modSched t fun x => { x with evctl := x.evctl ++ [(4, n)] })) ∧
        (∀ u r, s.tarragonRead t (s.event e).desc 128 = (u, r) →
          (∃ c, r = .error (some c)) ∨ (∃ rec, r = .ok rec ∧ recValid rec = false) →
          exec (.evctlRelaunch t n) s = .next (answer (u.owe t (State.bareRecord 0x40 (s.event e).jobid 0)) 0)) ∧
        (∀ u rec, s.tarragonRead t (s.event e).desc 128 = (u, .ok rec) → recValid rec = true →
          exec (.evctlRelaunch t n) s = .next (answer ((u.modEvent e fun x =>
            { x with attempt := 0, record := rec, rerun := false, avoid := [] }).makeReady e) 0))) ∧
      (s.failedJob t n = none → ∀ e ∈ [Instr.evctlRetire t n, .evctlDiscard t n, .evctlRelaunch t n],
        exec e s = .next (answer s 1)) ∧
      (s.localFlag t n = true → exec (.evctlSignal t n) s = .next (answer (s.decFlag (nameIndex n) 1) 0)) ∧
      (s.localFlag t n = false → exec (.evctlSignal t n) s = .next (answer s 1)) ∧
      (let lost (o : OutSub) : Bool := o.tenant == t && o.name == n && o.lost
       let clear (o : OutSub) : OutSub := if o.tenant == t && o.name == n then { o with lost := false } else o
       (s.outSubs.any lost = true → exec (.evctlResub t n) s = .next (answer (State.sendEvsub
          { s with outSubs := s.outSubs.map clear } t n) 0)) ∧
       (s.outSubs.any lost = false → exec (.evctlResub t n) s = .next (answer s 1)))) ∧
    -- Sorrel
    (∀ v, up → (∀ j < 8, (s.tenant j).st = .disabled) → gives (.sorOwnerWrite v) fun u => u.sorOwner = v ∧
      ∀ b < 8, slice v (4 * b + 3) (4 * b) ≠ slice s.sorOwner (4 * b + 3) (4 * b) →
        ∀ n, n / 512 = b → u.slot n = Slot.init) ∧
    (∀ v, up → (∃ b < 8, slice v (4 * b + 3) (4 * b) ≠ slice s.sorOwner (4 * b + 3) (4 * b) ∧
        slice s.sorOwner (4 * b + 3) (4 * b) = t ∧ t < 8 ∧ k.st ≠ .disabled) → exec (.sorOwnerWrite v) s = .next s) ∧
    (∀ n : BitVec 12, vf → exec (.sorWcmt t n) s = .next (
      if s.slotOwner n.toNat = some t then
        ({ s with shadow := Map.put n.toNat k.sor.img s.shadow } : State).modSor t fun x =>
          { x with wsResult := 0, wsIter := x.iter + if x.under then 2 else 1 }
      else s.modSor t fun x => { x with wsResult := 1 })) ∧
    (t < 8 → k.sor.under = true →
      let ps := s.reportPieces t
      let missing := (State.farLines ps).any fun l => (Map.find k.far l).isNone
      let c := s.sendClears t ps
      let v := c.boundaryRun t ps
      let waits : Prop := c.clearsOut t = true ∨ (State.hostSpent c v t ≠ 0 ∧ c.affordsHost t (State.hostSpent c v t) = false)
      (k.sor.wrote = false → missing = true → exec (.sorrelBoundary t) s = .next (s.askFar t ps)) ∧
      (k.sor.wrote = false → missing = false → waits → exec (.sorrelBoundary t) s = .next c) ∧
      (State.farLines ps = [] → c = s) ∧
      (k.sor.wrote = false → missing = false → ¬ waits →
        (v.farOut t 0 = true → exec (.sorrelBoundary t) s = .next v) ∧
        (v.farOut t 0 = false → gives (.sorrelBoundary t) fun u =>
          (u.tenant t).sor.iter = k.sor.iter + 1 ∧ (u.tenant t).sor.under = false ∧ (u.tenant t).sor.snap = [] ∧
          (u.tenant t).sor.live = (u.tenant t).sor.sel.length)) ∧
      (k.sor.wrote = true → s.farOut t 0 = false → gives (.sorrelBoundary t) fun u =>
        (u.tenant t).sor.iter = k.sor.iter + 1 ∧ (u.tenant t).sor.under = false ∧
        (u.tenant t).sor.manflt = (k.farFail.contains 0 || k.sor.manflt))) ∧
    -- drain, save, restore
    (up → t < 8 → k.st = .active → k.sched.dstate = 0 → gives (.drain t) fun u =>
      (u.tenant t).sched.dstate = 1 ∧ (u.tenant t).sched.killed = 0 ∧
      (∀ e ∈ s.events, shareOf e.1 = t → e.2.st = .mailed → s.event e.1 = e.2 → (u.event e.1).st = .ready) ∧
      ∀ c < 64, s.holdsCluster t (State.clusterOf c) = true → (u.core c).watchdog = true) ∧
    (up → t < 8 → k.sched.dstate = 3 ∨ k.sched.dstate = 5 → gives (.drainResume t) fun u =>
      (u.tenant t).sched = { k.sched with dstate := 0 } ∧ u.events = s.events) ∧
    (up → t < 8 → k.sched.dstate = 3 ∨ (k.sched.dstate = 0 ∧ s.restorable t = true) → exec (.drainRestore t) s =
      .next (s.modSched t fun x => { x with dstate := 4 })) ∧
    (∀ c, let v := s.modCore c fun x => { x with watchdog := false }
      ((s.core c).watchdog = false → exec (.drainWatchdog c) s = .next s) ∧
      ((s.core c).watchdog = true → s.blocksOn c = [] → exec (.drainWatchdog c) s = .next v) ∧
      (∀ key b, (s.core c).watchdog = true → s.blocksOn c = [(key, b)] → s.block? key = some b → b.dead = false → b.ended = false →
        ((s.tenant b.tenant).sched.dstate ≠ 1 → exec (.drainWatchdog c) s = .next v) ∧
        (∀ g rest, (s.tenant b.tenant).sched.dstate = 1 →
          (b.groups.filter fun g => (s.group g).park != .draining) ++ b.groups = g :: rest →
          let pc := ((s.group g).flow.parts.head?.map fun p => (p.clause.map (·.addr)).getD p.pc).getD 0
          let w := v.modSched b.tenant fun x => { x with killed := min (x.killed + 1) 255 }
          exec (.drainWatchdog c) s = .next
            ((w.recordNow g (w.plainTrap g 0x34 (s.group g).flow.living pc 0 0)).killCohort b.job false)))) ∧
    (∀ g x, (s.group g).tenant < 8 →
      let j := (s.group g).tenant
      (∀ p, (s.tenant j).fq.owed = [] → s.recordReady j = some p → s.recordNow g x = s.storeRecord j p (s.recordOf g x false false)) ∧
      ((s.tenant j).fq.owed ≠ [] ∨ s.recordReady j = none → s.recordNow g x = s.owe j (s.recordOf g x false false))) ∧
    (k.sched.dstate = 1 → s.drainQuiet t = true → gives (.drainSave t) fun u =>
      (u.tenant t).sched = { k.sched with dstate := 2 } ∧ ∀ c < 64, s.holdsCluster t (State.clusterOf c) = true → (u.core c).watchdog = false) ∧
    (k.sched.dstate = 2 →
      let a := s.saveBase t
      let ps := s.saveImage t
      let units := s.writeUnits t (ps.map fun p => (a + p.1, p.2.length))
      let r := ps.foldl (fun (r : State × Bool) p => if r.2 then r.1.tarragonWrite t 1 (a + p.1) p.2 else r) (s, true)
      (k.sched.wrote = false → units ≠ 0 → s.affordsHost t units = false → exec (.drainSave t) s = .next s) ∧
      (k.sched.wrote = false → units = 0 ∨ s.affordsHost t units = true → exec (.drainSave t) s =
        .next ((r.1.modSched t fun x => { x with wrote := true, saveerr := !r.2 }).closeSave t)) ∧
      (k.sched.wrote = true → exec (.drainSave t) s = .next (s.closeSave t))) ∧
    (s.farOut t 1 = true → s.closeSave t = s) ∧
    (s.farOut t 1 = false → ((s.closeSave t).tenant t).sched = { k.sched with
      dstate := if (k.farFail.contains 1 || k.sched.saveerr) = true then 5 else 3,
      saveerr := k.farFail.contains 1 || k.sched.saveerr, wrote := false }) ∧
    (k.sched.dstate = 4 →
      let u := (s.readSave t).1
      exec (.restoreDone t) s = .next (
        match (s.readSave t).2 with
        | .error none => u
        | .ok [regs, outs, ins, slots, entries] => (u.rebuildTenant t regs outs ins slots entries).modSched t fun x =>
            { x with dstate := 0, saveerr := false }
        | _ => u.modSched t fun x => { x with dstate := 5, saveerr := true })) ∧
    -- stripes
    (∀ i v, vf → i < 8 →
      let x := s.stripe t i
      let n := x.withCfg (v ||| BitVec.ofNat 64 (2 ^ 63))
      (x.valid = false → s.stripeCode t i n ≠ 0 → gives (.stripeEnable t i v) fun u =>
        u.stripe t i = { n with err := s.stripeCode t i n }) ∧
      (x.valid = false → s.stripeCode t i n = 0 → n.rebuild = false → gives (.stripeEnable t i v) fun u =>
        u.stripe t i = { n with valid := true, err := 0, rstate := 1 }) ∧
      (x.valid = true → gives (.stripeDisable t i) fun u => u.stripe t i = { x with valid := false, rstate := 0, err := 0 }) ∧
      (x.valid = true → x.rebuild = false → x.lostv = false → gives (.stripeMarkLost t i v) fun u =>
        u.stripe t i = { x with lostv := v.getLsbD 61, lostidx := BitVec.ofNat 4 (slice v 60 57), err := 0 }) ∧
      (x.valid = true → x.rebuild = true → x.rstate = 4 → gives (.stripeRebuildEnd t i) fun u =>
        u.stripe t i = { x with rebuild := false, err := 0 }) ∧
      (x.valid = true → x.rebuild = true → x.rstate ≠ 4 → gives (.stripeRebuildEnd t i) fun u =>
        u.stripe t i = { x with err := 6 })) ∧
    (∀ i, t < 8 → i < 8 → (s.stripe t i).valid = true → (s.stripe t i).rstate = 1 → gives (.stripeZeroDone t i) fun u =>
      u.stripe t i = { s.stripe t i with rstate := 2 } ∧
      ∀ p, State.stripeBase (s.stripe t i) ≤ p → p < State.stripeBase (s.stripe t i) + 65536 * (s.stripe t i).len.toNat →
        u.byteAt p = 0) ∧
    (∀ i, t < 8 → i < 8 → (s.stripe t i).valid = true → (s.stripe t i).rstate = 3 → (s.stripe t i).due = 0 →
      exec (.rebuildRow t i) s = .next (s.rebuiltRow t i)) ∧
    -- fault records
    (∀ r rest, t < 8 → k.fq.owed = r :: rest → State.recordRoom k.fq = true →
      let popped (u : State) : State := u.modFq t fun x => { x with owed := rest }
      (∀ p, s.recordPlace t = .ok p → s.affordsHost t (s.recordUnits t) = true →
        let stored := ((s.chargeUnits t (s.recordUnits t)).setBytes p (recordBytes r k.fq.tail)).modFq t fun x =>
          { x with tail := x.tail + 1, blocked := false, outside := false }
        let made := popped (stored.signal (t + 1) 0)
        (r.parks = false → recoverable r.cause = false → exec (.faultRecordWrite t) s =
          .next (if r.ends = true then made.endCohort r.gid r.cause else made)) ∧
        (r.parks = true → recoverable r.cause = true → r.ends = false → exec (.faultRecordWrite t) s =
          .next ((made.awaitRecord t r k.fq.tail).setServiceFlag t))) ∧
      (∀ p, s.recordPlace t = .ok p → s.affordsHost t (s.recordUnits t) = false → exec (.faultRecordWrite t) s = .next s) ∧
      (s.recordPlace t = .error 6 → exec (.faultRecordWrite t) s = .next (popped (s.modFq t fun x => { x with outside := true }))) ∧
      (∀ e, e ≠ 6 → s.recordPlace t = .error e →
        exec (.faultRecordWrite t) s = .next (s.modFq t fun x => { x with blocked := true }))) ∧
    (t < 8 → k.fq.owed = [] ∨ State.recordRoom k.fq = false → exec (.faultRecordWrite t) s = .next s)

/-- R155, R160, R162 to R164, R171, R191, R248 to R250, R257, R258, R264, R267, R268, R271 to R276, R293, R315, R401: what the
events of the cores and their groups do where they apply. -/
def Obligations.CoreEvents : Prop :=
  ∀ (s : State) (g c t : Nat),
    let x := s.group g
    let k := s.tenant t
    let gives (e : Instr) (q : State → Prop) : Prop := ∃ u, exec e s = .next u ∧ q u
    let vf : Prop := s.pwr.on = true ∧ s.pkg.phase = .ready ∧ t < 8 ∧ s.fnEnabled (t + 1) = true ∧ k.st ≠ .resetting
    -- issue: clause starts, promotion, yields, sleeps, replays
    (s.groupReady g = true → State.replayNext x = false → ∀ p, State.issuePart x = some p →
      exec (.clauseStart g) s = .next (if State.betweenClauses p then s.startClause g p else s)) ∧
    (s.hasGroup g = true → s.groupReady g = true → gives (.groupPromotion g) fun u =>
      (u.group g).iss.promo = 16 ∧ (u.group g).iss.promoted.isSome = true ∧ (u.group g).regs = x.regs ∧ (u.group g).flow = x.flow ∧
      ∀ h, h ≠ g → u.group h = s.group h) ∧
    (∀ others left, s.hasGroup g = true → x.park = .yield others left → exec (.yieldExpiry g) s =
      .next (s.setGroup g { x with park := .none })) ∧
    (s.hasGroup g = true → x.park = .sleep → exec (.sleepTimeout g) s = .next (s.setGroup g { x with park := .none })) ∧
    (∀ r, s.cur = none → x.iss.stopped = none → State.replayNext x = true → State.replayDue x = some r →
      (r.kill = true → exec (.groupReplay g) s =
        .next ((s.dropCapture g r.id).trapNow g 0x2E r.part r.clause r.idx)) ∧
      (r.kill = false → r.fetch = true → exec (.groupReplay g) s = .next (s.dropCapture g r.id)) ∧
      (r.kill = false → r.fetch = false → gives (.groupReplay g) fun u =>
        { u with cur := none } = s ∧ ∃ i, u.cur = some i ∧ i.gid = g ∧ i.quads = r.quads ∧ i.active = r.left ∧
          i.clause = r.clause ∧ i.idx = r.idx ∧ i.replay = some r)) ∧
    -- drains, the access engine, bank roles, regrouping
    (s.hasGroup g = true → x.park = .draining → x.ops.captures = [] → s.drained g = true → ∀ b, x.role = .job →
      s.block? x.block = some b → b.groups.erase g ≠ [] → gives (.groupDrainEnd g) fun u =>
        u.hasGroup g = false ∧ (u.block? x.block).map (·.groups) = some (b.groups.erase g)) ∧
    (s.hasGroup g = true → x.park = .draining → x.ops.captures = [] → s.drained g = true →
      let u : State := { s with groups := Map.del g s.groups }
      let v := u.modBlock x.block fun b => { b with groups := b.groups.erase g }
      (x.role ≠ .job → exec (.groupDrainEnd g) s = .next (u.startWorker (State.coreOf g))) ∧
      (∀ b, x.role = .job → v.block? x.block = some b → exec (.groupDrainEnd g) s =
        .next (if b.groups = [] then v.endBlock x.block else v.sagePass (State.coreOf g)))) ∧
    (x.park ≠ .draining → exec (.groupDrainEnd g) s = .next s) ∧
    (∀ (q : BitVec 2) p, s.hasGroup g = true → x.slice.unread = none → State.patternOf x q.toNat = some p →
      let waiting := Map.get [] x.slice.queues q.toNat
      (State.elemTotal p ≤ p.pos ∨ 32 ≤ waiting.length → exec (.accessEngineRead g q) s = .next s) ∧
      (let units := s.elemUnits g p p.pos (State.sliceLanes x.flow)
       s.elemMissing g p p.pos (State.sliceLanes x.flow) ≠ [] ∨ (units ≠ 0 ∧ s.affordsHost x.tenant units = false) →
        exec (.accessEngineRead g q) s = .next s) ∧
      (let units := s.elemUnits g p p.pos (State.sliceLanes x.flow)
       p.pos < State.elemTotal p → waiting.length < 32 → s.elemMissing g p p.pos (State.sliceLanes x.flow) = [] →
        units = 0 ∨ s.affordsHost x.tenant units = true →
        gives (.accessEngineRead g q) fun u =>
          State.patternOf (u.group g) q.toNat = some { p with pos := p.pos + 1 } ∧
          ∃ e : QEntry, e.elem = p.pos ∧ Map.get [] (u.group g).slice.queues q.toNat = waiting ++ [e])) ∧
    (s.rolesDue c = false → exec (.bankroleApply c) s = .next s) ∧
    (s.rolesDue c = true → gives (.bankroleApply c) fun u =>
      (u.core c).bankrole = (((s.core c).bankroleNew.map (·.1)).getD (s.core c).bankrole) ∧
      (u.core c).bankroleNew = none ∧ (u.core c).comm = ((s.core c).comm != (s.core c).roleChange) ∧
      ∀ b < 32, s.idleRole c b ≠ u.idleRole c b → ∀ o < 65536, u.byteAt (spadPlace c (65536 * b + o)) = 0) ∧
    (s.block? t = none → exec (.regroupRepack t) s = .next s) ∧
    (∀ b, s.block? t = some b → s.repackClause b = none → exec (.regroupRepack t) s = .next s) ∧
    (∀ b clause, s.block? t = some b → s.repackClause b = some clause →
      let gs := (s.livingGroups b).filter fun h => (s.group h).flow.parts.any fun p => p.hold == .regroup clause
      let u := gs.foldl (fun v h => ((((v.drainGroup h).flushPend h).dropDone h).reportErrs h fun _ => true).reportCopies h
        fun _ => true) s
      let xs := gs.map u.group
      let held : Prop := gs.all u.quiet = false ∨ (u.block? t).all (·.dead) = true ∨ gs.any (fun h => (u.group h).park == .wait .record) = true
      (held → exec (.regroupRepack t) s = .next u) ∧
      (¬ held → State.repackIllegal xs = true → exec (.regroupRepack t) s =
        .next (u.trapNow (gs.headD 0) 0x29 (u.group (gs.headD 0)).flow.living clause 0)) ∧
      (¬ held → State.repackIllegal xs = false → exec (.regroupRepack t) s =
        .next (gs.foldl (fun v h =>
            let w := v.noteExit h
            if (w.group h).park = .draining ∧ w.drained h = true then w.endDrain h else w)
          ((List.range gs.length).foldl (fun v i => v.setGroup (gs.getD i 0) (newGroupOf xs clause i)) u)))) ∧
    (∀ (xs : List Group) (clause i n l : Nat), i < xs.length → l < 64 → (∀ y ∈ xs, Map.wf 0 y.regs.v = true) →
      let from_ := xs.getD ((quadSources xs clause (l / 4)).getD i i) Group.init
      (newGroupOf xs clause i).regs.getV n l = from_.regs.getV n l) ∧
    -- translation
    (∀ v, vf → exec (.tlbinv t v) s = .next (
      if v.getLsbD 63 = true ∧ k.tlbBusy = false then
        s.modTenant t fun y => { y with tlbBusy := true, tlbinv := v &&& 0x61FFFFFFFFFF0000 }
      else s)) ∧
    (t < 8 → k.tlbBusy = true → s.accessesOut t = true → exec (.tlbinvDone t) s = .next s) ∧
    (t < 8 → k.tlbBusy = true → s.accessesOut t = false → gives (.tlbinvDone t) fun u =>
      (u.tenant t).tlbBusy = false ∧ ∀ i, ∀ e ∈ (u.core i).tlb, State.inRange t k.tlbinv e = false) ∧
    (∀ va : DWord, s.ownerOf c = some t → va.toNat < vaultBase → s.tlbFind c t va.toNat = none →
      let n := s.walkUnits t va.toNat
      (n ≠ 0 → s.affordsHost t n = false → exec (.pageWalk c t va) s = .next s) ∧
      (∀ e, n = 0 ∨ s.affordsHost t n = true → s.walk t va.toNat = .error e → exec (.pageWalk c t va) s = .next (s.chargeUnits t n)) ∧
      (∀ e level, n = 0 ∨ s.affordsHost t n = true → s.walk t va.toNat = .ok (e, level) → gives (.pageWalk c t va) fun u =>
        (u.tlbFind c t va.toNat).map (fun y => (y.pte, y.level)) = some (e, level) ∧ u.mem = s.mem)) ∧
    -- faults, errors, twins
    (∀ v : DWord, vf →
      let seq : Word := v.setWidth 32
      let answer (u : State) (r : BitVec 4) : State := u.modTenant t fun y => { y with fltrstat := r }
      (v.getLsbD 63 = false → exec (.fltres t v) s = .next s) ∧
      (v.getLsbD 63 = true → slice v 61 32 ≠ 0 → exec (.fltres t v) s = .next (answer s 3)) ∧
      (v.getLsbD 63 = true → slice v 61 32 = 0 → (k.fq.waiting.find? fun w => w.seq == seq) = none →
        exec (.fltres t v) s = .next (answer s 1)) ∧
      (∀ w, v.getLsbD 63 = true → slice v 61 32 = 0 → (k.fq.waiting.find? fun w => w.seq == seq) = some w →
        gives (.fltres t v) fun u => (∀ y ∈ (u.tenant t).fq.waiting, y.seq ≠ seq) ∧
          (u.tenant t).fltrstat = if u.stillParked w.gid then 2 else 0)) ∧
    (∀ st p, exec (.memoryError st p true) s = .next s) ∧
    (∀ st p, State.storesPlace st p = false → exec (.memoryError st p false) s = .next s) ∧
    (∀ st p, State.storesPlace st p = true → st ≠ .tarragon → exec (.memoryError st p false) s =
      .next (if s.errorHolder st p = none then (s.spoilUnit st p).signal 0 5 else s.spoilUnit st p)) ∧
    (∀ st p, st = .hbm ∧ placeHome p = .hbm ∨ st = .vault ∧ placeHome p = .vault ∨ st = .pewter ∧ placeHome p = .pewter ∨
        st = .homeCache ∧ (placeHome p = .hbm ∨ placeHome p = .pewter) ∨
        st = .operand ∧ 2 ^ 61 + 2 ^ 30 ≤ p ∧ p < 2 ^ 61 + 2 ^ 31 ∨ st = .accumulator ∧ 2 ^ 61 + 2 ^ 31 ≤ p ∧ p < 2 ^ 62 →
      gives (.memoryError st p false) fun u => u.poisoned p = true ∧ u.mem = s.mem) ∧
    (∀ p, placeHome p = .spad → p < 2 ^ 61 + 2 ^ 30 → gives (.memoryError (.l1 c) p false) fun u =>
      u.poisoned p = true ∧ u.mem = s.mem) ∧
    (∀ p l, placeHome p ≠ .spad → Map.find (s.core c).l1 (p / 64) = some l → gives (.memoryError (.l1 c) p false) fun u =>
      Map.find (u.core c).l1 (p / 64) = some { l with bad := true } ∧ u.mem = s.mem ∧ u.poison = s.poison) ∧
    (∀ p, 2 ^ 80 ≤ p → (p - 2 ^ 80) / 2 ^ 14 = g → s.hasGroup g = true → gives (.memoryError .regfile p false) fun u =>
      (p - 2 ^ 80) % 2 ^ 14 ∈ (u.group g).regs.bad ∧ (u.group g).regs.v = x.regs.v) ∧
    (∀ b h, s.hasGroup g = true → s.blockOf g = some b → s.twinOf g = some h →
      let y := s.group h
      (State.atPoint x = false ∨ State.atPoint y = false → exec (.twinCompare g) s = .next s) ∧
      (State.atPoint x = true → State.atPoint y = true → x.park = .wait .pass → y.park = .wait .pass →
        x.iss.compares = y.iss.compares → x.iss.sig = y.iss.sig → exec (.twinCompare g) s = .next (s.passAll [g, h])) ∧
      (State.atPoint x = true → State.atPoint y = true → x.park = .wait .pass → y.park = .wait .pass →
        x.iss.sig ≠ y.iss.sig →
        ((s.event b.job).rerun = false → (s.event b.job).released = false ∨ (s.event b.job).idem = true →
          gives (.twinCompare g) fun u => (u.event b.job).st = .ready ∧ (u.event b.job).rerun = true) ∧
        ((s.event b.job).rerun = true → exec (.twinCompare g) s =
          .next (s.trapNow g 0x33 x.flow.living ((x.flow.parts.head?.map (·.pc)).getD 0) 0)))) ∧
    -- debug commands
    (vf →
      let answer (u : State) (r : BitVec 4) : State := u.modDbg t fun d => { d with result := r }
      let buf := State.bufAddr k.dbg
      exec (.dbgInvalid t) s = .next (answer s 2) ∧
      (s.selected t false = none → ∀ e ∈ [Instr.dbgStop t, .dbgStep t, .dbgResume t, .dbgReadimg t, .dbgWriteimg t],
        exec e s = .next (answer s 1)) ∧
      (s.selected t false = some g →
        (x.iss.stopped = none → ∀ e ∈ [Instr.dbgStep t, .dbgResume t, .dbgReadimg t, .dbgWriteimg t],
          exec e s = .next (answer s 3)) ∧
        exec (.dbgStop t) s = .next (answer (s.modIss g fun i => { i with stopAsked := i.stopped.isNone }) 0) ∧
        (x.iss.stopped.isSome = true →
          (let v := match State.stopPart x with
            | some p => if State.betweenClauses p = true then s.passBreak g p else s
            | none => s
           exec (.dbgStep t) s = .next (answer (v.modIss g fun i => { i with stopped := none, stepping := 1 }) 0)) ∧
          exec (.dbgResume t) s = .next (answer (s.modIss g fun i => { i with stopped := none }) 0) ∧
          (s.groupImage g).length = 0x9000 ∧
          (let wait (u : State) (op : Nat) : State := u.modDbg t fun d => { d with busy := true, pending := some (op, false) }
           let units := s.writeUnits t [(buf, 0x9000)]
           let w := s.tarragonWrite t 2 buf (s.groupImage g)
           let told := answer w.1 (if w.2 = true then 0 else 2)
           (units ≠ 0 → s.affordsHost t units = false → exec (.dbgReadimg t) s = .next (wait s 4)) ∧
           (units = 0 ∨ s.affordsHost t units = true →
             exec (.dbgReadimg t) s = .next (if w.1.farOut t 2 = true then wait told 0 else told)) ∧
           (let r := s.tarragonRead t buf 0x9000
            exec (.dbgWriteimg t) s = .next (match r.2 with
              | .ok bs => answer (r.1.onGroup g fun y => State.writeImage y bs) 0
              | .error none => wait r.1 5
              | .error (some _) => answer r.1 2))))))

/-- R277 to R279, R319: the words of the worked program of R319 decode to its instructions, and the worked encodings of R278 to
R287, R321, R338, R344, R346, R368, R378 and R405 decode to the instructions that they are given for. -/
def Obligations.DecodeWords : Prop :=
  let x : Ctl := { sw := false, hold := false, ext := true, pred := 15, neg := false }
  let plain : Ctl := { x with ext := false }
  let alu (ctl : Ctl) (fsi : BitVec 3) (ty : Ty) (sub : BitVec 5) (d a b c : Opnd) : Alu :=
    { ctl, fsi, ty, sub, aux := 0, d, a, b, c }
  let clause (w : Nat) (h : Word) (body : List Word) : Option (List Instr) :=
    match Header.decode h with
    | .ok hd => (decodeClause w hd body).toOption
    | .error _ => none
  let none_ : Opnd := .v 0
  let zero : Opnd := .const 0
  -- the program of R319
  clause 16 0x22001800 [0x1701D000, 0x58020000, 0xF0E00001] =
    some [.mov (alu plain 0 .dflt 0 (.v 1) (.special .laneid) none_ zero), .movi { ctl := x, d := .v 2, imm := 1 }] ∧
  clause 16 0x10001000 [0x4600E400, 0xF0E00003] = some [.loop { ctl := x, lc := 0, count := .const 4, off := 3 }] ∧
  clause 16 0x12001000 [0x440202E3, 0xF0010000] = some [.imad (alu x 0 .dflt 0 (.v 2) (.v 2) (.const 3) (.v 1))] ∧
  clause 16 0x10000800 [0x0E000000] = some [.jobend { ctl := plain }] ∧
  -- worked encodings of single instructions
  decodeInstr 1 0x430A0382 0xF0E03800 = some (.imulh (alu x 0 .n32 0 (.v 10) (.v 3) (.g 2) zero)) ∧
  decodeInstr 2 0x4B090400 0xF2E08B80 = some (.fcvt (alu x 2 .fs 14 (.v 9) (.v 4) none_ zero)) ∧
  decodeInstr 3 0x45060500 0x10E07000 = some (.redux (alu { x with pred := 1 } 0 .f32 0 (.v 6) (.v 5) none_ zero)) ∧
  decodeInstr 4 0x020C8300 0 = some (.lds
    { ctl := plain, scope := .none, ord := .rlx, ty := .dflt, sub := 0, d := .v 12,
      a := .g 3, b := none_, c := zero }) ∧
  decodeInstr 4 0x40140200 0xF0E0AB00 = some (.ld
    { ctl := x, scope := .dev, ord := .acq, ty := .b64, sub := 0, d := .v 20,
      a := .v 2, b := none_, c := zero }) ∧
  decodeInstr 4 0x46080206 0xF0E0A0E0 = some (.atom
    { ctl := x, scope := .dev, ord := .rlx, cm := false, ty := .n32, op := .add,
      d := .v 8, a := .v 2, b := .v 6, c := zero }) ∧
  decodeInstr 6 0x42020001 0x21854010 = some (.mma
    { ctl := { x with pred := 2 }, fsa := 1, fsb := 2, sub := 0, ku := 16,
      acc := 2, ta := 0, tb := 1, mask := .g 5 }) ∧
  decodeInstr 0 0x5789E200 0xF0E0C004 = some (.acq { ctl := x, cls := .acc, first := 4, d := .g 9, a := .const 2 }) ∧
  decodeInstr 0 0x520A0000 0xF0E00001 = some (.gets { ctl := x, d := .v 10, a := none_, imm := 1 }) ∧
  decodeInstr 0 0x53008600 0xF0E00020 = some (.setsSorbnd { ctl := x, d := none_, a := .g 6, imm := 0x20 })

/-- R277, R280 to R289: decoding the words of a well-formed instruction gives the instruction back, with every operand and every
field; what the decoder accepts is well formed and is encoded by exactly the words that it was read from; and a clause header
decodes from the word of its fields. -/
def Obligations.DecodeEncode : Prop :=
  (∀ (i : Instr) (ecl : Nat) (f : Fields), i.encFields = some (ecl, f) → i.wf = true →
    (f.ctl.ext = true ∨ f.extWord = defaultExt) → decodeInstr ecl f.word f.extWord = some i) ∧
  (∀ (i : Instr) (ecl : Nat) (w e : Word), decodeInstr ecl w e = some i →
    i.wf = true ∧ ∃ f, i.encFields = some (ecl, f) ∧ f.words = if w.getLsbD 30 then [w, e] else [w]) ∧
  (∀ h : Header, 1 ≤ h.cnt → h.cnt < 16 → h.ecl < 7 → h.nw < 32 → Header.decode h.encode = .ok h)

/-- R6, R7: memory is one canonical list of addresses and bytes; every step of the machine that answers a next state keeps it so,
from every state, whatever the step does. -/
def Obligations.MemoryInvariant : Prop :=
  ∀ s t : State, step s = .next t → s.MemOk → t.MemOk
end

