-- ==== Sys2Proof/Laws/Integer.lean ====
section
/-! SUPPORT. The model's integer arithmetic on natural numbers, said in terms of bit vectors. -/

namespace Sys2Proof.Machine

theorem signedOf_eq {n : Nat} (v : Nat) (hn : 0 < n) : signedOf n v = (BitVec.ofNat n v).toInt := by
  simp only [signedOf, BitVec.toInt, BitVec.toNat_ofNat]
  have he : 2 ^ n = 2 * 2 ^ (n - 1) := by rw [← Nat.pow_succ']; congr 1; omega
  by_cases h : v % 2 ^ n < 2 ^ n / 2
  · rw [if_pos h, if_pos (by omega)]
  · rw [if_neg h, if_neg (by omega)]

theorem wrapInt_eq (n : Nat) (r : Int) : wrapInt n r = (BitVec.ofInt n r).toNat := by
  simp [wrapInt, BitVec.toNat_ofInt]

theorem bits_pos (t : Ty) : 0 < t.bits := by cases t <;> decide

theorem readInt_eq (t : Ty) (v : Nat) : readInt t v = intVal t v := by
  unfold readInt intVal
  split
  · exact signedOf_eq _ (bits_pos t)
  · simp

theorem writeInt_eq (t : Ty) (r : Int) : writeInt t r = reduced t r := by
  simp only [writeInt, reduced, extended]
  by_cases h : t.bits < 32
  · by_cases hs : t.isSigned = true
    · simp only [h, hs, if_true, and_self, wrapInt_eq, signedOf_eq _ (bits_pos t), BitVec.ofNat_toNat]
      simp [BitVec.signExtend]
    · simp [h, hs, wrapInt_eq]
  · simp [h, wrapInt_eq]

theorem tyMin_eq (t : Ty) : tyMin t = leastOf t := by
  unfold tyMin leastOf; split <;> simp

theorem tyMax_eq (t : Ty) : tyMax t = greatestOf t := by
  unfold tyMax greatestOf; split <;> simp

theorem least_le_greatest (t : Ty) : leastOf t ≤ greatestOf t := by
  cases t <;> decide

theorem clampInt_eq {r a b : Int} (h : a ≤ b) : clampInt r a b = max a (min r b) := by
  unfold clampInt; split
  · omega
  · split <;> omega

theorem satInt_eq (t : Ty) (sat : Bool) (r : Int) :
    satInt t sat r = reduced t (if sat then saturated t r else r) := by
  unfold satInt
  rw [writeInt_eq, tyMin_eq, tyMax_eq, clampInt_eq (least_le_greatest t)]
  rfl

end Sys2Proof.Machine
end

