-- ==== Sys2Proof/Laws/Lanes.lean ====
section
/-! SUPPORT. Lane masks: which lanes a mask holds. -/

namespace Sys2Proof.Machine

theorem laneBit_getLsbD (k l : Nat) : (laneBit k).getLsbD l = (decide (l < 64) && decide (l = k)) := by
  simp only [laneBit, BitVec.getLsbD_ofNat, Nat.testBit_two_pow]
  by_cases h : l = k <;> simp [h]; omega

theorem foldl_mask (ls : List Nat) (m : Lanes) (l : Nat) :
    (ls.foldl (fun m l => m ||| laneBit l) m).getLsbD l = (m.getLsbD l || (decide (l < 64) && ls.contains l)) := by
  induction ls generalizing m with
  | nil => simp
  | cons k ls ih =>
    simp only [List.foldl_cons, ih, BitVec.getLsbD_or, laneBit_getLsbD, List.contains_cons]
    rcases Nat.decEq l k with h | h <;> cases m.getLsbD l <;> cases decide (l < 64) <;> simp [h]

/-- The lanes of a mask made from a list. -/
theorem maskOf_getLsbD (ls : List Nat) (l : Nat) : (maskOf ls).getLsbD l = (decide (l < 64) && ls.contains l) := by
  simp [maskOf, foldl_mask]

@[simp] theorem maskOf_nil : maskOf [] = 0 := rfl

/-- The list of a mask's lanes. -/
theorem mem_laneList {m : Lanes} {l : Nat} : l ∈ laneList m ↔ l < 64 ∧ m.getLsbD l = true := by
  simp [laneList, lanesOf]

@[simp] theorem laneList_zero : laneList 0 = [] := by decide

/-- A mask is the mask of its lanes. -/
theorem maskOf_laneList (m : Lanes) : maskOf (laneList m) = m := by
  apply BitVec.eq_of_getLsbD_eq
  intro i hi
  simp only [maskOf_getLsbD, hi, decide_true, Bool.true_and]
  by_cases h : m.getLsbD i = true
  · simp [h, mem_laneList, hi]
  · simp [h, mem_laneList]

/-- The lanes in which a predicate holds. -/
theorem predLanes_getLsbD (r : Regs) (c : Ctl) (m : Lanes) (l : Nat) :
    (predLanes r c m).getLsbD l = (decide (l < 64) && m.getLsbD l && (r.getP c.pred.toNat l != c.neg)) := by
  simp only [predLanes, maskOf_getLsbD]
  by_cases h : l < 64
  · simp only [h, decide_true, Bool.true_and]
    rw [Bool.eq_iff_iff]
    simp [mem_laneList, h]
  · simp [h]

end Sys2Proof.Machine
end

