-- ==== Sys2Proof/Laws/Map.lean ====
section
/-! SUPPORT. The laws of sparse data by key: what a write leaves at every key, and that writes keep the canonical form. -/

namespace Sys2Proof.Machine

namespace Map

variable {α : Type}

@[simp] theorem find_nil (x : Nat) : Map.find ([] : Map α) x = none := rfl

@[simp] theorem get_nil (d : α) (x : Nat) : Map.get d ([] : Map α) x = d := rfl

theorem find_cons (k : Nat) (v : α) (m : Map α) (x : Nat) :
    Map.find ((k, v) :: m) x = if x = k then some v else Map.find m x := rfl

/-- What is listed at every key after a value is listed at one. -/
theorem find_put (m : Map α) (x y : Nat) (v : α) : Map.find (Map.put x v m) y = if y = x then some v else Map.find m y := by
  induction m with
  | nil => rfl
  | cons e m ih =>
    obtain ⟨k, w⟩ := e
    simp only [Map.put]
    split
    · next h => subst h; simp only [find_cons]; split <;> simp_all
    · split
      · rfl
      · next h1 h2 =>
        simp only [find_cons, ih]
        by_cases hy : y = x
        · have h4 : ¬ x = k := h1
          simp [hy, h4]
        · simp [hy]

theorem get_put (d : α) (m : Map α) (x y : Nat) (v : α) :
    Map.get d (Map.put x v m) y = if y = x then v else Map.get d m y := by
  simp only [Map.get, find_put]; split <;> rfl

@[simp] theorem get_put_same (d : α) (m : Map α) (x : Nat) (v : α) : Map.get d (Map.put x v m) x = v := by
  simp [get_put]

/-- Keys kept are found as before, others are not found. -/
theorem find_keep (p : Nat → Bool) (m : Map α) (x : Nat) :
    Map.find (Map.keep p m) x = if p x then Map.find m x else none := by
  induction m with
  | nil => simp [Map.keep]
  | cons e m ih =>
    obtain ⟨k, w⟩ := e
    simp only [Map.keep, List.filter_cons] at ih ⊢
    by_cases h1 : x = k
    · subst h1
      by_cases hk : p x <;> simp [hk, find_cons, ih]
    · by_cases hk : p k <;> simp [hk, find_cons, ih, h1]

/-- What is listed at every key after one is taken out. -/
theorem find_del (m : Map α) (x y : Nat) : Map.find (Map.del x m) y = if y = x then none else Map.find m y := by
  have := find_keep (fun k => k != x) m y
  simp only [Map.keep] at this
  rw [Map.del, this]
  by_cases h : y = x <;> simp [h]

theorem sortedFrom_mono {m : Map α} {a b : Nat} (h : Map.sortedFrom b m = true) (hab : a ≤ b) :
    Map.sortedFrom a m = true := by
  cases m with
  | nil => rfl
  | cons e m =>
    obtain ⟨k, v⟩ := e
    simp only [Map.sortedFrom, Bool.and_eq_true, decide_eq_true_eq] at h ⊢
    exact ⟨by omega, h.2⟩

/-- A write keeps keys strictly rising. -/
theorem sortedFrom_put {m : Map α} {lo x : Nat} (v : α) (h : Map.sortedFrom lo m = true) (hx : lo ≤ x) :
    Map.sortedFrom lo (Map.put x v m) = true := by
  induction m generalizing lo with
  | nil => simp [Map.put, Map.sortedFrom, hx]
  | cons e m ih =>
    obtain ⟨k, w⟩ := e
    simp only [Map.sortedFrom, Bool.and_eq_true, decide_eq_true_eq] at h
    simp only [Map.put]
    split
    · next h1 => subst h1; simp [Map.sortedFrom, hx, h.2]
    · split
      · next h1 h2 => simp [Map.sortedFrom, hx, h.2]; omega
      · next h1 h2 => simp [Map.sortedFrom, h.1, ih h.2 (by omega)]

/-- Leaving out keys keeps keys strictly rising. -/
theorem sortedFrom_keep (p : Nat → Bool) {m : Map α} {lo : Nat} (h : Map.sortedFrom lo m = true) :
    Map.sortedFrom lo (Map.keep p m) = true := by
  induction m generalizing lo with
  | nil => simp [Map.keep, Map.sortedFrom]
  | cons e m ih =>
    obtain ⟨k, w⟩ := e
    simp only [Map.sortedFrom, Bool.and_eq_true, decide_eq_true_eq] at h
    have := ih h.2
    simp only [Map.keep, List.filter_cons] at this ⊢
    split
    · simp [Map.sortedFrom, h.1, this]
    · exact sortedFrom_mono this (by omega)

theorem mem_put {m : Map α} {x : Nat} {v : α} {e : Nat × α} (h : e ∈ Map.put x v m) : e = (x, v) ∨ e ∈ m := by
  induction m with
  | nil => simp [Map.put] at h; exact .inl h
  | cons b m ih =>
    obtain ⟨k, w⟩ := b
    simp only [Map.put] at h
    split at h
    · next h1 => rcases List.mem_cons.1 h with h | h <;> simp [h]
    · split at h
      · rcases List.mem_cons.1 h with h | h <;> simp [h]
      · rcases List.mem_cons.1 h with h | h
        · simp [h]
        · rcases ih h with h | h <;> simp [h]

variable [DecidableEq α]

/-- Leaving out keys keeps the canonical form. -/
theorem wf_keep {d : α} {m : Map α} (h : Map.wf d m = true) (p : Nat → Bool) : Map.wf d (Map.keep p m) = true := by
  simp only [Map.wf, Bool.and_eq_true, List.all_eq_true, decide_eq_true_eq] at h ⊢
  exact ⟨sortedFrom_keep p h.1, fun e he => h.2 e (List.mem_filter.1 he).1⟩

/-- Taking a key out keeps the canonical form. -/
theorem wf_del {d : α} {m : Map α} (h : Map.wf d m = true) (x : Nat) : Map.wf d (Map.del x m) = true :=
  wf_keep h fun k => k != x

/-- A canonical write keeps the canonical form. -/
theorem wf_set {d : α} {m : Map α} (h : Map.wf d m = true) (x : Nat) (v : α) : Map.wf d (Map.set d m x v) = true := by
  simp only [Map.set]
  split
  · exact wf_del h x
  · next hv =>
    simp only [Map.wf, Bool.and_eq_true, List.all_eq_true, decide_eq_true_eq] at h ⊢
    refine ⟨sortedFrom_put v h.1 (Nat.zero_le x), fun e he => ?_⟩
    rcases mem_put he with rfl | he
    · exact hv
    · exact h.2 e he

/-- A canonical write read back, at every key. -/
theorem get_set (d : α) (m : Map α) (x y : Nat) (v : α) :
    Map.get d (Map.set d m x v) y = if y = x then v else Map.get d m y := by
  simp only [Map.set]
  split
  · next hv => simp only [Map.get, find_del]; split <;> simp_all
  · simp only [Map.get, find_put]; split <;> rfl

@[simp] theorem wf_nil (d : α) : Map.wf d ([] : Map α) = true := rfl

end Map

end Sys2Proof.Machine
end

