-- ==== Sys2Proof/Laws/Memory.lean ====
section
/-! SUPPORT. Memory: what a write leaves at every place, and that every memory operation keeps the canonical form. -/

namespace Sys2Proof.Machine

namespace State

theorem byteAt_setByte (s : State) (a p : Nat) (b : Byte) :
    (s.setByte a b).byteAt p = if p = a then b else s.byteAt p := Map.get_set _ _ _ _ _

theorem byteAt_setBytes (s : State) (a p : Nat) (bs : List Byte) :
    (s.setBytes a bs).byteAt p = if a ≤ p ∧ p < a + bs.length then bs.getD (p - a) 0 else s.byteAt p := by
  induction bs generalizing s a with
  | nil => first | (simp [setBytes]; done) | (simp [setBytes]; omega)
  | cons b bs ih =>
    rw [setBytes, ih, byteAt_setByte]
    by_cases h : p = a
    · subst h; rw [if_neg (by omega), if_pos rfl, if_pos (by simp)]; simp
    · rw [if_neg h]
      by_cases h1 : a + 1 ≤ p ∧ p < a + 1 + bs.length
      · rw [if_pos h1, if_pos (by simp only [List.length_cons]; omega), show p - a = (p - (a + 1)) + 1 by omega,
          List.getD_cons_succ]
      · rw [if_neg h1, if_neg (by simp only [List.length_cons]; omega)]

theorem byteAt_setSome (s : State) (a p : Nat) (bs : List (Option Byte)) :
    (s.setSome a bs).byteAt p = if a ≤ p then ((bs.getD (p - a) none).getD (s.byteAt p)) else s.byteAt p := by
  induction bs generalizing s a with
  | nil => simp [setSome]
  | cons b bs ih =>
    have hs (h : ¬ a + 1 ≤ p) (h' : ¬ p = a) : ¬ a ≤ p := by omega
    cases b with
    | none =>
      rw [setSome, ih]
      by_cases h : a + 1 ≤ p
      · rw [if_pos h, if_pos (by omega), show p - a = (p - (a + 1)) + 1 by omega, List.getD_cons_succ]
      · rw [if_neg h]
        by_cases h' : p = a
        · subst h'; simp
        · rw [if_neg (hs h h')]
    | some b =>
      rw [setSome, ih, byteAt_setByte]
      by_cases h' : p = a
      · subst h'; rw [if_neg (by omega), if_pos rfl]; simp
      · rw [if_neg h']
        by_cases h : a + 1 ≤ p
        · rw [if_pos h, if_pos (by omega), show p - a = (p - (a + 1)) + 1 by omega, List.getD_cons_succ]
        · rw [if_neg h, if_neg (hs h h')]

theorem byteAt_wipeRange (s : State) (lo hi p : Nat) :
    (s.wipeRange lo hi).byteAt p = if lo ≤ p ∧ p < hi then blankByte else s.byteAt p := by
  simp only [wipeRange, byteAt, Map.get, Map.find_keep]
  by_cases h : lo ≤ p ∧ p < hi
  · rw [if_pos h, if_neg (by simp; omega)]; rfl
  · rw [if_neg h, if_pos (by simp; omega)]

/-! ### Every other field -/

theorem setBytes_eq (s : State) (a : Nat) (bs : List Byte) : s.setBytes a bs = { s with mem := (s.setBytes a bs).mem } := by
  induction bs generalizing s a with
  | nil => rfl
  | cons b bs ih => rw [setBytes, ih]; rfl

theorem setSome_eq (s : State) (a : Nat) (bs : List (Option Byte)) :
    s.setSome a bs = { s with mem := (s.setSome a bs).mem } := by
  induction bs generalizing s a with
  | nil => rfl
  | cons b bs ih => cases b <;> (rw [setSome, ih]; try rfl)

/-! ### The canonical form -/

theorem memOk_setByte {s : State} (h : s.MemOk) (a : Nat) (b : Byte) : (s.setByte a b).MemOk := Map.wf_set h _ _

theorem memOk_setBytes {s : State} (h : s.MemOk) (a : Nat) (bs : List Byte) : (s.setBytes a bs).MemOk := by
  induction bs generalizing s a with
  | nil => exact h
  | cons b bs ih => exact ih (memOk_setByte h a b) (a + 1)

theorem memOk_setSome {s : State} (h : s.MemOk) (a : Nat) (bs : List (Option Byte)) : (s.setSome a bs).MemOk := by
  induction bs generalizing s a with
  | nil => exact h
  | cons b bs ih =>
    cases b with
    | none => exact ih h (a + 1)
    | some b => exact ih (memOk_setByte h a b) (a + 1)

theorem memOk_setNum {s : State} (h : s.MemOk) (a n x : Nat) : (s.setNum a n x).MemOk := memOk_setBytes h a _

theorem memOk_wipeRange {s : State} (h : s.MemOk) (lo hi : Nat) : (s.wipeRange lo hi).MemOk :=
  Map.wf_keep (m := s.mem) h fun k => decide (k < lo) || decide (hi ≤ k)

theorem memOk_wipeAll {s : State} (h : s.MemOk) : s.wipeAll.MemOk := Map.wf_keep (m := s.mem) h lasting

theorem memOk_reset : State.reset.MemOk := rfl

end State

end Sys2Proof.Machine
end

