-- ==== Sys2Proof/Laws/State.lean ====
section
/-! SUPPORT. What each update of State leaves in each of its fields, so that no proof unfolds a record update. -/

namespace Sys2Proof.Machine

namespace State

/-! `setCore` -/

@[simp] theorem setCore_mem (s : State) (c : Nat) (k : Core) : (s.setCore c k).mem = s.mem := rfl
@[simp] theorem setCore_poison (s : State) (c : Nat) (k : Core) : (s.setCore c k).poison = s.poison := rfl
@[simp] theorem setCore_poisonFrom (s : State) (c : Nat) (k : Core) : (s.setCore c k).poisonFrom = s.poisonFrom := rfl
@[simp] theorem setCore_owned (s : State) (c : Nat) (k : Core) : (s.setCore c k).owned = s.owned := rfl
@[simp] theorem setCore_pewKey (s : State) (c : Nat) (k : Core) : (s.setCore c k).pewKey = s.pewKey := rfl
@[simp] theorem setCore_cores (s : State) (c : Nat) (k : Core) : (s.setCore c k).cores = Map.put c k s.cores := rfl
@[simp] theorem setCore_tlb2 (s : State) (c : Nat) (k : Core) : (s.setCore c k).tlb2 = s.tlb2 := rfl
@[simp] theorem setCore_groups (s : State) (c : Nat) (k : Core) : (s.setCore c k).groups = s.groups := rfl
@[simp] theorem setCore_blocks (s : State) (c : Nat) (k : Core) : (s.setCore c k).blocks = s.blocks := rfl
@[simp] theorem setCore_tenants (s : State) (c : Nat) (k : Core) : (s.setCore c k).tenants = s.tenants := rfl
@[simp] theorem setCore_events (s : State) (c : Nat) (k : Core) : (s.setCore c k).events = s.events := rfl
@[simp] theorem setCore_pool (s : State) (c : Nat) (k : Core) : (s.setCore c k).pool = s.pool := rfl
@[simp] theorem setCore_outside (s : State) (c : Nat) (k : Core) : (s.setCore c k).outside = s.outside := rfl
@[simp] theorem setCore_outSubs (s : State) (c : Nat) (k : Core) : (s.setCore c k).outSubs = s.outSubs := rfl
@[simp] theorem setCore_inSubs (s : State) (c : Nat) (k : Core) : (s.setCore c k).inSubs = s.inSubs := rfl
@[simp] theorem setCore_sorOwner (s : State) (c : Nat) (k : Core) : (s.setCore c k).sorOwner = s.sorOwner := rfl
@[simp] theorem setCore_slots (s : State) (c : Nat) (k : Core) : (s.setCore c k).slots = s.slots := rfl
@[simp] theorem setCore_shadow (s : State) (c : Nat) (k : Core) : (s.setCore c k).shadow = s.shadow := rfl
@[simp] theorem setCore_pwr (s : State) (c : Nat) (k : Core) : (s.setCore c k).pwr = s.pwr := rfl
@[simp] theorem setCore_pkg (s : State) (c : Nat) (k : Core) : (s.setCore c k).pkg = s.pkg := rfl
@[simp] theorem setCore_host (s : State) (c : Nat) (k : Core) : (s.setCore c k).host = s.host := rfl
@[simp] theorem setCore_fab (s : State) (c : Nat) (k : Core) : (s.setCore c k).fab = s.fab := rfl
@[simp] theorem setCore_svc (s : State) (c : Nat) (k : Core) : (s.setCore c k).svc = s.svc := rfl
@[simp] theorem setCore_agenda (s : State) (c : Nat) (k : Core) : (s.setCore c k).agenda = s.agenda := rfl
@[simp] theorem setCore_turn (s : State) (c : Nat) (k : Core) : (s.setCore c k).turn = s.turn := rfl
@[simp] theorem setCore_cur (s : State) (c : Nat) (k : Core) : (s.setCore c k).cur = s.cur := rfl
@[simp] theorem setCore_freeCount (s : State) (c : Nat) (k : Core) : (s.setCore c k).freeCount = s.freeCount := rfl
@[simp] theorem setCore_serial (s : State) (c : Nat) (k : Core) : (s.setCore c k).serial = s.serial := rfl

/-! `setTenant` -/

@[simp] theorem setTenant_mem (s : State) (t : Nat) (k : Tenant) : (s.setTenant t k).mem = s.mem := rfl
@[simp] theorem setTenant_poison (s : State) (t : Nat) (k : Tenant) : (s.setTenant t k).poison = s.poison := rfl
@[simp] theorem setTenant_poisonFrom (s : State) (t : Nat) (k : Tenant) : (s.setTenant t k).poisonFrom = s.poisonFrom := rfl
@[simp] theorem setTenant_owned (s : State) (t : Nat) (k : Tenant) : (s.setTenant t k).owned = s.owned := rfl
@[simp] theorem setTenant_pewKey (s : State) (t : Nat) (k : Tenant) : (s.setTenant t k).pewKey = s.pewKey := rfl
@[simp] theorem setTenant_cores (s : State) (t : Nat) (k : Tenant) : (s.setTenant t k).cores = s.cores := rfl
@[simp] theorem setTenant_tlb2 (s : State) (t : Nat) (k : Tenant) : (s.setTenant t k).tlb2 = s.tlb2 := rfl
@[simp] theorem setTenant_groups (s : State) (t : Nat) (k : Tenant) : (s.setTenant t k).groups = s.groups := rfl
@[simp] theorem setTenant_blocks (s : State) (t : Nat) (k : Tenant) : (s.setTenant t k).blocks = s.blocks := rfl
@[simp] theorem setTenant_tenants (s : State) (t : Nat) (k : Tenant) : (s.setTenant t k).tenants = Map.put t k s.tenants := rfl
@[simp] theorem setTenant_events (s : State) (t : Nat) (k : Tenant) : (s.setTenant t k).events = s.events := rfl
@[simp] theorem setTenant_pool (s : State) (t : Nat) (k : Tenant) : (s.setTenant t k).pool = s.pool := rfl
@[simp] theorem setTenant_outside (s : State) (t : Nat) (k : Tenant) : (s.setTenant t k).outside = s.outside := rfl
@[simp] theorem setTenant_outSubs (s : State) (t : Nat) (k : Tenant) : (s.setTenant t k).outSubs = s.outSubs := rfl
@[simp] theorem setTenant_inSubs (s : State) (t : Nat) (k : Tenant) : (s.setTenant t k).inSubs = s.inSubs := rfl
@[simp] theorem setTenant_sorOwner (s : State) (t : Nat) (k : Tenant) : (s.setTenant t k).sorOwner = s.sorOwner := rfl
@[simp] theorem setTenant_slots (s : State) (t : Nat) (k : Tenant) : (s.setTenant t k).slots = s.slots := rfl
@[simp] theorem setTenant_shadow (s : State) (t : Nat) (k : Tenant) : (s.setTenant t k).shadow = s.shadow := rfl
@[simp] theorem setTenant_pwr (s : State) (t : Nat) (k : Tenant) : (s.setTenant t k).pwr = s.pwr := rfl
@[simp] theorem setTenant_pkg (s : State) (t : Nat) (k : Tenant) : (s.setTenant t k).pkg = s.pkg := rfl
@[simp] theorem setTenant_host (s : State) (t : Nat) (k : Tenant) : (s.setTenant t k).host = s.host := rfl
@[simp] theorem setTenant_fab (s : State) (t : Nat) (k : Tenant) : (s.setTenant t k).fab = s.fab := rfl
@[simp] theorem setTenant_svc (s : State) (t : Nat) (k : Tenant) : (s.setTenant t k).svc = s.svc := rfl
@[simp] theorem setTenant_agenda (s : State) (t : Nat) (k : Tenant) : (s.setTenant t k).agenda = s.agenda := rfl
@[simp] theorem setTenant_turn (s : State) (t : Nat) (k : Tenant) : (s.setTenant t k).turn = s.turn := rfl
@[simp] theorem setTenant_cur (s : State) (t : Nat) (k : Tenant) : (s.setTenant t k).cur = s.cur := rfl
@[simp] theorem setTenant_freeCount (s : State) (t : Nat) (k : Tenant) : (s.setTenant t k).freeCount = s.freeCount := rfl
@[simp] theorem setTenant_serial (s : State) (t : Nat) (k : Tenant) : (s.setTenant t k).serial = s.serial := rfl

/-! `setGroup` -/

@[simp] theorem setGroup_mem (s : State) (g : Nat) (k : Group) : (s.setGroup g k).mem = s.mem := rfl
@[simp] theorem setGroup_poison (s : State) (g : Nat) (k : Group) : (s.setGroup g k).poison = s.poison := rfl
@[simp] theorem setGroup_poisonFrom (s : State) (g : Nat) (k : Group) : (s.setGroup g k).poisonFrom = s.poisonFrom := rfl
@[simp] theorem setGroup_owned (s : State) (g : Nat) (k : Group) : (s.setGroup g k).owned = s.owned := rfl
@[simp] theorem setGroup_pewKey (s : State) (g : Nat) (k : Group) : (s.setGroup g k).pewKey = s.pewKey := rfl
@[simp] theorem setGroup_cores (s : State) (g : Nat) (k : Group) : (s.setGroup g k).cores = s.cores := rfl
@[simp] theorem setGroup_tlb2 (s : State) (g : Nat) (k : Group) : (s.setGroup g k).tlb2 = s.tlb2 := rfl
@[simp] theorem setGroup_groups (s : State) (g : Nat) (k : Group) : (s.setGroup g k).groups = Map.put g k s.groups := rfl
@[simp] theorem setGroup_blocks (s : State) (g : Nat) (k : Group) : (s.setGroup g k).blocks = s.blocks := rfl
@[simp] theorem setGroup_tenants (s : State) (g : Nat) (k : Group) : (s.setGroup g k).tenants = s.tenants := rfl
@[simp] theorem setGroup_events (s : State) (g : Nat) (k : Group) : (s.setGroup g k).events = s.events := rfl
@[simp] theorem setGroup_pool (s : State) (g : Nat) (k : Group) : (s.setGroup g k).pool = s.pool := rfl
@[simp] theorem setGroup_outside (s : State) (g : Nat) (k : Group) : (s.setGroup g k).outside = s.outside := rfl
@[simp] theorem setGroup_outSubs (s : State) (g : Nat) (k : Group) : (s.setGroup g k).outSubs = s.outSubs := rfl
@[simp] theorem setGroup_inSubs (s : State) (g : Nat) (k : Group) : (s.setGroup g k).inSubs = s.inSubs := rfl
@[simp] theorem setGroup_sorOwner (s : State) (g : Nat) (k : Group) : (s.setGroup g k).sorOwner = s.sorOwner := rfl
@[simp] theorem setGroup_slots (s : State) (g : Nat) (k : Group) : (s.setGroup g k).slots = s.slots := rfl
@[simp] theorem setGroup_shadow (s : State) (g : Nat) (k : Group) : (s.setGroup g k).shadow = s.shadow := rfl
@[simp] theorem setGroup_pwr (s : State) (g : Nat) (k : Group) : (s.setGroup g k).pwr = s.pwr := rfl
@[simp] theorem setGroup_pkg (s : State) (g : Nat) (k : Group) : (s.setGroup g k).pkg = s.pkg := rfl
@[simp] theorem setGroup_host (s : State) (g : Nat) (k : Group) : (s.setGroup g k).host = s.host := rfl
@[simp] theorem setGroup_fab (s : State) (g : Nat) (k : Group) : (s.setGroup g k).fab = s.fab := rfl
@[simp] theorem setGroup_svc (s : State) (g : Nat) (k : Group) : (s.setGroup g k).svc = s.svc := rfl
@[simp] theorem setGroup_agenda (s : State) (g : Nat) (k : Group) : (s.setGroup g k).agenda = s.agenda := rfl
@[simp] theorem setGroup_turn (s : State) (g : Nat) (k : Group) : (s.setGroup g k).turn = s.turn := rfl
@[simp] theorem setGroup_cur (s : State) (g : Nat) (k : Group) : (s.setGroup g k).cur = s.cur := rfl
@[simp] theorem setGroup_freeCount (s : State) (g : Nat) (k : Group) : (s.setGroup g k).freeCount = s.freeCount := rfl
@[simp] theorem setGroup_serial (s : State) (g : Nat) (k : Group) : (s.setGroup g k).serial = s.serial := rfl

/-! `setBlock` -/

@[simp] theorem setBlock_mem (s : State) (b : Nat) (k : Block) : (s.setBlock b k).mem = s.mem := rfl
@[simp] theorem setBlock_poison (s : State) (b : Nat) (k : Block) : (s.setBlock b k).poison = s.poison := rfl
@[simp] theorem setBlock_poisonFrom (s : State) (b : Nat) (k : Block) : (s.setBlock b k).poisonFrom = s.poisonFrom := rfl
@[simp] theorem setBlock_owned (s : State) (b : Nat) (k : Block) : (s.setBlock b k).owned = s.owned := rfl
@[simp] theorem setBlock_pewKey (s : State) (b : Nat) (k : Block) : (s.setBlock b k).pewKey = s.pewKey := rfl
@[simp] theorem setBlock_cores (s : State) (b : Nat) (k : Block) : (s.setBlock b k).cores = s.cores := rfl
@[simp] theorem setBlock_tlb2 (s : State) (b : Nat) (k : Block) : (s.setBlock b k).tlb2 = s.tlb2 := rfl
@[simp] theorem setBlock_groups (s : State) (b : Nat) (k : Block) : (s.setBlock b k).groups = s.groups := rfl
@[simp] theorem setBlock_blocks (s : State) (b : Nat) (k : Block) : (s.setBlock b k).blocks = Map.put b k s.blocks := rfl
@[simp] theorem setBlock_tenants (s : State) (b : Nat) (k : Block) : (s.setBlock b k).tenants = s.tenants := rfl
@[simp] theorem setBlock_events (s : State) (b : Nat) (k : Block) : (s.setBlock b k).events = s.events := rfl
@[simp] theorem setBlock_pool (s : State) (b : Nat) (k : Block) : (s.setBlock b k).pool = s.pool := rfl
@[simp] theorem setBlock_outside (s : State) (b : Nat) (k : Block) : (s.setBlock b k).outside = s.outside := rfl
@[simp] theorem setBlock_outSubs (s : State) (b : Nat) (k : Block) : (s.setBlock b k).outSubs = s.outSubs := rfl
@[simp] theorem setBlock_inSubs (s : State) (b : Nat) (k : Block) : (s.setBlock b k).inSubs = s.inSubs := rfl
@[simp] theorem setBlock_sorOwner (s : State) (b : Nat) (k : Block) : (s.setBlock b k).sorOwner = s.sorOwner := rfl
@[simp] theorem setBlock_slots (s : State) (b : Nat) (k : Block) : (s.setBlock b k).slots = s.slots := rfl
@[simp] theorem setBlock_shadow (s : State) (b : Nat) (k : Block) : (s.setBlock b k).shadow = s.shadow := rfl
@[simp] theorem setBlock_pwr (s : State) (b : Nat) (k : Block) : (s.setBlock b k).pwr = s.pwr := rfl
@[simp] theorem setBlock_pkg (s : State) (b : Nat) (k : Block) : (s.setBlock b k).pkg = s.pkg := rfl
@[simp] theorem setBlock_host (s : State) (b : Nat) (k : Block) : (s.setBlock b k).host = s.host := rfl
@[simp] theorem setBlock_fab (s : State) (b : Nat) (k : Block) : (s.setBlock b k).fab = s.fab := rfl
@[simp] theorem setBlock_svc (s : State) (b : Nat) (k : Block) : (s.setBlock b k).svc = s.svc := rfl
@[simp] theorem setBlock_agenda (s : State) (b : Nat) (k : Block) : (s.setBlock b k).agenda = s.agenda := rfl
@[simp] theorem setBlock_turn (s : State) (b : Nat) (k : Block) : (s.setBlock b k).turn = s.turn := rfl
@[simp] theorem setBlock_cur (s : State) (b : Nat) (k : Block) : (s.setBlock b k).cur = s.cur := rfl
@[simp] theorem setBlock_freeCount (s : State) (b : Nat) (k : Block) : (s.setBlock b k).freeCount = s.freeCount := rfl
@[simp] theorem setBlock_serial (s : State) (b : Nat) (k : Block) : (s.setBlock b k).serial = s.serial := rfl

/-! `setEvent` -/

@[simp] theorem setEvent_mem (s : State) (e : Nat) (k : EvEntry) : (s.setEvent e k).mem = s.mem := rfl
@[simp] theorem setEvent_poison (s : State) (e : Nat) (k : EvEntry) : (s.setEvent e k).poison = s.poison := rfl
@[simp] theorem setEvent_poisonFrom (s : State) (e : Nat) (k : EvEntry) : (s.setEvent e k).poisonFrom = s.poisonFrom := rfl
@[simp] theorem setEvent_owned (s : State) (e : Nat) (k : EvEntry) : (s.setEvent e k).owned = s.owned := rfl
@[simp] theorem setEvent_pewKey (s : State) (e : Nat) (k : EvEntry) : (s.setEvent e k).pewKey = s.pewKey := rfl
@[simp] theorem setEvent_cores (s : State) (e : Nat) (k : EvEntry) : (s.setEvent e k).cores = s.cores := rfl
@[simp] theorem setEvent_tlb2 (s : State) (e : Nat) (k : EvEntry) : (s.setEvent e k).tlb2 = s.tlb2 := rfl
@[simp] theorem setEvent_groups (s : State) (e : Nat) (k : EvEntry) : (s.setEvent e k).groups = s.groups := rfl
@[simp] theorem setEvent_blocks (s : State) (e : Nat) (k : EvEntry) : (s.setEvent e k).blocks = s.blocks := rfl
@[simp] theorem setEvent_tenants (s : State) (e : Nat) (k : EvEntry) : (s.setEvent e k).tenants = s.tenants := rfl
@[simp] theorem setEvent_events (s : State) (e : Nat) (k : EvEntry) : (s.setEvent e k).events = Map.put e k s.events := rfl
@[simp] theorem setEvent_pool (s : State) (e : Nat) (k : EvEntry) : (s.setEvent e k).pool = s.pool := rfl
@[simp] theorem setEvent_outside (s : State) (e : Nat) (k : EvEntry) : (s.setEvent e k).outside = s.outside := rfl
@[simp] theorem setEvent_outSubs (s : State) (e : Nat) (k : EvEntry) : (s.setEvent e k).outSubs = s.outSubs := rfl
@[simp] theorem setEvent_inSubs (s : State) (e : Nat) (k : EvEntry) : (s.setEvent e k).inSubs = s.inSubs := rfl
@[simp] theorem setEvent_sorOwner (s : State) (e : Nat) (k : EvEntry) : (s.setEvent e k).sorOwner = s.sorOwner := rfl
@[simp] theorem setEvent_slots (s : State) (e : Nat) (k : EvEntry) : (s.setEvent e k).slots = s.slots := rfl
@[simp] theorem setEvent_shadow (s : State) (e : Nat) (k : EvEntry) : (s.setEvent e k).shadow = s.shadow := rfl
@[simp] theorem setEvent_pwr (s : State) (e : Nat) (k : EvEntry) : (s.setEvent e k).pwr = s.pwr := rfl
@[simp] theorem setEvent_pkg (s : State) (e : Nat) (k : EvEntry) : (s.setEvent e k).pkg = s.pkg := rfl
@[simp] theorem setEvent_host (s : State) (e : Nat) (k : EvEntry) : (s.setEvent e k).host = s.host := rfl
@[simp] theorem setEvent_fab (s : State) (e : Nat) (k : EvEntry) : (s.setEvent e k).fab = s.fab := rfl
@[simp] theorem setEvent_svc (s : State) (e : Nat) (k : EvEntry) : (s.setEvent e k).svc = s.svc := rfl
@[simp] theorem setEvent_agenda (s : State) (e : Nat) (k : EvEntry) : (s.setEvent e k).agenda = s.agenda := rfl
@[simp] theorem setEvent_turn (s : State) (e : Nat) (k : EvEntry) : (s.setEvent e k).turn = s.turn := rfl
@[simp] theorem setEvent_cur (s : State) (e : Nat) (k : EvEntry) : (s.setEvent e k).cur = s.cur := rfl
@[simp] theorem setEvent_freeCount (s : State) (e : Nat) (k : EvEntry) : (s.setEvent e k).freeCount = s.freeCount := rfl
@[simp] theorem setEvent_serial (s : State) (e : Nat) (k : EvEntry) : (s.setEvent e k).serial = s.serial := rfl

/-! `setPort` -/

@[simp] theorem setPort_mem (s : State) (p : Nat) (k : Port) : (s.setPort p k).mem = s.mem := rfl
@[simp] theorem setPort_poison (s : State) (p : Nat) (k : Port) : (s.setPort p k).poison = s.poison := rfl
@[simp] theorem setPort_poisonFrom (s : State) (p : Nat) (k : Port) : (s.setPort p k).poisonFrom = s.poisonFrom := rfl
@[simp] theorem setPort_owned (s : State) (p : Nat) (k : Port) : (s.setPort p k).owned = s.owned := rfl
@[simp] theorem setPort_pewKey (s : State) (p : Nat) (k : Port) : (s.setPort p k).pewKey = s.pewKey := rfl
@[simp] theorem setPort_cores (s : State) (p : Nat) (k : Port) : (s.setPort p k).cores = s.cores := rfl
@[simp] theorem setPort_tlb2 (s : State) (p : Nat) (k : Port) : (s.setPort p k).tlb2 = s.tlb2 := rfl
@[simp] theorem setPort_groups (s : State) (p : Nat) (k : Port) : (s.setPort p k).groups = s.groups := rfl
@[simp] theorem setPort_blocks (s : State) (p : Nat) (k : Port) : (s.setPort p k).blocks = s.blocks := rfl
@[simp] theorem setPort_tenants (s : State) (p : Nat) (k : Port) : (s.setPort p k).tenants = s.tenants := rfl
@[simp] theorem setPort_events (s : State) (p : Nat) (k : Port) : (s.setPort p k).events = s.events := rfl
@[simp] theorem setPort_pool (s : State) (p : Nat) (k : Port) : (s.setPort p k).pool = s.pool := rfl
@[simp] theorem setPort_outside (s : State) (p : Nat) (k : Port) : (s.setPort p k).outside = s.outside := rfl
@[simp] theorem setPort_outSubs (s : State) (p : Nat) (k : Port) : (s.setPort p k).outSubs = s.outSubs := rfl
@[simp] theorem setPort_inSubs (s : State) (p : Nat) (k : Port) : (s.setPort p k).inSubs = s.inSubs := rfl
@[simp] theorem setPort_sorOwner (s : State) (p : Nat) (k : Port) : (s.setPort p k).sorOwner = s.sorOwner := rfl
@[simp] theorem setPort_slots (s : State) (p : Nat) (k : Port) : (s.setPort p k).slots = s.slots := rfl
@[simp] theorem setPort_shadow (s : State) (p : Nat) (k : Port) : (s.setPort p k).shadow = s.shadow := rfl
@[simp] theorem setPort_pwr (s : State) (p : Nat) (k : Port) : (s.setPort p k).pwr = s.pwr := rfl
@[simp] theorem setPort_pkg (s : State) (p : Nat) (k : Port) : (s.setPort p k).pkg = s.pkg := rfl
@[simp] theorem setPort_host (s : State) (p : Nat) (k : Port) : (s.setPort p k).host = s.host := rfl
@[simp] theorem setPort_fab (s : State) (p : Nat) (k : Port) : (s.setPort p k).fab = { s.fab with ports := Map.put p k s.fab.ports } := rfl
@[simp] theorem setPort_svc (s : State) (p : Nat) (k : Port) : (s.setPort p k).svc = s.svc := rfl
@[simp] theorem setPort_agenda (s : State) (p : Nat) (k : Port) : (s.setPort p k).agenda = s.agenda := rfl
@[simp] theorem setPort_turn (s : State) (p : Nat) (k : Port) : (s.setPort p k).turn = s.turn := rfl
@[simp] theorem setPort_cur (s : State) (p : Nat) (k : Port) : (s.setPort p k).cur = s.cur := rfl
@[simp] theorem setPort_freeCount (s : State) (p : Nat) (k : Port) : (s.setPort p k).freeCount = s.freeCount := rfl
@[simp] theorem setPort_serial (s : State) (p : Nat) (k : Port) : (s.setPort p k).serial = s.serial := rfl

/-! `modPkg` -/

@[simp] theorem modPkg_mem (s : State) (f : Package → Package) : (s.modPkg f).mem = s.mem := rfl
@[simp] theorem modPkg_poison (s : State) (f : Package → Package) : (s.modPkg f).poison = s.poison := rfl
@[simp] theorem modPkg_poisonFrom (s : State) (f : Package → Package) : (s.modPkg f).poisonFrom = s.poisonFrom := rfl
@[simp] theorem modPkg_owned (s : State) (f : Package → Package) : (s.modPkg f).owned = s.owned := rfl
@[simp] theorem modPkg_pewKey (s : State) (f : Package → Package) : (s.modPkg f).pewKey = s.pewKey := rfl
@[simp] theorem modPkg_cores (s : State) (f : Package → Package) : (s.modPkg f).cores = s.cores := rfl
@[simp] theorem modPkg_tlb2 (s : State) (f : Package → Package) : (s.modPkg f).tlb2 = s.tlb2 := rfl
@[simp] theorem modPkg_groups (s : State) (f : Package → Package) : (s.modPkg f).groups = s.groups := rfl
@[simp] theorem modPkg_blocks (s : State) (f : Package → Package) : (s.modPkg f).blocks = s.blocks := rfl
@[simp] theorem modPkg_tenants (s : State) (f : Package → Package) : (s.modPkg f).tenants = s.tenants := rfl
@[simp] theorem modPkg_events (s : State) (f : Package → Package) : (s.modPkg f).events = s.events := rfl
@[simp] theorem modPkg_pool (s : State) (f : Package → Package) : (s.modPkg f).pool = s.pool := rfl
@[simp] theorem modPkg_outside (s : State) (f : Package → Package) : (s.modPkg f).outside = s.outside := rfl
@[simp] theorem modPkg_outSubs (s : State) (f : Package → Package) : (s.modPkg f).outSubs = s.outSubs := rfl
@[simp] theorem modPkg_inSubs (s : State) (f : Package → Package) : (s.modPkg f).inSubs = s.inSubs := rfl
@[simp] theorem modPkg_sorOwner (s : State) (f : Package → Package) : (s.modPkg f).sorOwner = s.sorOwner := rfl
@[simp] theorem modPkg_slots (s : State) (f : Package → Package) : (s.modPkg f).slots = s.slots := rfl
@[simp] theorem modPkg_shadow (s : State) (f : Package → Package) : (s.modPkg f).shadow = s.shadow := rfl
@[simp] theorem modPkg_pwr (s : State) (f : Package → Package) : (s.modPkg f).pwr = s.pwr := rfl
@[simp] theorem modPkg_pkg (s : State) (f : Package → Package) : (s.modPkg f).pkg = f s.pkg := rfl
@[simp] theorem modPkg_host (s : State) (f : Package → Package) : (s.modPkg f).host = s.host := rfl
@[simp] theorem modPkg_fab (s : State) (f : Package → Package) : (s.modPkg f).fab = s.fab := rfl
@[simp] theorem modPkg_svc (s : State) (f : Package → Package) : (s.modPkg f).svc = s.svc := rfl
@[simp] theorem modPkg_agenda (s : State) (f : Package → Package) : (s.modPkg f).agenda = s.agenda := rfl
@[simp] theorem modPkg_turn (s : State) (f : Package → Package) : (s.modPkg f).turn = s.turn := rfl
@[simp] theorem modPkg_cur (s : State) (f : Package → Package) : (s.modPkg f).cur = s.cur := rfl
@[simp] theorem modPkg_freeCount (s : State) (f : Package → Package) : (s.modPkg f).freeCount = s.freeCount := rfl
@[simp] theorem modPkg_serial (s : State) (f : Package → Package) : (s.modPkg f).serial = s.serial := rfl

/-! `modPwr` -/

@[simp] theorem modPwr_mem (s : State) (f : Power → Power) : (s.modPwr f).mem = s.mem := rfl
@[simp] theorem modPwr_poison (s : State) (f : Power → Power) : (s.modPwr f).poison = s.poison := rfl
@[simp] theorem modPwr_poisonFrom (s : State) (f : Power → Power) : (s.modPwr f).poisonFrom = s.poisonFrom := rfl
@[simp] theorem modPwr_owned (s : State) (f : Power → Power) : (s.modPwr f).owned = s.owned := rfl
@[simp] theorem modPwr_pewKey (s : State) (f : Power → Power) : (s.modPwr f).pewKey = s.pewKey := rfl
@[simp] theorem modPwr_cores (s : State) (f : Power → Power) : (s.modPwr f).cores = s.cores := rfl
@[simp] theorem modPwr_tlb2 (s : State) (f : Power → Power) : (s.modPwr f).tlb2 = s.tlb2 := rfl
@[simp] theorem modPwr_groups (s : State) (f : Power → Power) : (s.modPwr f).groups = s.groups := rfl
@[simp] theorem modPwr_blocks (s : State) (f : Power → Power) : (s.modPwr f).blocks = s.blocks := rfl
@[simp] theorem modPwr_tenants (s : State) (f : Power → Power) : (s.modPwr f).tenants = s.tenants := rfl
@[simp] theorem modPwr_events (s : State) (f : Power → Power) : (s.modPwr f).events = s.events := rfl
@[simp] theorem modPwr_pool (s : State) (f : Power → Power) : (s.modPwr f).pool = s.pool := rfl
@[simp] theorem modPwr_outside (s : State) (f : Power → Power) : (s.modPwr f).outside = s.outside := rfl
@[simp] theorem modPwr_outSubs (s : State) (f : Power → Power) : (s.modPwr f).outSubs = s.outSubs := rfl
@[simp] theorem modPwr_inSubs (s : State) (f : Power → Power) : (s.modPwr f).inSubs = s.inSubs := rfl
@[simp] theorem modPwr_sorOwner (s : State) (f : Power → Power) : (s.modPwr f).sorOwner = s.sorOwner := rfl
@[simp] theorem modPwr_slots (s : State) (f : Power → Power) : (s.modPwr f).slots = s.slots := rfl
@[simp] theorem modPwr_shadow (s : State) (f : Power → Power) : (s.modPwr f).shadow = s.shadow := rfl
@[simp] theorem modPwr_pwr (s : State) (f : Power → Power) : (s.modPwr f).pwr = f s.pwr := rfl
@[simp] theorem modPwr_pkg (s : State) (f : Power → Power) : (s.modPwr f).pkg = s.pkg := rfl
@[simp] theorem modPwr_host (s : State) (f : Power → Power) : (s.modPwr f).host = s.host := rfl
@[simp] theorem modPwr_fab (s : State) (f : Power → Power) : (s.modPwr f).fab = s.fab := rfl
@[simp] theorem modPwr_svc (s : State) (f : Power → Power) : (s.modPwr f).svc = s.svc := rfl
@[simp] theorem modPwr_agenda (s : State) (f : Power → Power) : (s.modPwr f).agenda = s.agenda := rfl
@[simp] theorem modPwr_turn (s : State) (f : Power → Power) : (s.modPwr f).turn = s.turn := rfl
@[simp] theorem modPwr_cur (s : State) (f : Power → Power) : (s.modPwr f).cur = s.cur := rfl
@[simp] theorem modPwr_freeCount (s : State) (f : Power → Power) : (s.modPwr f).freeCount = s.freeCount := rfl
@[simp] theorem modPwr_serial (s : State) (f : Power → Power) : (s.modPwr f).serial = s.serial := rfl

/-! `modHost` -/

@[simp] theorem modHost_mem (s : State) (f : HostSide → HostSide) : (s.modHost f).mem = s.mem := rfl
@[simp] theorem modHost_poison (s : State) (f : HostSide → HostSide) : (s.modHost f).poison = s.poison := rfl
@[simp] theorem modHost_poisonFrom (s : State) (f : HostSide → HostSide) : (s.modHost f).poisonFrom = s.poisonFrom := rfl
@[simp] theorem modHost_owned (s : State) (f : HostSide → HostSide) : (s.modHost f).owned = s.owned := rfl
@[simp] theorem modHost_pewKey (s : State) (f : HostSide → HostSide) : (s.modHost f).pewKey = s.pewKey := rfl
@[simp] theorem modHost_cores (s : State) (f : HostSide → HostSide) : (s.modHost f).cores = s.cores := rfl
@[simp] theorem modHost_tlb2 (s : State) (f : HostSide → HostSide) : (s.modHost f).tlb2 = s.tlb2 := rfl
@[simp] theorem modHost_groups (s : State) (f : HostSide → HostSide) : (s.modHost f).groups = s.groups := rfl
@[simp] theorem modHost_blocks (s : State) (f : HostSide → HostSide) : (s.modHost f).blocks = s.blocks := rfl
@[simp] theorem modHost_tenants (s : State) (f : HostSide → HostSide) : (s.modHost f).tenants = s.tenants := rfl
@[simp] theorem modHost_events (s : State) (f : HostSide → HostSide) : (s.modHost f).events = s.events := rfl
@[simp] theorem modHost_pool (s : State) (f : HostSide → HostSide) : (s.modHost f).pool = s.pool := rfl
@[simp] theorem modHost_outside (s : State) (f : HostSide → HostSide) : (s.modHost f).outside = s.outside := rfl
@[simp] theorem modHost_outSubs (s : State) (f : HostSide → HostSide) : (s.modHost f).outSubs = s.outSubs := rfl
@[simp] theorem modHost_inSubs (s : State) (f : HostSide → HostSide) : (s.modHost f).inSubs = s.inSubs := rfl
@[simp] theorem modHost_sorOwner (s : State) (f : HostSide → HostSide) : (s.modHost f).sorOwner = s.sorOwner := rfl
@[simp] theorem modHost_slots (s : State) (f : HostSide → HostSide) : (s.modHost f).slots = s.slots := rfl
@[simp] theorem modHost_shadow (s : State) (f : HostSide → HostSide) : (s.modHost f).shadow = s.shadow := rfl
@[simp] theorem modHost_pwr (s : State) (f : HostSide → HostSide) : (s.modHost f).pwr = s.pwr := rfl
@[simp] theorem modHost_pkg (s : State) (f : HostSide → HostSide) : (s.modHost f).pkg = s.pkg := rfl
@[simp] theorem modHost_host (s : State) (f : HostSide → HostSide) : (s.modHost f).host = f s.host := rfl
@[simp] theorem modHost_fab (s : State) (f : HostSide → HostSide) : (s.modHost f).fab = s.fab := rfl
@[simp] theorem modHost_svc (s : State) (f : HostSide → HostSide) : (s.modHost f).svc = s.svc := rfl
@[simp] theorem modHost_agenda (s : State) (f : HostSide → HostSide) : (s.modHost f).agenda = s.agenda := rfl
@[simp] theorem modHost_turn (s : State) (f : HostSide → HostSide) : (s.modHost f).turn = s.turn := rfl
@[simp] theorem modHost_cur (s : State) (f : HostSide → HostSide) : (s.modHost f).cur = s.cur := rfl
@[simp] theorem modHost_freeCount (s : State) (f : HostSide → HostSide) : (s.modHost f).freeCount = s.freeCount := rfl
@[simp] theorem modHost_serial (s : State) (f : HostSide → HostSide) : (s.modHost f).serial = s.serial := rfl

/-! `modFab` -/

@[simp] theorem modFab_mem (s : State) (f : Fabric → Fabric) : (s.modFab f).mem = s.mem := rfl
@[simp] theorem modFab_poison (s : State) (f : Fabric → Fabric) : (s.modFab f).poison = s.poison := rfl
@[simp] theorem modFab_poisonFrom (s : State) (f : Fabric → Fabric) : (s.modFab f).poisonFrom = s.poisonFrom := rfl
@[simp] theorem modFab_owned (s : State) (f : Fabric → Fabric) : (s.modFab f).owned = s.owned := rfl
@[simp] theorem modFab_pewKey (s : State) (f : Fabric → Fabric) : (s.modFab f).pewKey = s.pewKey := rfl
@[simp] theorem modFab_cores (s : State) (f : Fabric → Fabric) : (s.modFab f).cores = s.cores := rfl
@[simp] theorem modFab_tlb2 (s : State) (f : Fabric → Fabric) : (s.modFab f).tlb2 = s.tlb2 := rfl
@[simp] theorem modFab_groups (s : State) (f : Fabric → Fabric) : (s.modFab f).groups = s.groups := rfl
@[simp] theorem modFab_blocks (s : State) (f : Fabric → Fabric) : (s.modFab f).blocks = s.blocks := rfl
@[simp] theorem modFab_tenants (s : State) (f : Fabric → Fabric) : (s.modFab f).tenants = s.tenants := rfl
@[simp] theorem modFab_events (s : State) (f : Fabric → Fabric) : (s.modFab f).events = s.events := rfl
@[simp] theorem modFab_pool (s : State) (f : Fabric → Fabric) : (s.modFab f).pool = s.pool := rfl
@[simp] theorem modFab_outside (s : State) (f : Fabric → Fabric) : (s.modFab f).outside = s.outside := rfl
@[simp] theorem modFab_outSubs (s : State) (f : Fabric → Fabric) : (s.modFab f).outSubs = s.outSubs := rfl
@[simp] theorem modFab_inSubs (s : State) (f : Fabric → Fabric) : (s.modFab f).inSubs = s.inSubs := rfl
@[simp] theorem modFab_sorOwner (s : State) (f : Fabric → Fabric) : (s.modFab f).sorOwner = s.sorOwner := rfl
@[simp] theorem modFab_slots (s : State) (f : Fabric → Fabric) : (s.modFab f).slots = s.slots := rfl
@[simp] theorem modFab_shadow (s : State) (f : Fabric → Fabric) : (s.modFab f).shadow = s.shadow := rfl
@[simp] theorem modFab_pwr (s : State) (f : Fabric → Fabric) : (s.modFab f).pwr = s.pwr := rfl
@[simp] theorem modFab_pkg (s : State) (f : Fabric → Fabric) : (s.modFab f).pkg = s.pkg := rfl
@[simp] theorem modFab_host (s : State) (f : Fabric → Fabric) : (s.modFab f).host = s.host := rfl
@[simp] theorem modFab_fab (s : State) (f : Fabric → Fabric) : (s.modFab f).fab = f s.fab := rfl
@[simp] theorem modFab_svc (s : State) (f : Fabric → Fabric) : (s.modFab f).svc = s.svc := rfl
@[simp] theorem modFab_agenda (s : State) (f : Fabric → Fabric) : (s.modFab f).agenda = s.agenda := rfl
@[simp] theorem modFab_turn (s : State) (f : Fabric → Fabric) : (s.modFab f).turn = s.turn := rfl
@[simp] theorem modFab_cur (s : State) (f : Fabric → Fabric) : (s.modFab f).cur = s.cur := rfl
@[simp] theorem modFab_freeCount (s : State) (f : Fabric → Fabric) : (s.modFab f).freeCount = s.freeCount := rfl
@[simp] theorem modFab_serial (s : State) (f : Fabric → Fabric) : (s.modFab f).serial = s.serial := rfl

/-! `modSvc` -/

@[simp] theorem modSvc_mem (s : State) (f : Services → Services) : (s.modSvc f).mem = s.mem := rfl
@[simp] theorem modSvc_poison (s : State) (f : Services → Services) : (s.modSvc f).poison = s.poison := rfl
@[simp] theorem modSvc_poisonFrom (s : State) (f : Services → Services) : (s.modSvc f).poisonFrom = s.poisonFrom := rfl
@[simp] theorem modSvc_owned (s : State) (f : Services → Services) : (s.modSvc f).owned = s.owned := rfl
@[simp] theorem modSvc_pewKey (s : State) (f : Services → Services) : (s.modSvc f).pewKey = s.pewKey := rfl
@[simp] theorem modSvc_cores (s : State) (f : Services → Services) : (s.modSvc f).cores = s.cores := rfl
@[simp] theorem modSvc_tlb2 (s : State) (f : Services → Services) : (s.modSvc f).tlb2 = s.tlb2 := rfl
@[simp] theorem modSvc_groups (s : State) (f : Services → Services) : (s.modSvc f).groups = s.groups := rfl
@[simp] theorem modSvc_blocks (s : State) (f : Services → Services) : (s.modSvc f).blocks = s.blocks := rfl
@[simp] theorem modSvc_tenants (s : State) (f : Services → Services) : (s.modSvc f).tenants = s.tenants := rfl
@[simp] theorem modSvc_events (s : State) (f : Services → Services) : (s.modSvc f).events = s.events := rfl
@[simp] theorem modSvc_pool (s : State) (f : Services → Services) : (s.modSvc f).pool = s.pool := rfl
@[simp] theorem modSvc_outside (s : State) (f : Services → Services) : (s.modSvc f).outside = s.outside := rfl
@[simp] theorem modSvc_outSubs (s : State) (f : Services → Services) : (s.modSvc f).outSubs = s.outSubs := rfl
@[simp] theorem modSvc_inSubs (s : State) (f : Services → Services) : (s.modSvc f).inSubs = s.inSubs := rfl
@[simp] theorem modSvc_sorOwner (s : State) (f : Services → Services) : (s.modSvc f).sorOwner = s.sorOwner := rfl
@[simp] theorem modSvc_slots (s : State) (f : Services → Services) : (s.modSvc f).slots = s.slots := rfl
@[simp] theorem modSvc_shadow (s : State) (f : Services → Services) : (s.modSvc f).shadow = s.shadow := rfl
@[simp] theorem modSvc_pwr (s : State) (f : Services → Services) : (s.modSvc f).pwr = s.pwr := rfl
@[simp] theorem modSvc_pkg (s : State) (f : Services → Services) : (s.modSvc f).pkg = s.pkg := rfl
@[simp] theorem modSvc_host (s : State) (f : Services → Services) : (s.modSvc f).host = s.host := rfl
@[simp] theorem modSvc_fab (s : State) (f : Services → Services) : (s.modSvc f).fab = s.fab := rfl
@[simp] theorem modSvc_svc (s : State) (f : Services → Services) : (s.modSvc f).svc = f s.svc := rfl
@[simp] theorem modSvc_agenda (s : State) (f : Services → Services) : (s.modSvc f).agenda = s.agenda := rfl
@[simp] theorem modSvc_turn (s : State) (f : Services → Services) : (s.modSvc f).turn = s.turn := rfl
@[simp] theorem modSvc_cur (s : State) (f : Services → Services) : (s.modSvc f).cur = s.cur := rfl
@[simp] theorem modSvc_freeCount (s : State) (f : Services → Services) : (s.modSvc f).freeCount = s.freeCount := rfl
@[simp] theorem modSvc_serial (s : State) (f : Services → Services) : (s.modSvc f).serial = s.serial := rfl

/-! `setByte` -/

@[simp] theorem setByte_mem (s : State) (a : Nat) (b : Byte) : (s.setByte a b).mem = Map.set blankByte s.mem a b := rfl
@[simp] theorem setByte_poison (s : State) (a : Nat) (b : Byte) : (s.setByte a b).poison = s.poison := rfl
@[simp] theorem setByte_poisonFrom (s : State) (a : Nat) (b : Byte) : (s.setByte a b).poisonFrom = s.poisonFrom := rfl
@[simp] theorem setByte_owned (s : State) (a : Nat) (b : Byte) : (s.setByte a b).owned = s.owned := rfl
@[simp] theorem setByte_pewKey (s : State) (a : Nat) (b : Byte) : (s.setByte a b).pewKey = s.pewKey := rfl
@[simp] theorem setByte_cores (s : State) (a : Nat) (b : Byte) : (s.setByte a b).cores = s.cores := rfl
@[simp] theorem setByte_tlb2 (s : State) (a : Nat) (b : Byte) : (s.setByte a b).tlb2 = s.tlb2 := rfl
@[simp] theorem setByte_groups (s : State) (a : Nat) (b : Byte) : (s.setByte a b).groups = s.groups := rfl
@[simp] theorem setByte_blocks (s : State) (a : Nat) (b : Byte) : (s.setByte a b).blocks = s.blocks := rfl
@[simp] theorem setByte_tenants (s : State) (a : Nat) (b : Byte) : (s.setByte a b).tenants = s.tenants := rfl
@[simp] theorem setByte_events (s : State) (a : Nat) (b : Byte) : (s.setByte a b).events = s.events := rfl
@[simp] theorem setByte_pool (s : State) (a : Nat) (b : Byte) : (s.setByte a b).pool = s.pool := rfl
@[simp] theorem setByte_outside (s : State) (a : Nat) (b : Byte) : (s.setByte a b).outside = s.outside := rfl
@[simp] theorem setByte_outSubs (s : State) (a : Nat) (b : Byte) : (s.setByte a b).outSubs = s.outSubs := rfl
@[simp] theorem setByte_inSubs (s : State) (a : Nat) (b : Byte) : (s.setByte a b).inSubs = s.inSubs := rfl
@[simp] theorem setByte_sorOwner (s : State) (a : Nat) (b : Byte) : (s.setByte a b).sorOwner = s.sorOwner := rfl
@[simp] theorem setByte_slots (s : State) (a : Nat) (b : Byte) : (s.setByte a b).slots = s.slots := rfl
@[simp] theorem setByte_shadow (s : State) (a : Nat) (b : Byte) : (s.setByte a b).shadow = s.shadow := rfl
@[simp] theorem setByte_pwr (s : State) (a : Nat) (b : Byte) : (s.setByte a b).pwr = s.pwr := rfl
@[simp] theorem setByte_pkg (s : State) (a : Nat) (b : Byte) : (s.setByte a b).pkg = s.pkg := rfl
@[simp] theorem setByte_host (s : State) (a : Nat) (b : Byte) : (s.setByte a b).host = s.host := rfl
@[simp] theorem setByte_fab (s : State) (a : Nat) (b : Byte) : (s.setByte a b).fab = s.fab := rfl
@[simp] theorem setByte_svc (s : State) (a : Nat) (b : Byte) : (s.setByte a b).svc = s.svc := rfl
@[simp] theorem setByte_agenda (s : State) (a : Nat) (b : Byte) : (s.setByte a b).agenda = s.agenda := rfl
@[simp] theorem setByte_turn (s : State) (a : Nat) (b : Byte) : (s.setByte a b).turn = s.turn := rfl
@[simp] theorem setByte_cur (s : State) (a : Nat) (b : Byte) : (s.setByte a b).cur = s.cur := rfl
@[simp] theorem setByte_freeCount (s : State) (a : Nat) (b : Byte) : (s.setByte a b).freeCount = s.freeCount := rfl
@[simp] theorem setByte_serial (s : State) (a : Nat) (b : Byte) : (s.setByte a b).serial = s.serial := rfl

/-! `addPoison` -/

@[simp] theorem addPoison_mem (s : State) (a : Nat) : (s.addPoison a).mem = s.mem := rfl
@[simp] theorem addPoison_poison (s : State) (a : Nat) : (s.addPoison a).poison = insertNat (poisonUnit a) s.poison := rfl
@[simp] theorem addPoison_poisonFrom (s : State) (a : Nat) : (s.addPoison a).poisonFrom = s.poisonFrom := rfl
@[simp] theorem addPoison_owned (s : State) (a : Nat) : (s.addPoison a).owned = s.owned := rfl
@[simp] theorem addPoison_pewKey (s : State) (a : Nat) : (s.addPoison a).pewKey = s.pewKey := rfl
@[simp] theorem addPoison_cores (s : State) (a : Nat) : (s.addPoison a).cores = s.cores := rfl
@[simp] theorem addPoison_tlb2 (s : State) (a : Nat) : (s.addPoison a).tlb2 = s.tlb2 := rfl
@[simp] theorem addPoison_groups (s : State) (a : Nat) : (s.addPoison a).groups = s.groups := rfl
@[simp] theorem addPoison_blocks (s : State) (a : Nat) : (s.addPoison a).blocks = s.blocks := rfl
@[simp] theorem addPoison_tenants (s : State) (a : Nat) : (s.addPoison a).tenants = s.tenants := rfl
@[simp] theorem addPoison_events (s : State) (a : Nat) : (s.addPoison a).events = s.events := rfl
@[simp] theorem addPoison_pool (s : State) (a : Nat) : (s.addPoison a).pool = s.pool := rfl
@[simp] theorem addPoison_outside (s : State) (a : Nat) : (s.addPoison a).outside = s.outside := rfl
@[simp] theorem addPoison_outSubs (s : State) (a : Nat) : (s.addPoison a).outSubs = s.outSubs := rfl
@[simp] theorem addPoison_inSubs (s : State) (a : Nat) : (s.addPoison a).inSubs = s.inSubs := rfl
@[simp] theorem addPoison_sorOwner (s : State) (a : Nat) : (s.addPoison a).sorOwner = s.sorOwner := rfl
@[simp] theorem addPoison_slots (s : State) (a : Nat) : (s.addPoison a).slots = s.slots := rfl
@[simp] theorem addPoison_shadow (s : State) (a : Nat) : (s.addPoison a).shadow = s.shadow := rfl
@[simp] theorem addPoison_pwr (s : State) (a : Nat) : (s.addPoison a).pwr = s.pwr := rfl
@[simp] theorem addPoison_pkg (s : State) (a : Nat) : (s.addPoison a).pkg = s.pkg := rfl
@[simp] theorem addPoison_host (s : State) (a : Nat) : (s.addPoison a).host = s.host := rfl
@[simp] theorem addPoison_fab (s : State) (a : Nat) : (s.addPoison a).fab = s.fab := rfl
@[simp] theorem addPoison_svc (s : State) (a : Nat) : (s.addPoison a).svc = s.svc := rfl
@[simp] theorem addPoison_agenda (s : State) (a : Nat) : (s.addPoison a).agenda = s.agenda := rfl
@[simp] theorem addPoison_turn (s : State) (a : Nat) : (s.addPoison a).turn = s.turn := rfl
@[simp] theorem addPoison_cur (s : State) (a : Nat) : (s.addPoison a).cur = s.cur := rfl
@[simp] theorem addPoison_freeCount (s : State) (a : Nat) : (s.addPoison a).freeCount = s.freeCount := rfl
@[simp] theorem addPoison_serial (s : State) (a : Nat) : (s.addPoison a).serial = s.serial := rfl

/-! Changes of a part are writes of the record that holds it. -/

theorem modCore_eq (s : State) (c : Nat) (f : Core → Core) : s.modCore c f = s.setCore c (f (s.core c)) := rfl
theorem modTenant_eq (s : State) (t : Nat) (f : Tenant → Tenant) : s.modTenant t f = s.setTenant t (f (s.tenant t)) := rfl
theorem modGroup_eq (s : State) (g : Nat) (f : Group → Group) : s.modGroup g f = s.setGroup g (f (s.group g)) := rfl
theorem modEvent_eq (s : State) (e : Nat) (f : EvEntry → EvEntry) : s.modEvent e f = s.setEvent e (f (s.event e)) := rfl
theorem modPort_eq (s : State) (p : Nat) (f : Port → Port) : s.modPort p f = s.setPort p (f (s.port p)) := rfl
theorem modQueue_eq (s : State) (t q : Nat) (f : Queue → Queue) : s.modQueue t q f = s.setTenant t { s.tenant t with queues := Map.put q (f (s.queue t q)) (s.tenant t).queues } := rfl
theorem modStripe_eq (s : State) (t i : Nat) (f : Stripe → Stripe) : s.modStripe t i f = s.setTenant t { s.tenant t with stripes := Map.put i (f (s.stripe t i)) (s.tenant t).stripes } := rfl
theorem modFq_eq (s : State) (t : Nat) (f : FaultQueue → FaultQueue) : s.modFq t f = s.setTenant t { s.tenant t with fq := f (s.tenant t).fq } := rfl
theorem modSched_eq (s : State) (t : Nat) (f : Sched → Sched) : s.modSched t f = s.setTenant t { s.tenant t with sched := f (s.tenant t).sched } := rfl
theorem modSor_eq (s : State) (t : Nat) (f : Sorrel → Sorrel) : s.modSor t f = s.setTenant t { s.tenant t with sor := f (s.tenant t).sor } := rfl
theorem modDbg_eq (s : State) (t : Nat) (f : Debug → Debug) : s.modDbg t f = s.setTenant t { s.tenant t with dbg := f (s.tenant t).dbg } := rfl

/-! What a record reads as after a write. -/

@[simp] theorem setCore_core (s : State) (c x : Nat) (k : Core) : (s.setCore c k).core x = if x = c then k else s.core x := by
  simp [State.core, Map.get_put]
@[simp] theorem setTenant_core (s : State) (t : Nat) (k : Tenant) (x : Nat) : (s.setTenant t k).core x = s.core x := rfl
@[simp] theorem setGroup_core (s : State) (g : Nat) (k : Group) (x : Nat) : (s.setGroup g k).core x = s.core x := rfl
@[simp] theorem setBlock_core (s : State) (b : Nat) (k : Block) (x : Nat) : (s.setBlock b k).core x = s.core x := rfl
@[simp] theorem setEvent_core (s : State) (e : Nat) (k : EvEntry) (x : Nat) : (s.setEvent e k).core x = s.core x := rfl
@[simp] theorem setPort_core (s : State) (p : Nat) (k : Port) (x : Nat) : (s.setPort p k).core x = s.core x := rfl
@[simp] theorem modPkg_core (s : State) (f : Package → Package) (x : Nat) : (s.modPkg f).core x = s.core x := rfl
@[simp] theorem modPwr_core (s : State) (f : Power → Power) (x : Nat) : (s.modPwr f).core x = s.core x := rfl
@[simp] theorem modHost_core (s : State) (f : HostSide → HostSide) (x : Nat) : (s.modHost f).core x = s.core x := rfl
@[simp] theorem modFab_core (s : State) (f : Fabric → Fabric) (x : Nat) : (s.modFab f).core x = s.core x := rfl
@[simp] theorem modSvc_core (s : State) (f : Services → Services) (x : Nat) : (s.modSvc f).core x = s.core x := rfl
@[simp] theorem setByte_core (s : State) (a : Nat) (b : Byte) (x : Nat) : (s.setByte a b).core x = s.core x := rfl

@[simp] theorem setTenant_tenant (s : State) (t x : Nat) (k : Tenant) : (s.setTenant t k).tenant x = if x = t then k else s.tenant x := by
  simp [State.tenant, Map.get_put]
@[simp] theorem setCore_tenant (s : State) (c : Nat) (k : Core) (x : Nat) : (s.setCore c k).tenant x = s.tenant x := rfl
@[simp] theorem setGroup_tenant (s : State) (g : Nat) (k : Group) (x : Nat) : (s.setGroup g k).tenant x = s.tenant x := rfl
@[simp] theorem setBlock_tenant (s : State) (b : Nat) (k : Block) (x : Nat) : (s.setBlock b k).tenant x = s.tenant x := rfl
@[simp] theorem setEvent_tenant (s : State) (e : Nat) (k : EvEntry) (x : Nat) : (s.setEvent e k).tenant x = s.tenant x := rfl
@[simp] theorem setPort_tenant (s : State) (p : Nat) (k : Port) (x : Nat) : (s.setPort p k).tenant x = s.tenant x := rfl
@[simp] theorem modPkg_tenant (s : State) (f : Package → Package) (x : Nat) : (s.modPkg f).tenant x = s.tenant x := rfl
@[simp] theorem modPwr_tenant (s : State) (f : Power → Power) (x : Nat) : (s.modPwr f).tenant x = s.tenant x := rfl
@[simp] theorem modHost_tenant (s : State) (f : HostSide → HostSide) (x : Nat) : (s.modHost f).tenant x = s.tenant x := rfl
@[simp] theorem modFab_tenant (s : State) (f : Fabric → Fabric) (x : Nat) : (s.modFab f).tenant x = s.tenant x := rfl
@[simp] theorem modSvc_tenant (s : State) (f : Services → Services) (x : Nat) : (s.modSvc f).tenant x = s.tenant x := rfl
@[simp] theorem setByte_tenant (s : State) (a : Nat) (b : Byte) (x : Nat) : (s.setByte a b).tenant x = s.tenant x := rfl

@[simp] theorem setGroup_group (s : State) (g x : Nat) (k : Group) : (s.setGroup g k).group x = if x = g then k else s.group x := by
  simp [State.group, Map.get_put]
@[simp] theorem setCore_group (s : State) (c : Nat) (k : Core) (x : Nat) : (s.setCore c k).group x = s.group x := rfl
@[simp] theorem setTenant_group (s : State) (t : Nat) (k : Tenant) (x : Nat) : (s.setTenant t k).group x = s.group x := rfl
@[simp] theorem setBlock_group (s : State) (b : Nat) (k : Block) (x : Nat) : (s.setBlock b k).group x = s.group x := rfl
@[simp] theorem setEvent_group (s : State) (e : Nat) (k : EvEntry) (x : Nat) : (s.setEvent e k).group x = s.group x := rfl
@[simp] theorem setPort_group (s : State) (p : Nat) (k : Port) (x : Nat) : (s.setPort p k).group x = s.group x := rfl
@[simp] theorem modPkg_group (s : State) (f : Package → Package) (x : Nat) : (s.modPkg f).group x = s.group x := rfl
@[simp] theorem modPwr_group (s : State) (f : Power → Power) (x : Nat) : (s.modPwr f).group x = s.group x := rfl
@[simp] theorem modHost_group (s : State) (f : HostSide → HostSide) (x : Nat) : (s.modHost f).group x = s.group x := rfl
@[simp] theorem modFab_group (s : State) (f : Fabric → Fabric) (x : Nat) : (s.modFab f).group x = s.group x := rfl
@[simp] theorem modSvc_group (s : State) (f : Services → Services) (x : Nat) : (s.modSvc f).group x = s.group x := rfl
@[simp] theorem setByte_group (s : State) (a : Nat) (b : Byte) (x : Nat) : (s.setByte a b).group x = s.group x := rfl

@[simp] theorem setEvent_event (s : State) (e x : Nat) (k : EvEntry) : (s.setEvent e k).event x = if x = e then k else s.event x := by
  simp [State.event, Map.get_put]
@[simp] theorem setCore_event (s : State) (c : Nat) (k : Core) (x : Nat) : (s.setCore c k).event x = s.event x := rfl
@[simp] theorem setTenant_event (s : State) (t : Nat) (k : Tenant) (x : Nat) : (s.setTenant t k).event x = s.event x := rfl
@[simp] theorem setGroup_event (s : State) (g : Nat) (k : Group) (x : Nat) : (s.setGroup g k).event x = s.event x := rfl
@[simp] theorem setBlock_event (s : State) (b : Nat) (k : Block) (x : Nat) : (s.setBlock b k).event x = s.event x := rfl
@[simp] theorem setPort_event (s : State) (p : Nat) (k : Port) (x : Nat) : (s.setPort p k).event x = s.event x := rfl
@[simp] theorem modPkg_event (s : State) (f : Package → Package) (x : Nat) : (s.modPkg f).event x = s.event x := rfl
@[simp] theorem modPwr_event (s : State) (f : Power → Power) (x : Nat) : (s.modPwr f).event x = s.event x := rfl
@[simp] theorem modHost_event (s : State) (f : HostSide → HostSide) (x : Nat) : (s.modHost f).event x = s.event x := rfl
@[simp] theorem modFab_event (s : State) (f : Fabric → Fabric) (x : Nat) : (s.modFab f).event x = s.event x := rfl
@[simp] theorem modSvc_event (s : State) (f : Services → Services) (x : Nat) : (s.modSvc f).event x = s.event x := rfl
@[simp] theorem setByte_event (s : State) (a : Nat) (b : Byte) (x : Nat) : (s.setByte a b).event x = s.event x := rfl

@[simp] theorem modTenant_tenant (s : State) (t x : Nat) (f : Tenant → Tenant) :
    (s.modTenant t f).tenant x = if x = t then f (s.tenant t) else s.tenant x := by simp [modTenant_eq]
@[simp] theorem modCore_core (s : State) (c x : Nat) (f : Core → Core) :
    (s.modCore c f).core x = if x = c then f (s.core c) else s.core x := by simp [modCore_eq]
@[simp] theorem modEvent_event (s : State) (e x : Nat) (f : EvEntry → EvEntry) :
    (s.modEvent e f).event x = if x = e then f (s.event e) else s.event x := by simp [modEvent_eq]

@[simp] theorem modCore_mem (s : State) (c : Nat) (f : Core → Core) : (s.modCore c f).mem = s.mem := rfl
@[simp] theorem modCore_poison (s : State) (c : Nat) (f : Core → Core) : (s.modCore c f).poison = s.poison := rfl
@[simp] theorem modCore_poisonFrom (s : State) (c : Nat) (f : Core → Core) : (s.modCore c f).poisonFrom = s.poisonFrom := rfl
@[simp] theorem modCore_owned (s : State) (c : Nat) (f : Core → Core) : (s.modCore c f).owned = s.owned := rfl
@[simp] theorem modCore_pewKey (s : State) (c : Nat) (f : Core → Core) : (s.modCore c f).pewKey = s.pewKey := rfl
@[simp] theorem modCore_tlb2 (s : State) (c : Nat) (f : Core → Core) : (s.modCore c f).tlb2 = s.tlb2 := rfl
@[simp] theorem modCore_groups (s : State) (c : Nat) (f : Core → Core) : (s.modCore c f).groups = s.groups := rfl
@[simp] theorem modCore_blocks (s : State) (c : Nat) (f : Core → Core) : (s.modCore c f).blocks = s.blocks := rfl
@[simp] theorem modCore_tenants (s : State) (c : Nat) (f : Core → Core) : (s.modCore c f).tenants = s.tenants := rfl
@[simp] theorem modCore_events (s : State) (c : Nat) (f : Core → Core) : (s.modCore c f).events = s.events := rfl
@[simp] theorem modCore_pool (s : State) (c : Nat) (f : Core → Core) : (s.modCore c f).pool = s.pool := rfl
@[simp] theorem modCore_outside (s : State) (c : Nat) (f : Core → Core) : (s.modCore c f).outside = s.outside := rfl
@[simp] theorem modCore_outSubs (s : State) (c : Nat) (f : Core → Core) : (s.modCore c f).outSubs = s.outSubs := rfl
@[simp] theorem modCore_inSubs (s : State) (c : Nat) (f : Core → Core) : (s.modCore c f).inSubs = s.inSubs := rfl
@[simp] theorem modCore_sorOwner (s : State) (c : Nat) (f : Core → Core) : (s.modCore c f).sorOwner = s.sorOwner := rfl
@[simp] theorem modCore_slots (s : State) (c : Nat) (f : Core → Core) : (s.modCore c f).slots = s.slots := rfl
@[simp] theorem modCore_shadow (s : State) (c : Nat) (f : Core → Core) : (s.modCore c f).shadow = s.shadow := rfl
@[simp] theorem modCore_pwr (s : State) (c : Nat) (f : Core → Core) : (s.modCore c f).pwr = s.pwr := rfl
@[simp] theorem modCore_pkg (s : State) (c : Nat) (f : Core → Core) : (s.modCore c f).pkg = s.pkg := rfl
@[simp] theorem modCore_host (s : State) (c : Nat) (f : Core → Core) : (s.modCore c f).host = s.host := rfl
@[simp] theorem modCore_fab (s : State) (c : Nat) (f : Core → Core) : (s.modCore c f).fab = s.fab := rfl
@[simp] theorem modCore_svc (s : State) (c : Nat) (f : Core → Core) : (s.modCore c f).svc = s.svc := rfl
@[simp] theorem modCore_agenda (s : State) (c : Nat) (f : Core → Core) : (s.modCore c f).agenda = s.agenda := rfl
@[simp] theorem modCore_turn (s : State) (c : Nat) (f : Core → Core) : (s.modCore c f).turn = s.turn := rfl
@[simp] theorem modCore_cur (s : State) (c : Nat) (f : Core → Core) : (s.modCore c f).cur = s.cur := rfl
@[simp] theorem modCore_freeCount (s : State) (c : Nat) (f : Core → Core) : (s.modCore c f).freeCount = s.freeCount := rfl
@[simp] theorem modCore_serial (s : State) (c : Nat) (f : Core → Core) : (s.modCore c f).serial = s.serial := rfl
@[simp] theorem modTenant_mem (s : State) (t : Nat) (f : Tenant → Tenant) : (s.modTenant t f).mem = s.mem := rfl
@[simp] theorem modTenant_poison (s : State) (t : Nat) (f : Tenant → Tenant) : (s.modTenant t f).poison = s.poison := rfl
@[simp] theorem modTenant_poisonFrom (s : State) (t : Nat) (f : Tenant → Tenant) : (s.modTenant t f).poisonFrom = s.poisonFrom := rfl
@[simp] theorem modTenant_owned (s : State) (t : Nat) (f : Tenant → Tenant) : (s.modTenant t f).owned = s.owned := rfl
@[simp] theorem modTenant_pewKey (s : State) (t : Nat) (f : Tenant → Tenant) : (s.modTenant t f).pewKey = s.pewKey := rfl
@[simp] theorem modTenant_cores (s : State) (t : Nat) (f : Tenant → Tenant) : (s.modTenant t f).cores = s.cores := rfl
@[simp] theorem modTenant_tlb2 (s : State) (t : Nat) (f : Tenant → Tenant) : (s.modTenant t f).tlb2 = s.tlb2 := rfl
@[simp] theorem modTenant_groups (s : State) (t : Nat) (f : Tenant → Tenant) : (s.modTenant t f).groups = s.groups := rfl
@[simp] theorem modTenant_blocks (s : State) (t : Nat) (f : Tenant → Tenant) : (s.modTenant t f).blocks = s.blocks := rfl
@[simp] theorem modTenant_events (s : State) (t : Nat) (f : Tenant → Tenant) : (s.modTenant t f).events = s.events := rfl
@[simp] theorem modTenant_pool (s : State) (t : Nat) (f : Tenant → Tenant) : (s.modTenant t f).pool = s.pool := rfl
@[simp] theorem modTenant_outside (s : State) (t : Nat) (f : Tenant → Tenant) : (s.modTenant t f).outside = s.outside := rfl
@[simp] theorem modTenant_outSubs (s : State) (t : Nat) (f : Tenant → Tenant) : (s.modTenant t f).outSubs = s.outSubs := rfl
@[simp] theorem modTenant_inSubs (s : State) (t : Nat) (f : Tenant → Tenant) : (s.modTenant t f).inSubs = s.inSubs := rfl
@[simp] theorem modTenant_sorOwner (s : State) (t : Nat) (f : Tenant → Tenant) : (s.modTenant t f).sorOwner = s.sorOwner := rfl
@[simp] theorem modTenant_slots (s : State) (t : Nat) (f : Tenant → Tenant) : (s.modTenant t f).slots = s.slots := rfl
@[simp] theorem modTenant_shadow (s : State) (t : Nat) (f : Tenant → Tenant) : (s.modTenant t f).shadow = s.shadow := rfl
@[simp] theorem modTenant_pwr (s : State) (t : Nat) (f : Tenant → Tenant) : (s.modTenant t f).pwr = s.pwr := rfl
@[simp] theorem modTenant_pkg (s : State) (t : Nat) (f : Tenant → Tenant) : (s.modTenant t f).pkg = s.pkg := rfl
@[simp] theorem modTenant_host (s : State) (t : Nat) (f : Tenant → Tenant) : (s.modTenant t f).host = s.host := rfl
@[simp] theorem modTenant_fab (s : State) (t : Nat) (f : Tenant → Tenant) : (s.modTenant t f).fab = s.fab := rfl
@[simp] theorem modTenant_svc (s : State) (t : Nat) (f : Tenant → Tenant) : (s.modTenant t f).svc = s.svc := rfl
@[simp] theorem modTenant_agenda (s : State) (t : Nat) (f : Tenant → Tenant) : (s.modTenant t f).agenda = s.agenda := rfl
@[simp] theorem modTenant_turn (s : State) (t : Nat) (f : Tenant → Tenant) : (s.modTenant t f).turn = s.turn := rfl
@[simp] theorem modTenant_cur (s : State) (t : Nat) (f : Tenant → Tenant) : (s.modTenant t f).cur = s.cur := rfl
@[simp] theorem modTenant_freeCount (s : State) (t : Nat) (f : Tenant → Tenant) : (s.modTenant t f).freeCount = s.freeCount := rfl
@[simp] theorem modTenant_serial (s : State) (t : Nat) (f : Tenant → Tenant) : (s.modTenant t f).serial = s.serial := rfl
@[simp] theorem modGroup_mem (s : State) (g : Nat) (f : Group → Group) : (s.modGroup g f).mem = s.mem := rfl
@[simp] theorem modGroup_poison (s : State) (g : Nat) (f : Group → Group) : (s.modGroup g f).poison = s.poison := rfl
@[simp] theorem modGroup_poisonFrom (s : State) (g : Nat) (f : Group → Group) : (s.modGroup g f).poisonFrom = s.poisonFrom := rfl
@[simp] theorem modGroup_owned (s : State) (g : Nat) (f : Group → Group) : (s.modGroup g f).owned = s.owned := rfl
@[simp] theorem modGroup_pewKey (s : State) (g : Nat) (f : Group → Group) : (s.modGroup g f).pewKey = s.pewKey := rfl
@[simp] theorem modGroup_cores (s : State) (g : Nat) (f : Group → Group) : (s.modGroup g f).cores = s.cores := rfl
@[simp] theorem modGroup_tlb2 (s : State) (g : Nat) (f : Group → Group) : (s.modGroup g f).tlb2 = s.tlb2 := rfl
@[simp] theorem modGroup_blocks (s : State) (g : Nat) (f : Group → Group) : (s.modGroup g f).blocks = s.blocks := rfl
@[simp] theorem modGroup_tenants (s : State) (g : Nat) (f : Group → Group) : (s.modGroup g f).tenants = s.tenants := rfl
@[simp] theorem modGroup_events (s : State) (g : Nat) (f : Group → Group) : (s.modGroup g f).events = s.events := rfl
@[simp] theorem modGroup_pool (s : State) (g : Nat) (f : Group → Group) : (s.modGroup g f).pool = s.pool := rfl
@[simp] theorem modGroup_outside (s : State) (g : Nat) (f : Group → Group) : (s.modGroup g f).outside = s.outside := rfl
@[simp] theorem modGroup_outSubs (s : State) (g : Nat) (f : Group → Group) : (s.modGroup g f).outSubs = s.outSubs := rfl
@[simp] theorem modGroup_inSubs (s : State) (g : Nat) (f : Group → Group) : (s.modGroup g f).inSubs = s.inSubs := rfl
@[simp] theorem modGroup_sorOwner (s : State) (g : Nat) (f : Group → Group) : (s.modGroup g f).sorOwner = s.sorOwner := rfl
@[simp] theorem modGroup_slots (s : State) (g : Nat) (f : Group → Group) : (s.modGroup g f).slots = s.slots := rfl
@[simp] theorem modGroup_shadow (s : State) (g : Nat) (f : Group → Group) : (s.modGroup g f).shadow = s.shadow := rfl
@[simp] theorem modGroup_pwr (s : State) (g : Nat) (f : Group → Group) : (s.modGroup g f).pwr = s.pwr := rfl
@[simp] theorem modGroup_pkg (s : State) (g : Nat) (f : Group → Group) : (s.modGroup g f).pkg = s.pkg := rfl
@[simp] theorem modGroup_host (s : State) (g : Nat) (f : Group → Group) : (s.modGroup g f).host = s.host := rfl
@[simp] theorem modGroup_fab (s : State) (g : Nat) (f : Group → Group) : (s.modGroup g f).fab = s.fab := rfl
@[simp] theorem modGroup_svc (s : State) (g : Nat) (f : Group → Group) : (s.modGroup g f).svc = s.svc := rfl
@[simp] theorem modGroup_agenda (s : State) (g : Nat) (f : Group → Group) : (s.modGroup g f).agenda = s.agenda := rfl
@[simp] theorem modGroup_turn (s : State) (g : Nat) (f : Group → Group) : (s.modGroup g f).turn = s.turn := rfl
@[simp] theorem modGroup_cur (s : State) (g : Nat) (f : Group → Group) : (s.modGroup g f).cur = s.cur := rfl
@[simp] theorem modGroup_freeCount (s : State) (g : Nat) (f : Group → Group) : (s.modGroup g f).freeCount = s.freeCount := rfl
@[simp] theorem modGroup_serial (s : State) (g : Nat) (f : Group → Group) : (s.modGroup g f).serial = s.serial := rfl
@[simp] theorem modEvent_mem (s : State) (e : Nat) (f : EvEntry → EvEntry) : (s.modEvent e f).mem = s.mem := rfl
@[simp] theorem modEvent_poison (s : State) (e : Nat) (f : EvEntry → EvEntry) : (s.modEvent e f).poison = s.poison := rfl
@[simp] theorem modEvent_poisonFrom (s : State) (e : Nat) (f : EvEntry → EvEntry) : (s.modEvent e f).poisonFrom = s.poisonFrom := rfl
@[simp] theorem modEvent_owned (s : State) (e : Nat) (f : EvEntry → EvEntry) : (s.modEvent e f).owned = s.owned := rfl
@[simp] theorem modEvent_pewKey (s : State) (e : Nat) (f : EvEntry → EvEntry) : (s.modEvent e f).pewKey = s.pewKey := rfl
@[simp] theorem modEvent_cores (s : State) (e : Nat) (f : EvEntry → EvEntry) : (s.modEvent e f).cores = s.cores := rfl
@[simp] theorem modEvent_tlb2 (s : State) (e : Nat) (f : EvEntry → EvEntry) : (s.modEvent e f).tlb2 = s.tlb2 := rfl
@[simp] theorem modEvent_groups (s : State) (e : Nat) (f : EvEntry → EvEntry) : (s.modEvent e f).groups = s.groups := rfl
@[simp] theorem modEvent_blocks (s : State) (e : Nat) (f : EvEntry → EvEntry) : (s.modEvent e f).blocks = s.blocks := rfl
@[simp] theorem modEvent_tenants (s : State) (e : Nat) (f : EvEntry → EvEntry) : (s.modEvent e f).tenants = s.tenants := rfl
@[simp] theorem modEvent_pool (s : State) (e : Nat) (f : EvEntry → EvEntry) : (s.modEvent e f).pool = s.pool := rfl
@[simp] theorem modEvent_outside (s : State) (e : Nat) (f : EvEntry → EvEntry) : (s.modEvent e f).outside = s.outside := rfl
@[simp] theorem modEvent_outSubs (s : State) (e : Nat) (f : EvEntry → EvEntry) : (s.modEvent e f).outSubs = s.outSubs := rfl
@[simp] theorem modEvent_inSubs (s : State) (e : Nat) (f : EvEntry → EvEntry) : (s.modEvent e f).inSubs = s.inSubs := rfl
@[simp] theorem modEvent_sorOwner (s : State) (e : Nat) (f : EvEntry → EvEntry) : (s.modEvent e f).sorOwner = s.sorOwner := rfl
@[simp] theorem modEvent_slots (s : State) (e : Nat) (f : EvEntry → EvEntry) : (s.modEvent e f).slots = s.slots := rfl
@[simp] theorem modEvent_shadow (s : State) (e : Nat) (f : EvEntry → EvEntry) : (s.modEvent e f).shadow = s.shadow := rfl
@[simp] theorem modEvent_pwr (s : State) (e : Nat) (f : EvEntry → EvEntry) : (s.modEvent e f).pwr = s.pwr := rfl
@[simp] theorem modEvent_pkg (s : State) (e : Nat) (f : EvEntry → EvEntry) : (s.modEvent e f).pkg = s.pkg := rfl
@[simp] theorem modEvent_host (s : State) (e : Nat) (f : EvEntry → EvEntry) : (s.modEvent e f).host = s.host := rfl
@[simp] theorem modEvent_fab (s : State) (e : Nat) (f : EvEntry → EvEntry) : (s.modEvent e f).fab = s.fab := rfl
@[simp] theorem modEvent_svc (s : State) (e : Nat) (f : EvEntry → EvEntry) : (s.modEvent e f).svc = s.svc := rfl
@[simp] theorem modEvent_agenda (s : State) (e : Nat) (f : EvEntry → EvEntry) : (s.modEvent e f).agenda = s.agenda := rfl
@[simp] theorem modEvent_turn (s : State) (e : Nat) (f : EvEntry → EvEntry) : (s.modEvent e f).turn = s.turn := rfl
@[simp] theorem modEvent_cur (s : State) (e : Nat) (f : EvEntry → EvEntry) : (s.modEvent e f).cur = s.cur := rfl
@[simp] theorem modEvent_freeCount (s : State) (e : Nat) (f : EvEntry → EvEntry) : (s.modEvent e f).freeCount = s.freeCount := rfl
@[simp] theorem modEvent_serial (s : State) (e : Nat) (f : EvEntry → EvEntry) : (s.modEvent e f).serial = s.serial := rfl
@[simp] theorem modPort_mem (s : State) (p : Nat) (f : Port → Port) : (s.modPort p f).mem = s.mem := rfl
@[simp] theorem modPort_poison (s : State) (p : Nat) (f : Port → Port) : (s.modPort p f).poison = s.poison := rfl
@[simp] theorem modPort_poisonFrom (s : State) (p : Nat) (f : Port → Port) : (s.modPort p f).poisonFrom = s.poisonFrom := rfl
@[simp] theorem modPort_owned (s : State) (p : Nat) (f : Port → Port) : (s.modPort p f).owned = s.owned := rfl
@[simp] theorem modPort_pewKey (s : State) (p : Nat) (f : Port → Port) : (s.modPort p f).pewKey = s.pewKey := rfl
@[simp] theorem modPort_cores (s : State) (p : Nat) (f : Port → Port) : (s.modPort p f).cores = s.cores := rfl
@[simp] theorem modPort_tlb2 (s : State) (p : Nat) (f : Port → Port) : (s.modPort p f).tlb2 = s.tlb2 := rfl
@[simp] theorem modPort_groups (s : State) (p : Nat) (f : Port → Port) : (s.modPort p f).groups = s.groups := rfl
@[simp] theorem modPort_blocks (s : State) (p : Nat) (f : Port → Port) : (s.modPort p f).blocks = s.blocks := rfl
@[simp] theorem modPort_tenants (s : State) (p : Nat) (f : Port → Port) : (s.modPort p f).tenants = s.tenants := rfl
@[simp] theorem modPort_events (s : State) (p : Nat) (f : Port → Port) : (s.modPort p f).events = s.events := rfl
@[simp] theorem modPort_pool (s : State) (p : Nat) (f : Port → Port) : (s.modPort p f).pool = s.pool := rfl
@[simp] theorem modPort_outside (s : State) (p : Nat) (f : Port → Port) : (s.modPort p f).outside = s.outside := rfl
@[simp] theorem modPort_outSubs (s : State) (p : Nat) (f : Port → Port) : (s.modPort p f).outSubs = s.outSubs := rfl
@[simp] theorem modPort_inSubs (s : State) (p : Nat) (f : Port → Port) : (s.modPort p f).inSubs = s.inSubs := rfl
@[simp] theorem modPort_sorOwner (s : State) (p : Nat) (f : Port → Port) : (s.modPort p f).sorOwner = s.sorOwner := rfl
@[simp] theorem modPort_slots (s : State) (p : Nat) (f : Port → Port) : (s.modPort p f).slots = s.slots := rfl
@[simp] theorem modPort_shadow (s : State) (p : Nat) (f : Port → Port) : (s.modPort p f).shadow = s.shadow := rfl
@[simp] theorem modPort_pwr (s : State) (p : Nat) (f : Port → Port) : (s.modPort p f).pwr = s.pwr := rfl
@[simp] theorem modPort_pkg (s : State) (p : Nat) (f : Port → Port) : (s.modPort p f).pkg = s.pkg := rfl
@[simp] theorem modPort_host (s : State) (p : Nat) (f : Port → Port) : (s.modPort p f).host = s.host := rfl
@[simp] theorem modPort_svc (s : State) (p : Nat) (f : Port → Port) : (s.modPort p f).svc = s.svc := rfl
@[simp] theorem modPort_agenda (s : State) (p : Nat) (f : Port → Port) : (s.modPort p f).agenda = s.agenda := rfl
@[simp] theorem modPort_turn (s : State) (p : Nat) (f : Port → Port) : (s.modPort p f).turn = s.turn := rfl
@[simp] theorem modPort_cur (s : State) (p : Nat) (f : Port → Port) : (s.modPort p f).cur = s.cur := rfl
@[simp] theorem modPort_freeCount (s : State) (p : Nat) (f : Port → Port) : (s.modPort p f).freeCount = s.freeCount := rfl
@[simp] theorem modPort_serial (s : State) (p : Nat) (f : Port → Port) : (s.modPort p f).serial = s.serial := rfl
@[simp] theorem modQueue_mem (s : State) (t q : Nat) (f : Queue → Queue) : (s.modQueue t q f).mem = s.mem := rfl
@[simp] theorem modQueue_poison (s : State) (t q : Nat) (f : Queue → Queue) : (s.modQueue t q f).poison = s.poison := rfl
@[simp] theorem modQueue_poisonFrom (s : State) (t q : Nat) (f : Queue → Queue) : (s.modQueue t q f).poisonFrom = s.poisonFrom := rfl
@[simp] theorem modQueue_owned (s : State) (t q : Nat) (f : Queue → Queue) : (s.modQueue t q f).owned = s.owned := rfl
@[simp] theorem modQueue_pewKey (s : State) (t q : Nat) (f : Queue → Queue) : (s.modQueue t q f).pewKey = s.pewKey := rfl
@[simp] theorem modQueue_cores (s : State) (t q : Nat) (f : Queue → Queue) : (s.modQueue t q f).cores = s.cores := rfl
@[simp] theorem modQueue_tlb2 (s : State) (t q : Nat) (f : Queue → Queue) : (s.modQueue t q f).tlb2 = s.tlb2 := rfl
@[simp] theorem modQueue_groups (s : State) (t q : Nat) (f : Queue → Queue) : (s.modQueue t q f).groups = s.groups := rfl
@[simp] theorem modQueue_blocks (s : State) (t q : Nat) (f : Queue → Queue) : (s.modQueue t q f).blocks = s.blocks := rfl
@[simp] theorem modQueue_events (s : State) (t q : Nat) (f : Queue → Queue) : (s.modQueue t q f).events = s.events := rfl
@[simp] theorem modQueue_pool (s : State) (t q : Nat) (f : Queue → Queue) : (s.modQueue t q f).pool = s.pool := rfl
@[simp] theorem modQueue_outside (s : State) (t q : Nat) (f : Queue → Queue) : (s.modQueue t q f).outside = s.outside := rfl
@[simp] theorem modQueue_outSubs (s : State) (t q : Nat) (f : Queue → Queue) : (s.modQueue t q f).outSubs = s.outSubs := rfl
@[simp] theorem modQueue_inSubs (s : State) (t q : Nat) (f : Queue → Queue) : (s.modQueue t q f).inSubs = s.inSubs := rfl
@[simp] theorem modQueue_sorOwner (s : State) (t q : Nat) (f : Queue → Queue) : (s.modQueue t q f).sorOwner = s.sorOwner := rfl
@[simp] theorem modQueue_slots (s : State) (t q : Nat) (f : Queue → Queue) : (s.modQueue t q f).slots = s.slots := rfl
@[simp] theorem modQueue_shadow (s : State) (t q : Nat) (f : Queue → Queue) : (s.modQueue t q f).shadow = s.shadow := rfl
@[simp] theorem modQueue_pwr (s : State) (t q : Nat) (f : Queue → Queue) : (s.modQueue t q f).pwr = s.pwr := rfl
@[simp] theorem modQueue_pkg (s : State) (t q : Nat) (f : Queue → Queue) : (s.modQueue t q f).pkg = s.pkg := rfl
@[simp] theorem modQueue_host (s : State) (t q : Nat) (f : Queue → Queue) : (s.modQueue t q f).host = s.host := rfl
@[simp] theorem modQueue_fab (s : State) (t q : Nat) (f : Queue → Queue) : (s.modQueue t q f).fab = s.fab := rfl
@[simp] theorem modQueue_svc (s : State) (t q : Nat) (f : Queue → Queue) : (s.modQueue t q f).svc = s.svc := rfl
@[simp] theorem modQueue_agenda (s : State) (t q : Nat) (f : Queue → Queue) : (s.modQueue t q f).agenda = s.agenda := rfl
@[simp] theorem modQueue_turn (s : State) (t q : Nat) (f : Queue → Queue) : (s.modQueue t q f).turn = s.turn := rfl
@[simp] theorem modQueue_cur (s : State) (t q : Nat) (f : Queue → Queue) : (s.modQueue t q f).cur = s.cur := rfl
@[simp] theorem modQueue_freeCount (s : State) (t q : Nat) (f : Queue → Queue) : (s.modQueue t q f).freeCount = s.freeCount := rfl
@[simp] theorem modQueue_serial (s : State) (t q : Nat) (f : Queue → Queue) : (s.modQueue t q f).serial = s.serial := rfl
@[simp] theorem modStripe_mem (s : State) (t i : Nat) (f : Stripe → Stripe) : (s.modStripe t i f).mem = s.mem := rfl
@[simp] theorem modStripe_poison (s : State) (t i : Nat) (f : Stripe → Stripe) : (s.modStripe t i f).poison = s.poison := rfl
@[simp] theorem modStripe_poisonFrom (s : State) (t i : Nat) (f : Stripe → Stripe) : (s.modStripe t i f).poisonFrom = s.poisonFrom := rfl
@[simp] theorem modStripe_owned (s : State) (t i : Nat) (f : Stripe → Stripe) : (s.modStripe t i f).owned = s.owned := rfl
@[simp] theorem modStripe_pewKey (s : State) (t i : Nat) (f : Stripe → Stripe) : (s.modStripe t i f).pewKey = s.pewKey := rfl
@[simp] theorem modStripe_cores (s : State) (t i : Nat) (f : Stripe → Stripe) : (s.modStripe t i f).cores = s.cores := rfl
@[simp] theorem modStripe_tlb2 (s : State) (t i : Nat) (f : Stripe → Stripe) : (s.modStripe t i f).tlb2 = s.tlb2 := rfl
@[simp] theorem modStripe_groups (s : State) (t i : Nat) (f : Stripe → Stripe) : (s.modStripe t i f).groups = s.groups := rfl
@[simp] theorem modStripe_blocks (s : State) (t i : Nat) (f : Stripe → Stripe) : (s.modStripe t i f).blocks = s.blocks := rfl
@[simp] theorem modStripe_events (s : State) (t i : Nat) (f : Stripe → Stripe) : (s.modStripe t i f).events = s.events := rfl
@[simp] theorem modStripe_pool (s : State) (t i : Nat) (f : Stripe → Stripe) : (s.modStripe t i f).pool = s.pool := rfl
@[simp] theorem modStripe_outside (s : State) (t i : Nat) (f : Stripe → Stripe) : (s.modStripe t i f).outside = s.outside := rfl
@[simp] theorem modStripe_outSubs (s : State) (t i : Nat) (f : Stripe → Stripe) : (s.modStripe t i f).outSubs = s.outSubs := rfl
@[simp] theorem modStripe_inSubs (s : State) (t i : Nat) (f : Stripe → Stripe) : (s.modStripe t i f).inSubs = s.inSubs := rfl
@[simp] theorem modStripe_sorOwner (s : State) (t i : Nat) (f : Stripe → Stripe) : (s.modStripe t i f).sorOwner = s.sorOwner := rfl
@[simp] theorem modStripe_slots (s : State) (t i : Nat) (f : Stripe → Stripe) : (s.modStripe t i f).slots = s.slots := rfl
@[simp] theorem modStripe_shadow (s : State) (t i : Nat) (f : Stripe → Stripe) : (s.modStripe t i f).shadow = s.shadow := rfl
@[simp] theorem modStripe_pwr (s : State) (t i : Nat) (f : Stripe → Stripe) : (s.modStripe t i f).pwr = s.pwr := rfl
@[simp] theorem modStripe_pkg (s : State) (t i : Nat) (f : Stripe → Stripe) : (s.modStripe t i f).pkg = s.pkg := rfl
@[simp] theorem modStripe_host (s : State) (t i : Nat) (f : Stripe → Stripe) : (s.modStripe t i f).host = s.host := rfl
@[simp] theorem modStripe_fab (s : State) (t i : Nat) (f : Stripe → Stripe) : (s.modStripe t i f).fab = s.fab := rfl
@[simp] theorem modStripe_svc (s : State) (t i : Nat) (f : Stripe → Stripe) : (s.modStripe t i f).svc = s.svc := rfl
@[simp] theorem modStripe_agenda (s : State) (t i : Nat) (f : Stripe → Stripe) : (s.modStripe t i f).agenda = s.agenda := rfl
@[simp] theorem modStripe_turn (s : State) (t i : Nat) (f : Stripe → Stripe) : (s.modStripe t i f).turn = s.turn := rfl
@[simp] theorem modStripe_cur (s : State) (t i : Nat) (f : Stripe → Stripe) : (s.modStripe t i f).cur = s.cur := rfl
@[simp] theorem modStripe_freeCount (s : State) (t i : Nat) (f : Stripe → Stripe) : (s.modStripe t i f).freeCount = s.freeCount := rfl
@[simp] theorem modStripe_serial (s : State) (t i : Nat) (f : Stripe → Stripe) : (s.modStripe t i f).serial = s.serial := rfl
@[simp] theorem modFq_mem (s : State) (t : Nat) (f : FaultQueue → FaultQueue) : (s.modFq t f).mem = s.mem := rfl
@[simp] theorem modFq_poison (s : State) (t : Nat) (f : FaultQueue → FaultQueue) : (s.modFq t f).poison = s.poison := rfl
@[simp] theorem modFq_poisonFrom (s : State) (t : Nat) (f : FaultQueue → FaultQueue) : (s.modFq t f).poisonFrom = s.poisonFrom := rfl
@[simp] theorem modFq_owned (s : State) (t : Nat) (f : FaultQueue → FaultQueue) : (s.modFq t f).owned = s.owned := rfl
@[simp] theorem modFq_pewKey (s : State) (t : Nat) (f : FaultQueue → FaultQueue) : (s.modFq t f).pewKey = s.pewKey := rfl
@[simp] theorem modFq_cores (s : State) (t : Nat) (f : FaultQueue → FaultQueue) : (s.modFq t f).cores = s.cores := rfl
@[simp] theorem modFq_tlb2 (s : State) (t : Nat) (f : FaultQueue → FaultQueue) : (s.modFq t f).tlb2 = s.tlb2 := rfl
@[simp] theorem modFq_groups (s : State) (t : Nat) (f : FaultQueue → FaultQueue) : (s.modFq t f).groups = s.groups := rfl
@[simp] theorem modFq_blocks (s : State) (t : Nat) (f : FaultQueue → FaultQueue) : (s.modFq t f).blocks = s.blocks := rfl
@[simp] theorem modFq_events (s : State) (t : Nat) (f : FaultQueue → FaultQueue) : (s.modFq t f).events = s.events := rfl
@[simp] theorem modFq_pool (s : State) (t : Nat) (f : FaultQueue → FaultQueue) : (s.modFq t f).pool = s.pool := rfl
@[simp] theorem modFq_outside (s : State) (t : Nat) (f : FaultQueue → FaultQueue) : (s.modFq t f).outside = s.outside := rfl
@[simp] theorem modFq_outSubs (s : State) (t : Nat) (f : FaultQueue → FaultQueue) : (s.modFq t f).outSubs = s.outSubs := rfl
@[simp] theorem modFq_inSubs (s : State) (t : Nat) (f : FaultQueue → FaultQueue) : (s.modFq t f).inSubs = s.inSubs := rfl
@[simp] theorem modFq_sorOwner (s : State) (t : Nat) (f : FaultQueue → FaultQueue) : (s.modFq t f).sorOwner = s.sorOwner := rfl
@[simp] theorem modFq_slots (s : State) (t : Nat) (f : FaultQueue → FaultQueue) : (s.modFq t f).slots = s.slots := rfl
@[simp] theorem modFq_shadow (s : State) (t : Nat) (f : FaultQueue → FaultQueue) : (s.modFq t f).shadow = s.shadow := rfl
@[simp] theorem modFq_pwr (s : State) (t : Nat) (f : FaultQueue → FaultQueue) : (s.modFq t f).pwr = s.pwr := rfl
@[simp] theorem modFq_pkg (s : State) (t : Nat) (f : FaultQueue → FaultQueue) : (s.modFq t f).pkg = s.pkg := rfl
@[simp] theorem modFq_host (s : State) (t : Nat) (f : FaultQueue → FaultQueue) : (s.modFq t f).host = s.host := rfl
@[simp] theorem modFq_fab (s : State) (t : Nat) (f : FaultQueue → FaultQueue) : (s.modFq t f).fab = s.fab := rfl
@[simp] theorem modFq_svc (s : State) (t : Nat) (f : FaultQueue → FaultQueue) : (s.modFq t f).svc = s.svc := rfl
@[simp] theorem modFq_agenda (s : State) (t : Nat) (f : FaultQueue → FaultQueue) : (s.modFq t f).agenda = s.agenda := rfl
@[simp] theorem modFq_turn (s : State) (t : Nat) (f : FaultQueue → FaultQueue) : (s.modFq t f).turn = s.turn := rfl
@[simp] theorem modFq_cur (s : State) (t : Nat) (f : FaultQueue → FaultQueue) : (s.modFq t f).cur = s.cur := rfl
@[simp] theorem modFq_freeCount (s : State) (t : Nat) (f : FaultQueue → FaultQueue) : (s.modFq t f).freeCount = s.freeCount := rfl
@[simp] theorem modFq_serial (s : State) (t : Nat) (f : FaultQueue → FaultQueue) : (s.modFq t f).serial = s.serial := rfl
@[simp] theorem modSched_mem (s : State) (t : Nat) (f : Sched → Sched) : (s.modSched t f).mem = s.mem := rfl
@[simp] theorem modSched_poison (s : State) (t : Nat) (f : Sched → Sched) : (s.modSched t f).poison = s.poison := rfl
@[simp] theorem modSched_poisonFrom (s : State) (t : Nat) (f : Sched → Sched) : (s.modSched t f).poisonFrom = s.poisonFrom := rfl
@[simp] theorem modSched_owned (s : State) (t : Nat) (f : Sched → Sched) : (s.modSched t f).owned = s.owned := rfl
@[simp] theorem modSched_pewKey (s : State) (t : Nat) (f : Sched → Sched) : (s.modSched t f).pewKey = s.pewKey := rfl
@[simp] theorem modSched_cores (s : State) (t : Nat) (f : Sched → Sched) : (s.modSched t f).cores = s.cores := rfl
@[simp] theorem modSched_tlb2 (s : State) (t : Nat) (f : Sched → Sched) : (s.modSched t f).tlb2 = s.tlb2 := rfl
@[simp] theorem modSched_groups (s : State) (t : Nat) (f : Sched → Sched) : (s.modSched t f).groups = s.groups := rfl
@[simp] theorem modSched_blocks (s : State) (t : Nat) (f : Sched → Sched) : (s.modSched t f).blocks = s.blocks := rfl
@[simp] theorem modSched_events (s : State) (t : Nat) (f : Sched → Sched) : (s.modSched t f).events = s.events := rfl
@[simp] theorem modSched_pool (s : State) (t : Nat) (f : Sched → Sched) : (s.modSched t f).pool = s.pool := rfl
@[simp] theorem modSched_outside (s : State) (t : Nat) (f : Sched → Sched) : (s.modSched t f).outside = s.outside := rfl
@[simp] theorem modSched_outSubs (s : State) (t : Nat) (f : Sched → Sched) : (s.modSched t f).outSubs = s.outSubs := rfl
@[simp] theorem modSched_inSubs (s : State) (t : Nat) (f : Sched → Sched) : (s.modSched t f).inSubs = s.inSubs := rfl
@[simp] theorem modSched_sorOwner (s : State) (t : Nat) (f : Sched → Sched) : (s.modSched t f).sorOwner = s.sorOwner := rfl
@[simp] theorem modSched_slots (s : State) (t : Nat) (f : Sched → Sched) : (s.modSched t f).slots = s.slots := rfl
@[simp] theorem modSched_shadow (s : State) (t : Nat) (f : Sched → Sched) : (s.modSched t f).shadow = s.shadow := rfl
@[simp] theorem modSched_pwr (s : State) (t : Nat) (f : Sched → Sched) : (s.modSched t f).pwr = s.pwr := rfl
@[simp] theorem modSched_pkg (s : State) (t : Nat) (f : Sched → Sched) : (s.modSched t f).pkg = s.pkg := rfl
@[simp] theorem modSched_host (s : State) (t : Nat) (f : Sched → Sched) : (s.modSched t f).host = s.host := rfl
@[simp] theorem modSched_fab (s : State) (t : Nat) (f : Sched → Sched) : (s.modSched t f).fab = s.fab := rfl
@[simp] theorem modSched_svc (s : State) (t : Nat) (f : Sched → Sched) : (s.modSched t f).svc = s.svc := rfl
@[simp] theorem modSched_agenda (s : State) (t : Nat) (f : Sched → Sched) : (s.modSched t f).agenda = s.agenda := rfl
@[simp] theorem modSched_turn (s : State) (t : Nat) (f : Sched → Sched) : (s.modSched t f).turn = s.turn := rfl
@[simp] theorem modSched_cur (s : State) (t : Nat) (f : Sched → Sched) : (s.modSched t f).cur = s.cur := rfl
@[simp] theorem modSched_freeCount (s : State) (t : Nat) (f : Sched → Sched) : (s.modSched t f).freeCount = s.freeCount := rfl
@[simp] theorem modSched_serial (s : State) (t : Nat) (f : Sched → Sched) : (s.modSched t f).serial = s.serial := rfl
@[simp] theorem modSor_mem (s : State) (t : Nat) (f : Sorrel → Sorrel) : (s.modSor t f).mem = s.mem := rfl
@[simp] theorem modSor_poison (s : State) (t : Nat) (f : Sorrel → Sorrel) : (s.modSor t f).poison = s.poison := rfl
@[simp] theorem modSor_poisonFrom (s : State) (t : Nat) (f : Sorrel → Sorrel) : (s.modSor t f).poisonFrom = s.poisonFrom := rfl
@[simp] theorem modSor_owned (s : State) (t : Nat) (f : Sorrel → Sorrel) : (s.modSor t f).owned = s.owned := rfl
@[simp] theorem modSor_pewKey (s : State) (t : Nat) (f : Sorrel → Sorrel) : (s.modSor t f).pewKey = s.pewKey := rfl
@[simp] theorem modSor_cores (s : State) (t : Nat) (f : Sorrel → Sorrel) : (s.modSor t f).cores = s.cores := rfl
@[simp] theorem modSor_tlb2 (s : State) (t : Nat) (f : Sorrel → Sorrel) : (s.modSor t f).tlb2 = s.tlb2 := rfl
@[simp] theorem modSor_groups (s : State) (t : Nat) (f : Sorrel → Sorrel) : (s.modSor t f).groups = s.groups := rfl
@[simp] theorem modSor_blocks (s : State) (t : Nat) (f : Sorrel → Sorrel) : (s.modSor t f).blocks = s.blocks := rfl
@[simp] theorem modSor_events (s : State) (t : Nat) (f : Sorrel → Sorrel) : (s.modSor t f).events = s.events := rfl
@[simp] theorem modSor_pool (s : State) (t : Nat) (f : Sorrel → Sorrel) : (s.modSor t f).pool = s.pool := rfl
@[simp] theorem modSor_outside (s : State) (t : Nat) (f : Sorrel → Sorrel) : (s.modSor t f).outside = s.outside := rfl
@[simp] theorem modSor_outSubs (s : State) (t : Nat) (f : Sorrel → Sorrel) : (s.modSor t f).outSubs = s.outSubs := rfl
@[simp] theorem modSor_inSubs (s : State) (t : Nat) (f : Sorrel → Sorrel) : (s.modSor t f).inSubs = s.inSubs := rfl
@[simp] theorem modSor_sorOwner (s : State) (t : Nat) (f : Sorrel → Sorrel) : (s.modSor t f).sorOwner = s.sorOwner := rfl
@[simp] theorem modSor_slots (s : State) (t : Nat) (f : Sorrel → Sorrel) : (s.modSor t f).slots = s.slots := rfl
@[simp] theorem modSor_shadow (s : State) (t : Nat) (f : Sorrel → Sorrel) : (s.modSor t f).shadow = s.shadow := rfl
@[simp] theorem modSor_pwr (s : State) (t : Nat) (f : Sorrel → Sorrel) : (s.modSor t f).pwr = s.pwr := rfl
@[simp] theorem modSor_pkg (s : State) (t : Nat) (f : Sorrel → Sorrel) : (s.modSor t f).pkg = s.pkg := rfl
@[simp] theorem modSor_host (s : State) (t : Nat) (f : Sorrel → Sorrel) : (s.modSor t f).host = s.host := rfl
@[simp] theorem modSor_fab (s : State) (t : Nat) (f : Sorrel → Sorrel) : (s.modSor t f).fab = s.fab := rfl
@[simp] theorem modSor_svc (s : State) (t : Nat) (f : Sorrel → Sorrel) : (s.modSor t f).svc = s.svc := rfl
@[simp] theorem modSor_agenda (s : State) (t : Nat) (f : Sorrel → Sorrel) : (s.modSor t f).agenda = s.agenda := rfl
@[simp] theorem modSor_turn (s : State) (t : Nat) (f : Sorrel → Sorrel) : (s.modSor t f).turn = s.turn := rfl
@[simp] theorem modSor_cur (s : State) (t : Nat) (f : Sorrel → Sorrel) : (s.modSor t f).cur = s.cur := rfl
@[simp] theorem modSor_freeCount (s : State) (t : Nat) (f : Sorrel → Sorrel) : (s.modSor t f).freeCount = s.freeCount := rfl
@[simp] theorem modSor_serial (s : State) (t : Nat) (f : Sorrel → Sorrel) : (s.modSor t f).serial = s.serial := rfl
@[simp] theorem modDbg_mem (s : State) (t : Nat) (f : Debug → Debug) : (s.modDbg t f).mem = s.mem := rfl
@[simp] theorem modDbg_poison (s : State) (t : Nat) (f : Debug → Debug) : (s.modDbg t f).poison = s.poison := rfl
@[simp] theorem modDbg_poisonFrom (s : State) (t : Nat) (f : Debug → Debug) : (s.modDbg t f).poisonFrom = s.poisonFrom := rfl
@[simp] theorem modDbg_owned (s : State) (t : Nat) (f : Debug → Debug) : (s.modDbg t f).owned = s.owned := rfl
@[simp] theorem modDbg_pewKey (s : State) (t : Nat) (f : Debug → Debug) : (s.modDbg t f).pewKey = s.pewKey := rfl
@[simp] theorem modDbg_cores (s : State) (t : Nat) (f : Debug → Debug) : (s.modDbg t f).cores = s.cores := rfl
@[simp] theorem modDbg_tlb2 (s : State) (t : Nat) (f : Debug → Debug) : (s.modDbg t f).tlb2 = s.tlb2 := rfl
@[simp] theorem modDbg_groups (s : State) (t : Nat) (f : Debug → Debug) : (s.modDbg t f).groups = s.groups := rfl
@[simp] theorem modDbg_blocks (s : State) (t : Nat) (f : Debug → Debug) : (s.modDbg t f).blocks = s.blocks := rfl
@[simp] theorem modDbg_events (s : State) (t : Nat) (f : Debug → Debug) : (s.modDbg t f).events = s.events := rfl
@[simp] theorem modDbg_pool (s : State) (t : Nat) (f : Debug → Debug) : (s.modDbg t f).pool = s.pool := rfl
@[simp] theorem modDbg_outside (s : State) (t : Nat) (f : Debug → Debug) : (s.modDbg t f).outside = s.outside := rfl
@[simp] theorem modDbg_outSubs (s : State) (t : Nat) (f : Debug → Debug) : (s.modDbg t f).outSubs = s.outSubs := rfl
@[simp] theorem modDbg_inSubs (s : State) (t : Nat) (f : Debug → Debug) : (s.modDbg t f).inSubs = s.inSubs := rfl
@[simp] theorem modDbg_sorOwner (s : State) (t : Nat) (f : Debug → Debug) : (s.modDbg t f).sorOwner = s.sorOwner := rfl
@[simp] theorem modDbg_slots (s : State) (t : Nat) (f : Debug → Debug) : (s.modDbg t f).slots = s.slots := rfl
@[simp] theorem modDbg_shadow (s : State) (t : Nat) (f : Debug → Debug) : (s.modDbg t f).shadow = s.shadow := rfl
@[simp] theorem modDbg_pwr (s : State) (t : Nat) (f : Debug → Debug) : (s.modDbg t f).pwr = s.pwr := rfl
@[simp] theorem modDbg_pkg (s : State) (t : Nat) (f : Debug → Debug) : (s.modDbg t f).pkg = s.pkg := rfl
@[simp] theorem modDbg_host (s : State) (t : Nat) (f : Debug → Debug) : (s.modDbg t f).host = s.host := rfl
@[simp] theorem modDbg_fab (s : State) (t : Nat) (f : Debug → Debug) : (s.modDbg t f).fab = s.fab := rfl
@[simp] theorem modDbg_svc (s : State) (t : Nat) (f : Debug → Debug) : (s.modDbg t f).svc = s.svc := rfl
@[simp] theorem modDbg_agenda (s : State) (t : Nat) (f : Debug → Debug) : (s.modDbg t f).agenda = s.agenda := rfl
@[simp] theorem modDbg_turn (s : State) (t : Nat) (f : Debug → Debug) : (s.modDbg t f).turn = s.turn := rfl
@[simp] theorem modDbg_cur (s : State) (t : Nat) (f : Debug → Debug) : (s.modDbg t f).cur = s.cur := rfl
@[simp] theorem modDbg_freeCount (s : State) (t : Nat) (f : Debug → Debug) : (s.modDbg t f).freeCount = s.freeCount := rfl
@[simp] theorem modDbg_serial (s : State) (t : Nat) (f : Debug → Debug) : (s.modDbg t f).serial = s.serial := rfl

/-! `onGroup` changes a resident group alone. -/

@[simp] theorem onGroup_mem (s : State) (g : Nat) (f : Group → Group) : (s.onGroup g f).mem = s.mem := by
  unfold onGroup; split <;> rfl
@[simp] theorem onGroup_poison (s : State) (g : Nat) (f : Group → Group) : (s.onGroup g f).poison = s.poison := by
  unfold onGroup; split <;> rfl
@[simp] theorem onGroup_poisonFrom (s : State) (g : Nat) (f : Group → Group) : (s.onGroup g f).poisonFrom = s.poisonFrom := by
  unfold onGroup; split <;> rfl
@[simp] theorem onGroup_owned (s : State) (g : Nat) (f : Group → Group) : (s.onGroup g f).owned = s.owned := by
  unfold onGroup; split <;> rfl
@[simp] theorem onGroup_pewKey (s : State) (g : Nat) (f : Group → Group) : (s.onGroup g f).pewKey = s.pewKey := by
  unfold onGroup; split <;> rfl
@[simp] theorem onGroup_cores (s : State) (g : Nat) (f : Group → Group) : (s.onGroup g f).cores = s.cores := by
  unfold onGroup; split <;> rfl
@[simp] theorem onGroup_tlb2 (s : State) (g : Nat) (f : Group → Group) : (s.onGroup g f).tlb2 = s.tlb2 := by
  unfold onGroup; split <;> rfl
@[simp] theorem onGroup_blocks (s : State) (g : Nat) (f : Group → Group) : (s.onGroup g f).blocks = s.blocks := by
  unfold onGroup; split <;> rfl
@[simp] theorem onGroup_tenants (s : State) (g : Nat) (f : Group → Group) : (s.onGroup g f).tenants = s.tenants := by
  unfold onGroup; split <;> rfl
@[simp] theorem onGroup_events (s : State) (g : Nat) (f : Group → Group) : (s.onGroup g f).events = s.events := by
  unfold onGroup; split <;> rfl
@[simp] theorem onGroup_pool (s : State) (g : Nat) (f : Group → Group) : (s.onGroup g f).pool = s.pool := by
  unfold onGroup; split <;> rfl
@[simp] theorem onGroup_outside (s : State) (g : Nat) (f : Group → Group) : (s.onGroup g f).outside = s.outside := by
  unfold onGroup; split <;> rfl
@[simp] theorem onGroup_outSubs (s : State) (g : Nat) (f : Group → Group) : (s.onGroup g f).outSubs = s.outSubs := by
  unfold onGroup; split <;> rfl
@[simp] theorem onGroup_inSubs (s : State) (g : Nat) (f : Group → Group) : (s.onGroup g f).inSubs = s.inSubs := by
  unfold onGroup; split <;> rfl
@[simp] theorem onGroup_sorOwner (s : State) (g : Nat) (f : Group → Group) : (s.onGroup g f).sorOwner = s.sorOwner := by
  unfold onGroup; split <;> rfl
@[simp] theorem onGroup_slots (s : State) (g : Nat) (f : Group → Group) : (s.onGroup g f).slots = s.slots := by
  unfold onGroup; split <;> rfl
@[simp] theorem onGroup_shadow (s : State) (g : Nat) (f : Group → Group) : (s.onGroup g f).shadow = s.shadow := by
  unfold onGroup; split <;> rfl
@[simp] theorem onGroup_pwr (s : State) (g : Nat) (f : Group → Group) : (s.onGroup g f).pwr = s.pwr := by
  unfold onGroup; split <;> rfl
@[simp] theorem onGroup_pkg (s : State) (g : Nat) (f : Group → Group) : (s.onGroup g f).pkg = s.pkg := by
  unfold onGroup; split <;> rfl
@[simp] theorem onGroup_host (s : State) (g : Nat) (f : Group → Group) : (s.onGroup g f).host = s.host := by
  unfold onGroup; split <;> rfl
@[simp] theorem onGroup_fab (s : State) (g : Nat) (f : Group → Group) : (s.onGroup g f).fab = s.fab := by
  unfold onGroup; split <;> rfl
@[simp] theorem onGroup_svc (s : State) (g : Nat) (f : Group → Group) : (s.onGroup g f).svc = s.svc := by
  unfold onGroup; split <;> rfl
@[simp] theorem onGroup_agenda (s : State) (g : Nat) (f : Group → Group) : (s.onGroup g f).agenda = s.agenda := by
  unfold onGroup; split <;> rfl
@[simp] theorem onGroup_turn (s : State) (g : Nat) (f : Group → Group) : (s.onGroup g f).turn = s.turn := by
  unfold onGroup; split <;> rfl
@[simp] theorem onGroup_cur (s : State) (g : Nat) (f : Group → Group) : (s.onGroup g f).cur = s.cur := by
  unfold onGroup; split <;> rfl
@[simp] theorem onGroup_freeCount (s : State) (g : Nat) (f : Group → Group) : (s.onGroup g f).freeCount = s.freeCount := by
  unfold onGroup; split <;> rfl
@[simp] theorem onGroup_serial (s : State) (g : Nat) (f : Group → Group) : (s.onGroup g f).serial = s.serial := by
  unfold onGroup; split <;> rfl
@[simp] theorem modOps_mem (s : State) (g : Nat) (f : Ops → Ops) : (s.modOps g f).mem = s.mem := onGroup_mem s g _
@[simp] theorem modOps_poison (s : State) (g : Nat) (f : Ops → Ops) : (s.modOps g f).poison = s.poison := onGroup_poison s g _
@[simp] theorem modOps_poisonFrom (s : State) (g : Nat) (f : Ops → Ops) : (s.modOps g f).poisonFrom = s.poisonFrom := onGroup_poisonFrom s g _
@[simp] theorem modOps_owned (s : State) (g : Nat) (f : Ops → Ops) : (s.modOps g f).owned = s.owned := onGroup_owned s g _
@[simp] theorem modOps_pewKey (s : State) (g : Nat) (f : Ops → Ops) : (s.modOps g f).pewKey = s.pewKey := onGroup_pewKey s g _
@[simp] theorem modOps_cores (s : State) (g : Nat) (f : Ops → Ops) : (s.modOps g f).cores = s.cores := onGroup_cores s g _
@[simp] theorem modOps_tlb2 (s : State) (g : Nat) (f : Ops → Ops) : (s.modOps g f).tlb2 = s.tlb2 := onGroup_tlb2 s g _
@[simp] theorem modOps_blocks (s : State) (g : Nat) (f : Ops → Ops) : (s.modOps g f).blocks = s.blocks := onGroup_blocks s g _
@[simp] theorem modOps_tenants (s : State) (g : Nat) (f : Ops → Ops) : (s.modOps g f).tenants = s.tenants := onGroup_tenants s g _
@[simp] theorem modOps_events (s : State) (g : Nat) (f : Ops → Ops) : (s.modOps g f).events = s.events := onGroup_events s g _
@[simp] theorem modOps_pool (s : State) (g : Nat) (f : Ops → Ops) : (s.modOps g f).pool = s.pool := onGroup_pool s g _
@[simp] theorem modOps_outside (s : State) (g : Nat) (f : Ops → Ops) : (s.modOps g f).outside = s.outside := onGroup_outside s g _
@[simp] theorem modOps_outSubs (s : State) (g : Nat) (f : Ops → Ops) : (s.modOps g f).outSubs = s.outSubs := onGroup_outSubs s g _
@[simp] theorem modOps_inSubs (s : State) (g : Nat) (f : Ops → Ops) : (s.modOps g f).inSubs = s.inSubs := onGroup_inSubs s g _
@[simp] theorem modOps_sorOwner (s : State) (g : Nat) (f : Ops → Ops) : (s.modOps g f).sorOwner = s.sorOwner := onGroup_sorOwner s g _
@[simp] theorem modOps_slots (s : State) (g : Nat) (f : Ops → Ops) : (s.modOps g f).slots = s.slots := onGroup_slots s g _
@[simp] theorem modOps_shadow (s : State) (g : Nat) (f : Ops → Ops) : (s.modOps g f).shadow = s.shadow := onGroup_shadow s g _
@[simp] theorem modOps_pwr (s : State) (g : Nat) (f : Ops → Ops) : (s.modOps g f).pwr = s.pwr := onGroup_pwr s g _
@[simp] theorem modOps_pkg (s : State) (g : Nat) (f : Ops → Ops) : (s.modOps g f).pkg = s.pkg := onGroup_pkg s g _
@[simp] theorem modOps_host (s : State) (g : Nat) (f : Ops → Ops) : (s.modOps g f).host = s.host := onGroup_host s g _
@[simp] theorem modOps_fab (s : State) (g : Nat) (f : Ops → Ops) : (s.modOps g f).fab = s.fab := onGroup_fab s g _
@[simp] theorem modOps_svc (s : State) (g : Nat) (f : Ops → Ops) : (s.modOps g f).svc = s.svc := onGroup_svc s g _
@[simp] theorem modOps_agenda (s : State) (g : Nat) (f : Ops → Ops) : (s.modOps g f).agenda = s.agenda := onGroup_agenda s g _
@[simp] theorem modOps_turn (s : State) (g : Nat) (f : Ops → Ops) : (s.modOps g f).turn = s.turn := onGroup_turn s g _
@[simp] theorem modOps_cur (s : State) (g : Nat) (f : Ops → Ops) : (s.modOps g f).cur = s.cur := onGroup_cur s g _
@[simp] theorem modOps_freeCount (s : State) (g : Nat) (f : Ops → Ops) : (s.modOps g f).freeCount = s.freeCount := onGroup_freeCount s g _
@[simp] theorem modOps_serial (s : State) (g : Nat) (f : Ops → Ops) : (s.modOps g f).serial = s.serial := onGroup_serial s g _
@[simp] theorem modRegs_mem (s : State) (g : Nat) (f : Regs → Regs) : (s.modRegs g f).mem = s.mem := onGroup_mem s g _
@[simp] theorem modRegs_poison (s : State) (g : Nat) (f : Regs → Regs) : (s.modRegs g f).poison = s.poison := onGroup_poison s g _
@[simp] theorem modRegs_poisonFrom (s : State) (g : Nat) (f : Regs → Regs) : (s.modRegs g f).poisonFrom = s.poisonFrom := onGroup_poisonFrom s g _
@[simp] theorem modRegs_owned (s : State) (g : Nat) (f : Regs → Regs) : (s.modRegs g f).owned = s.owned := onGroup_owned s g _
@[simp] theorem modRegs_pewKey (s : State) (g : Nat) (f : Regs → Regs) : (s.modRegs g f).pewKey = s.pewKey := onGroup_pewKey s g _
@[simp] theorem modRegs_cores (s : State) (g : Nat) (f : Regs → Regs) : (s.modRegs g f).cores = s.cores := onGroup_cores s g _
@[simp] theorem modRegs_tlb2 (s : State) (g : Nat) (f : Regs → Regs) : (s.modRegs g f).tlb2 = s.tlb2 := onGroup_tlb2 s g _
@[simp] theorem modRegs_blocks (s : State) (g : Nat) (f : Regs → Regs) : (s.modRegs g f).blocks = s.blocks := onGroup_blocks s g _
@[simp] theorem modRegs_tenants (s : State) (g : Nat) (f : Regs → Regs) : (s.modRegs g f).tenants = s.tenants := onGroup_tenants s g _
@[simp] theorem modRegs_events (s : State) (g : Nat) (f : Regs → Regs) : (s.modRegs g f).events = s.events := onGroup_events s g _
@[simp] theorem modRegs_pool (s : State) (g : Nat) (f : Regs → Regs) : (s.modRegs g f).pool = s.pool := onGroup_pool s g _
@[simp] theorem modRegs_outside (s : State) (g : Nat) (f : Regs → Regs) : (s.modRegs g f).outside = s.outside := onGroup_outside s g _
@[simp] theorem modRegs_outSubs (s : State) (g : Nat) (f : Regs → Regs) : (s.modRegs g f).outSubs = s.outSubs := onGroup_outSubs s g _
@[simp] theorem modRegs_inSubs (s : State) (g : Nat) (f : Regs → Regs) : (s.modRegs g f).inSubs = s.inSubs := onGroup_inSubs s g _
@[simp] theorem modRegs_sorOwner (s : State) (g : Nat) (f : Regs → Regs) : (s.modRegs g f).sorOwner = s.sorOwner := onGroup_sorOwner s g _
@[simp] theorem modRegs_slots (s : State) (g : Nat) (f : Regs → Regs) : (s.modRegs g f).slots = s.slots := onGroup_slots s g _
@[simp] theorem modRegs_shadow (s : State) (g : Nat) (f : Regs → Regs) : (s.modRegs g f).shadow = s.shadow := onGroup_shadow s g _
@[simp] theorem modRegs_pwr (s : State) (g : Nat) (f : Regs → Regs) : (s.modRegs g f).pwr = s.pwr := onGroup_pwr s g _
@[simp] theorem modRegs_pkg (s : State) (g : Nat) (f : Regs → Regs) : (s.modRegs g f).pkg = s.pkg := onGroup_pkg s g _
@[simp] theorem modRegs_host (s : State) (g : Nat) (f : Regs → Regs) : (s.modRegs g f).host = s.host := onGroup_host s g _
@[simp] theorem modRegs_fab (s : State) (g : Nat) (f : Regs → Regs) : (s.modRegs g f).fab = s.fab := onGroup_fab s g _
@[simp] theorem modRegs_svc (s : State) (g : Nat) (f : Regs → Regs) : (s.modRegs g f).svc = s.svc := onGroup_svc s g _
@[simp] theorem modRegs_agenda (s : State) (g : Nat) (f : Regs → Regs) : (s.modRegs g f).agenda = s.agenda := onGroup_agenda s g _
@[simp] theorem modRegs_turn (s : State) (g : Nat) (f : Regs → Regs) : (s.modRegs g f).turn = s.turn := onGroup_turn s g _
@[simp] theorem modRegs_cur (s : State) (g : Nat) (f : Regs → Regs) : (s.modRegs g f).cur = s.cur := onGroup_cur s g _
@[simp] theorem modRegs_freeCount (s : State) (g : Nat) (f : Regs → Regs) : (s.modRegs g f).freeCount = s.freeCount := onGroup_freeCount s g _
@[simp] theorem modRegs_serial (s : State) (g : Nat) (f : Regs → Regs) : (s.modRegs g f).serial = s.serial := onGroup_serial s g _
@[simp] theorem modFlow_mem (s : State) (g : Nat) (f : Flow → Flow) : (s.modFlow g f).mem = s.mem := onGroup_mem s g _
@[simp] theorem modFlow_poison (s : State) (g : Nat) (f : Flow → Flow) : (s.modFlow g f).poison = s.poison := onGroup_poison s g _
@[simp] theorem modFlow_poisonFrom (s : State) (g : Nat) (f : Flow → Flow) : (s.modFlow g f).poisonFrom = s.poisonFrom := onGroup_poisonFrom s g _
@[simp] theorem modFlow_owned (s : State) (g : Nat) (f : Flow → Flow) : (s.modFlow g f).owned = s.owned := onGroup_owned s g _
@[simp] theorem modFlow_pewKey (s : State) (g : Nat) (f : Flow → Flow) : (s.modFlow g f).pewKey = s.pewKey := onGroup_pewKey s g _
@[simp] theorem modFlow_cores (s : State) (g : Nat) (f : Flow → Flow) : (s.modFlow g f).cores = s.cores := onGroup_cores s g _
@[simp] theorem modFlow_tlb2 (s : State) (g : Nat) (f : Flow → Flow) : (s.modFlow g f).tlb2 = s.tlb2 := onGroup_tlb2 s g _
@[simp] theorem modFlow_blocks (s : State) (g : Nat) (f : Flow → Flow) : (s.modFlow g f).blocks = s.blocks := onGroup_blocks s g _
@[simp] theorem modFlow_tenants (s : State) (g : Nat) (f : Flow → Flow) : (s.modFlow g f).tenants = s.tenants := onGroup_tenants s g _
@[simp] theorem modFlow_events (s : State) (g : Nat) (f : Flow → Flow) : (s.modFlow g f).events = s.events := onGroup_events s g _
@[simp] theorem modFlow_pool (s : State) (g : Nat) (f : Flow → Flow) : (s.modFlow g f).pool = s.pool := onGroup_pool s g _
@[simp] theorem modFlow_outside (s : State) (g : Nat) (f : Flow → Flow) : (s.modFlow g f).outside = s.outside := onGroup_outside s g _
@[simp] theorem modFlow_outSubs (s : State) (g : Nat) (f : Flow → Flow) : (s.modFlow g f).outSubs = s.outSubs := onGroup_outSubs s g _
@[simp] theorem modFlow_inSubs (s : State) (g : Nat) (f : Flow → Flow) : (s.modFlow g f).inSubs = s.inSubs := onGroup_inSubs s g _
@[simp] theorem modFlow_sorOwner (s : State) (g : Nat) (f : Flow → Flow) : (s.modFlow g f).sorOwner = s.sorOwner := onGroup_sorOwner s g _
@[simp] theorem modFlow_slots (s : State) (g : Nat) (f : Flow → Flow) : (s.modFlow g f).slots = s.slots := onGroup_slots s g _
@[simp] theorem modFlow_shadow (s : State) (g : Nat) (f : Flow → Flow) : (s.modFlow g f).shadow = s.shadow := onGroup_shadow s g _
@[simp] theorem modFlow_pwr (s : State) (g : Nat) (f : Flow → Flow) : (s.modFlow g f).pwr = s.pwr := onGroup_pwr s g _
@[simp] theorem modFlow_pkg (s : State) (g : Nat) (f : Flow → Flow) : (s.modFlow g f).pkg = s.pkg := onGroup_pkg s g _
@[simp] theorem modFlow_host (s : State) (g : Nat) (f : Flow → Flow) : (s.modFlow g f).host = s.host := onGroup_host s g _
@[simp] theorem modFlow_fab (s : State) (g : Nat) (f : Flow → Flow) : (s.modFlow g f).fab = s.fab := onGroup_fab s g _
@[simp] theorem modFlow_svc (s : State) (g : Nat) (f : Flow → Flow) : (s.modFlow g f).svc = s.svc := onGroup_svc s g _
@[simp] theorem modFlow_agenda (s : State) (g : Nat) (f : Flow → Flow) : (s.modFlow g f).agenda = s.agenda := onGroup_agenda s g _
@[simp] theorem modFlow_turn (s : State) (g : Nat) (f : Flow → Flow) : (s.modFlow g f).turn = s.turn := onGroup_turn s g _
@[simp] theorem modFlow_cur (s : State) (g : Nat) (f : Flow → Flow) : (s.modFlow g f).cur = s.cur := onGroup_cur s g _
@[simp] theorem modFlow_freeCount (s : State) (g : Nat) (f : Flow → Flow) : (s.modFlow g f).freeCount = s.freeCount := onGroup_freeCount s g _
@[simp] theorem modFlow_serial (s : State) (g : Nat) (f : Flow → Flow) : (s.modFlow g f).serial = s.serial := onGroup_serial s g _
@[simp] theorem modIss_mem (s : State) (g : Nat) (f : Issuing → Issuing) : (s.modIss g f).mem = s.mem := onGroup_mem s g _
@[simp] theorem modIss_poison (s : State) (g : Nat) (f : Issuing → Issuing) : (s.modIss g f).poison = s.poison := onGroup_poison s g _
@[simp] theorem modIss_poisonFrom (s : State) (g : Nat) (f : Issuing → Issuing) : (s.modIss g f).poisonFrom = s.poisonFrom := onGroup_poisonFrom s g _
@[simp] theorem modIss_owned (s : State) (g : Nat) (f : Issuing → Issuing) : (s.modIss g f).owned = s.owned := onGroup_owned s g _
@[simp] theorem modIss_pewKey (s : State) (g : Nat) (f : Issuing → Issuing) : (s.modIss g f).pewKey = s.pewKey := onGroup_pewKey s g _
@[simp] theorem modIss_cores (s : State) (g : Nat) (f : Issuing → Issuing) : (s.modIss g f).cores = s.cores := onGroup_cores s g _
@[simp] theorem modIss_tlb2 (s : State) (g : Nat) (f : Issuing → Issuing) : (s.modIss g f).tlb2 = s.tlb2 := onGroup_tlb2 s g _
@[simp] theorem modIss_blocks (s : State) (g : Nat) (f : Issuing → Issuing) : (s.modIss g f).blocks = s.blocks := onGroup_blocks s g _
@[simp] theorem modIss_tenants (s : State) (g : Nat) (f : Issuing → Issuing) : (s.modIss g f).tenants = s.tenants := onGroup_tenants s g _
@[simp] theorem modIss_events (s : State) (g : Nat) (f : Issuing → Issuing) : (s.modIss g f).events = s.events := onGroup_events s g _
@[simp] theorem modIss_pool (s : State) (g : Nat) (f : Issuing → Issuing) : (s.modIss g f).pool = s.pool := onGroup_pool s g _
@[simp] theorem modIss_outside (s : State) (g : Nat) (f : Issuing → Issuing) : (s.modIss g f).outside = s.outside := onGroup_outside s g _
@[simp] theorem modIss_outSubs (s : State) (g : Nat) (f : Issuing → Issuing) : (s.modIss g f).outSubs = s.outSubs := onGroup_outSubs s g _
@[simp] theorem modIss_inSubs (s : State) (g : Nat) (f : Issuing → Issuing) : (s.modIss g f).inSubs = s.inSubs := onGroup_inSubs s g _
@[simp] theorem modIss_sorOwner (s : State) (g : Nat) (f : Issuing → Issuing) : (s.modIss g f).sorOwner = s.sorOwner := onGroup_sorOwner s g _
@[simp] theorem modIss_slots (s : State) (g : Nat) (f : Issuing → Issuing) : (s.modIss g f).slots = s.slots := onGroup_slots s g _
@[simp] theorem modIss_shadow (s : State) (g : Nat) (f : Issuing → Issuing) : (s.modIss g f).shadow = s.shadow := onGroup_shadow s g _
@[simp] theorem modIss_pwr (s : State) (g : Nat) (f : Issuing → Issuing) : (s.modIss g f).pwr = s.pwr := onGroup_pwr s g _
@[simp] theorem modIss_pkg (s : State) (g : Nat) (f : Issuing → Issuing) : (s.modIss g f).pkg = s.pkg := onGroup_pkg s g _
@[simp] theorem modIss_host (s : State) (g : Nat) (f : Issuing → Issuing) : (s.modIss g f).host = s.host := onGroup_host s g _
@[simp] theorem modIss_fab (s : State) (g : Nat) (f : Issuing → Issuing) : (s.modIss g f).fab = s.fab := onGroup_fab s g _
@[simp] theorem modIss_svc (s : State) (g : Nat) (f : Issuing → Issuing) : (s.modIss g f).svc = s.svc := onGroup_svc s g _
@[simp] theorem modIss_agenda (s : State) (g : Nat) (f : Issuing → Issuing) : (s.modIss g f).agenda = s.agenda := onGroup_agenda s g _
@[simp] theorem modIss_turn (s : State) (g : Nat) (f : Issuing → Issuing) : (s.modIss g f).turn = s.turn := onGroup_turn s g _
@[simp] theorem modIss_cur (s : State) (g : Nat) (f : Issuing → Issuing) : (s.modIss g f).cur = s.cur := onGroup_cur s g _
@[simp] theorem modIss_freeCount (s : State) (g : Nat) (f : Issuing → Issuing) : (s.modIss g f).freeCount = s.freeCount := onGroup_freeCount s g _
@[simp] theorem modIss_serial (s : State) (g : Nat) (f : Issuing → Issuing) : (s.modIss g f).serial = s.serial := onGroup_serial s g _

theorem onGroup_of_has {s : State} {g : Nat} (h : s.hasGroup g = true) (f : Group → Group) :
    s.onGroup g f = s.setGroup g (f (s.group g)) := by
  simp [onGroup, h, modGroup]

/-- A resident group after its change, and every other group. -/
theorem onGroup_group (s : State) (g x : Nat) (f : Group → Group) :
    (s.onGroup g f).group x = if x = g ∧ s.hasGroup g = true then f (s.group g) else s.group x := by
  unfold onGroup
  split
  · next h => simp [modGroup, h]
  · next h => simp [h]

@[simp] theorem onGroup_hasGroup (s : State) (g x : Nat) (f : Group → Group) :
    (s.onGroup g f).hasGroup x = s.hasGroup x := by
  unfold onGroup
  split
  · next h =>
    simp only [modGroup, hasGroup, setGroup_groups, Map.find_put]
    split
    · next hx => subst hx; simpa [hasGroup] using h.symm
    · rfl
  · rfl

@[simp] theorem onGroup_core (s : State) (g x : Nat) (f : Group → Group) : (s.onGroup g f).core x = s.core x := by
  unfold onGroup; split <;> rfl
@[simp] theorem onGroup_tenant (s : State) (g x : Nat) (f : Group → Group) : (s.onGroup g f).tenant x = s.tenant x := by
  unfold onGroup; split <;> rfl
@[simp] theorem onGroup_event (s : State) (g x : Nat) (f : Group → Group) : (s.onGroup g f).event x = s.event x := by
  unfold onGroup; split <;> rfl

/-! Writes of several bytes. -/

@[simp] theorem setBytes_poison (s : State) (a : Nat) (bs : List Byte) : (s.setBytes a bs).poison = s.poison := by
  induction bs generalizing s a with
  | nil => rfl
  | cons b bs ih => simp [setBytes, ih]
@[simp] theorem setBytes_poisonFrom (s : State) (a : Nat) (bs : List Byte) : (s.setBytes a bs).poisonFrom = s.poisonFrom := by
  induction bs generalizing s a with
  | nil => rfl
  | cons b bs ih => simp [setBytes, ih]
@[simp] theorem setBytes_owned (s : State) (a : Nat) (bs : List Byte) : (s.setBytes a bs).owned = s.owned := by
  induction bs generalizing s a with
  | nil => rfl
  | cons b bs ih => simp [setBytes, ih]
@[simp] theorem setBytes_pewKey (s : State) (a : Nat) (bs : List Byte) : (s.setBytes a bs).pewKey = s.pewKey := by
  induction bs generalizing s a with
  | nil => rfl
  | cons b bs ih => simp [setBytes, ih]
@[simp] theorem setBytes_cores (s : State) (a : Nat) (bs : List Byte) : (s.setBytes a bs).cores = s.cores := by
  induction bs generalizing s a with
  | nil => rfl
  | cons b bs ih => simp [setBytes, ih]
@[simp] theorem setBytes_tlb2 (s : State) (a : Nat) (bs : List Byte) : (s.setBytes a bs).tlb2 = s.tlb2 := by
  induction bs generalizing s a with
  | nil => rfl
  | cons b bs ih => simp [setBytes, ih]
@[simp] theorem setBytes_groups (s : State) (a : Nat) (bs : List Byte) : (s.setBytes a bs).groups = s.groups := by
  induction bs generalizing s a with
  | nil => rfl
  | cons b bs ih => simp [setBytes, ih]
@[simp] theorem setBytes_blocks (s : State) (a : Nat) (bs : List Byte) : (s.setBytes a bs).blocks = s.blocks := by
  induction bs generalizing s a with
  | nil => rfl
  | cons b bs ih => simp [setBytes, ih]
@[simp] theorem setBytes_tenants (s : State) (a : Nat) (bs : List Byte) : (s.setBytes a bs).tenants = s.tenants := by
  induction bs generalizing s a with
  | nil => rfl
  | cons b bs ih => simp [setBytes, ih]
@[simp] theorem setBytes_events (s : State) (a : Nat) (bs : List Byte) : (s.setBytes a bs).events = s.events := by
  induction bs generalizing s a with
  | nil => rfl
  | cons b bs ih => simp [setBytes, ih]
@[simp] theorem setBytes_pool (s : State) (a : Nat) (bs : List Byte) : (s.setBytes a bs).pool = s.pool := by
  induction bs generalizing s a with
  | nil => rfl
  | cons b bs ih => simp [setBytes, ih]
@[simp] theorem setBytes_outside (s : State) (a : Nat) (bs : List Byte) : (s.setBytes a bs).outside = s.outside := by
  induction bs generalizing s a with
  | nil => rfl
  | cons b bs ih => simp [setBytes, ih]
@[simp] theorem setBytes_outSubs (s : State) (a : Nat) (bs : List Byte) : (s.setBytes a bs).outSubs = s.outSubs := by
  induction bs generalizing s a with
  | nil => rfl
  | cons b bs ih => simp [setBytes, ih]
@[simp] theorem setBytes_inSubs (s : State) (a : Nat) (bs : List Byte) : (s.setBytes a bs).inSubs = s.inSubs := by
  induction bs generalizing s a with
  | nil => rfl
  | cons b bs ih => simp [setBytes, ih]
@[simp] theorem setBytes_sorOwner (s : State) (a : Nat) (bs : List Byte) : (s.setBytes a bs).sorOwner = s.sorOwner := by
  induction bs generalizing s a with
  | nil => rfl
  | cons b bs ih => simp [setBytes, ih]
@[simp] theorem setBytes_slots (s : State) (a : Nat) (bs : List Byte) : (s.setBytes a bs).slots = s.slots := by
  induction bs generalizing s a with
  | nil => rfl
  | cons b bs ih => simp [setBytes, ih]
@[simp] theorem setBytes_shadow (s : State) (a : Nat) (bs : List Byte) : (s.setBytes a bs).shadow = s.shadow := by
  induction bs generalizing s a with
  | nil => rfl
  | cons b bs ih => simp [setBytes, ih]
@[simp] theorem setBytes_pwr (s : State) (a : Nat) (bs : List Byte) : (s.setBytes a bs).pwr = s.pwr := by
  induction bs generalizing s a with
  | nil => rfl
  | cons b bs ih => simp [setBytes, ih]
@[simp] theorem setBytes_pkg (s : State) (a : Nat) (bs : List Byte) : (s.setBytes a bs).pkg = s.pkg := by
  induction bs generalizing s a with
  | nil => rfl
  | cons b bs ih => simp [setBytes, ih]
@[simp] theorem setBytes_host (s : State) (a : Nat) (bs : List Byte) : (s.setBytes a bs).host = s.host := by
  induction bs generalizing s a with
  | nil => rfl
  | cons b bs ih => simp [setBytes, ih]
@[simp] theorem setBytes_fab (s : State) (a : Nat) (bs : List Byte) : (s.setBytes a bs).fab = s.fab := by
  induction bs generalizing s a with
  | nil => rfl
  | cons b bs ih => simp [setBytes, ih]
@[simp] theorem setBytes_svc (s : State) (a : Nat) (bs : List Byte) : (s.setBytes a bs).svc = s.svc := by
  induction bs generalizing s a with
  | nil => rfl
  | cons b bs ih => simp [setBytes, ih]
@[simp] theorem setBytes_agenda (s : State) (a : Nat) (bs : List Byte) : (s.setBytes a bs).agenda = s.agenda := by
  induction bs generalizing s a with
  | nil => rfl
  | cons b bs ih => simp [setBytes, ih]
@[simp] theorem setBytes_turn (s : State) (a : Nat) (bs : List Byte) : (s.setBytes a bs).turn = s.turn := by
  induction bs generalizing s a with
  | nil => rfl
  | cons b bs ih => simp [setBytes, ih]
@[simp] theorem setBytes_cur (s : State) (a : Nat) (bs : List Byte) : (s.setBytes a bs).cur = s.cur := by
  induction bs generalizing s a with
  | nil => rfl
  | cons b bs ih => simp [setBytes, ih]
@[simp] theorem setBytes_freeCount (s : State) (a : Nat) (bs : List Byte) : (s.setBytes a bs).freeCount = s.freeCount := by
  induction bs generalizing s a with
  | nil => rfl
  | cons b bs ih => simp [setBytes, ih]
@[simp] theorem setBytes_serial (s : State) (a : Nat) (bs : List Byte) : (s.setBytes a bs).serial = s.serial := by
  induction bs generalizing s a with
  | nil => rfl
  | cons b bs ih => simp [setBytes, ih]

end State

end Sys2Proof.Machine
end

