-- ==== Sys2Proof/Laws/Operands.lean ====
section
/-! SUPPORT. What the start of an instruction hands on where nothing is in its way, and where a condition of R252 is. -/

namespace Sys2Proof.Machine

/-! ### The operand values as a map -/

/-- A lookup in two pieces, of which the first does not list the key. -/
theorem find_append_right {α : Type} {a b : Map α} {x : Nat} (h : ∀ e ∈ a, e.1 < x) : Map.find (a ++ b) x = Map.find b x := by
  induction a with
  | nil => rfl
  | cons e a ih =>
    obtain ⟨k, v⟩ := e
    have := h (k, v) (by simp)
    simp only [List.cons_append, Map.find_cons]
    rw [if_neg (by simp at this; omega), ih fun e he => h e (by simp [he])]

/-- A lookup in two pieces, of which the second does not list the key. -/
theorem find_append_left {α : Type} {a b : Map α} {x : Nat} (h : ∀ e ∈ b, x < e.1) : Map.find (a ++ b) x = Map.find a x := by
  induction a with
  | nil =>
    induction b with
    | nil => rfl
    | cons e b ih =>
      obtain ⟨k, v⟩ := e
      have := h (k, v) (by simp)
      simp only [List.nil_append, Map.find_cons] at ih ⊢
      simp at this
      rw [if_neg (by omega), ih fun e he => h e (by simp [he])]
  | cons e a ih =>
    obtain ⟨k, v⟩ := e
    simp only [List.cons_append, Map.find_cons, ih]

/-- A row of a table: the values of lanes from `lo` upward under one base key. -/
theorem find_row (base : Nat) (f : Nat → Option Nat) (lo n l : Nat) :
    Map.find ((List.range' lo n).filterMap fun i => (f i).map fun v => (base + i, v)) (base + l) =
      if lo ≤ l ∧ l < lo + n then f l else none := by
  induction n generalizing lo with
  | zero => first | (simp; omega) | simp
  | succ n ih =>
    simp only [List.range'_succ, List.filterMap_cons]
    cases hf : f lo with
    | none =>
      simp only [Option.map_none, ih]
      by_cases h : lo = l
      · subst h; rw [if_neg (by omega), if_pos (by omega), hf]
      · by_cases h1 : lo + 1 ≤ l ∧ l < lo + 1 + n
        · rw [if_pos h1, if_pos (by omega)]
        · rw [if_neg h1, if_neg (by omega)]
    | some v =>
      simp only [Option.map_some, Map.find_cons, ih]
      by_cases h : l = lo
      · subst h; rw [if_pos rfl, if_pos (by omega), hf]
      · rw [if_neg (by omega)]
        by_cases h2 : lo + 1 ≤ l ∧ l < lo + 1 + n
        · rw [if_pos h2, if_pos (by omega)]
        · rw [if_neg h2, if_neg (by omega)]

/-- The fields of a list of sources rise strictly, and are below 8. -/
def fieldsRise : Nat → List Src → Bool
  | _, [] => true
  | lo, q :: qs => decide (lo ≤ q.fld) && decide (q.fld < 8) && fieldsRise (q.fld + 1) qs

theorem fieldsRise_ge {lo : Nat} {qs : List Src} (h : fieldsRise lo qs = true) : ∀ q ∈ qs, lo ≤ q.fld := by
  induction qs generalizing lo with
  | nil => simp
  | cons p qs ih =>
    simp only [fieldsRise, Bool.and_eq_true, decide_eq_true_eq] at h
    intro q hq
    rcases List.mem_cons.1 hq with rfl | hq
    · exact h.1.1
    · have := ih h.2 q hq; omega

theorem foldl_fixed {α β : Type} {f : β → α → β} {r : β} {xs : List α} (h : ∀ x ∈ xs, f r x = r) : xs.foldl f r = r := by
  induction xs with
  | nil => rfl
  | cons x xs ih => rw [List.foldl_cons, h x (by simp), ih fun y hy => h y (by simp [hy])]

namespace State

theorem operandVals_keys {s : State} {c : Issue} {srcs : List Src} {pop : Nat → Option QEntry}
    (hw : (s.group c.gid).flow.width ≤ 64) {e : Nat × Nat} (he : e ∈ s.operandVals c srcs pop) :
    ∃ q ∈ srcs, 64 * q.fld ≤ e.1 ∧ e.1 < 64 * q.fld + 64 := by
  simp only [operandVals, List.mem_flatMap, List.mem_filterMap, List.mem_range, Option.map_eq_some_iff] at he
  obtain ⟨q, hq, l, hl, v, -, rfl⟩ := he
  exact ⟨q, hq, by simp, by simp; omega⟩

/-- The value of a source in the table of operand values. -/
theorem find_operandVals {s : State} {c : Issue} {srcs : List Src} {pop : Nat → Option QEntry} {lo : Nat}
    (hw : (s.group c.gid).flow.width ≤ 64) (hr : fieldsRise lo srcs = true) {q : Src} (hq : q ∈ srcs) {l : Nat} (hl : l < 64) :
    Map.find (s.operandVals c srcs pop) (64 * q.fld + l) =
      if l < (s.group c.gid).flow.width then s.readOpnd c.gid (s.group c.gid) c.active pop q.opnd q.n l else none := by
  induction srcs generalizing lo with
  | nil => simp at hq
  | cons p srcs ih =>
    simp only [fieldsRise, Bool.and_eq_true, decide_eq_true_eq] at hr
    have hsplit : s.operandVals c (p :: srcs) pop =
        ((List.range (s.group c.gid).flow.width).filterMap fun l =>
          (s.readOpnd c.gid (s.group c.gid) c.active pop p.opnd p.n l).map fun v => (64 * p.fld + l, v)) ++
        s.operandVals c srcs pop := by simp [operandVals]
    rw [hsplit]
    rcases List.mem_cons.1 hq with rfl | hq
    · rw [find_append_left, List.range_eq_range', find_row]
      · simp
      · intro e he
        obtain ⟨r, hr1, h1, -⟩ := operandVals_keys hw he
        have := fieldsRise_ge hr.2 r hr1
        omega
    · rw [find_append_right, ih hr.2 hq]
      intro e he
      simp only [List.mem_filterMap, List.mem_range, Option.map_eq_some_iff] at he
      obtain ⟨i, hi, v, -, rfl⟩ := he
      have := fieldsRise_ge hr.2 q hq
      simp; omega

theorem find_operandVals_append {s : State} {c : Issue} {srcs : List Src} {pop : Nat → Option QEntry}
    (hw : (s.group c.gid).flow.width ≤ 64) (hr : fieldsRise 0 srcs = true) {q : Src} (hq : q ∈ srcs) {l : Nat} (hl : l < 64) :
    Map.find (s.operandVals c srcs pop ++ elemVals srcs pop) (64 * q.fld + l) =
      if l < (s.group c.gid).flow.width then s.readOpnd c.gid (s.group c.gid) c.active pop q.opnd q.n l else none := by
  rw [find_append_left, find_operandVals hw hr hq hl]
  intro e he
  have h8 : ∀ q ∈ srcs, q.fld < 8 := by
    clear he hq
    generalize 0 = lo at hr
    induction srcs generalizing lo with
    | nil => simp
    | cons p srcs ih =>
      simp only [fieldsRise, Bool.and_eq_true, decide_eq_true_eq] at hr
      intro q hq
      rcases List.mem_cons.1 hq with rfl | hq
      · exact hr.1.2
      · exact ih _ hr.2 q hq
  have := h8 q hq
  simp only [elemVals, List.mem_filterMap] at he
  obtain ⟨p, hp, he⟩ := he
  split at he
  · simp only [Option.map_eq_some_iff] at he
    obtain ⟨v, -, rfl⟩ := he
    simp; omega
  · simp at he

/-- Nothing is charged for elements that no lane reads. -/
theorem chargeHost_elemCost_nil (s : State) (g t e : Nat) (p : Pattern) : s.chargeHost t (s.elemCost g p e []).2 = s := by
  simp [elemCost, chargeHost, hostUnits, chargeUnits]

/-- Queue operands that all have their values are not read again. -/
theorem rereadQueues_of_have {s : State} {g : Nat} {srcs : List Src} {lanes : List Nat} {vals : Map Nat}
    (h : ∀ q ∈ srcs, ∀ k, q.opnd = .q k → ∀ l ∈ lanes, (Map.find vals (64 * q.fld + l)).isSome = true) :
    s.rereadQueues g srcs lanes vals = (s, vals, [], []) := by
  refine foldl_fixed fun q hq => ?_
  split
  · next k hk =>
    split
    · rfl
    · have hd : (lanes.filter fun l => (Map.find vals (64 * q.fld + l)).isNone) = [] := by
        simp only [List.filter_eq_nil_iff]
        intro l hl
        have := h q hq k hk l hl
        cases hf : Map.find vals (64 * q.fld + l) <;> simp_all
      simp only [hd, chargeHost_elemCost_nil]
      exact foldl_fixed fun l hl => by simp [h q hq k hk l hl]
  · rfl

/-- A push notes its element where no operand value stands. -/
theorem find_pushAll (s : State) (g : Nat) (qs : List Nat) (vals : Map Nat) {k : Nat} (hk : k ≠ pushKey) :
    Map.find (s.pushAll g qs vals).2 k = Map.find vals k := by
  suffices h : ∀ (r : State × Map Nat), Map.find (qs.foldl (fun (r : State × Map Nat) q =>
      let p := r.1.takePush g q
      (p.1, Map.put pushKey p.2 r.2)) r).2 k = Map.find r.2 k from h (s, vals)
  induction qs with
  | nil => intro r; rfl
  | cons q qs ih => intro r; rw [List.foldl_cons, ih]; simp [Map.find_put, hk]

/-- What a first issue keeps besides its operands hides none of them. -/
theorem find_keepLanes {c : Issue} {vals : Map Nat} {k : Nat} (hk : k < 64 * 8) :
    Map.find (keepLanes c vals) k = Map.find vals k := by
  rw [keepLanes, Map.find_put, Map.find_put, if_neg (by unfold activeKey; omega), if_neg (by unfold leadKey; omega)]

theorem fields_lt {srcs : List Src} {lo : Nat} (hr : fieldsRise lo srcs = true) : ∀ q ∈ srcs, q.fld < 8 := by
  induction srcs generalizing lo with
  | nil => simp
  | cons p srcs ih =>
    simp only [fieldsRise, Bool.and_eq_true, decide_eq_true_eq] at hr
    intro q hq
    rcases List.mem_cons.1 hq with rfl | hq
    · exact hr.1.2
    · exact ih hr.2 q hq

/-- The value of a source among those that an instruction with nothing in its way is given. -/
theorem find_afterQueues {s : State} {c : Issue} {a : Ask} (hw : (s.group c.gid).flow.width ≤ 64)
    (hr : fieldsRise 0 a.srcs = true) {q : Src} (hq : q ∈ a.srcs) {l : Nat} (hl : l < 64) :
    Map.find (s.afterQueues c a).2 (64 * q.fld + l) =
      if l < (s.group c.gid).flow.width then
        s.readOpnd c.gid (s.group c.gid) c.active (s.drawn c a) q.opnd q.n l
      else none := by
  have := fields_lt hr q hq
  rw [afterQueues, find_pushAll, find_keepLanes (by omega), find_operandVals_append hw hr hq hl]
  unfold pushKey; omega

/-- The lowest active lane stands among what a first issue keeps (R341). -/
theorem find_lead (s : State) (c : Issue) (a : Ask) :
    Map.find (s.afterQueues c a).2 leadKey = some ((lowest c.active).getD 0) := by
  rw [afterQueues, find_pushAll _ _ _ _ (by decide), keepLanes, Map.find_put, Map.find_put]
  simp [leadKey, activeKey]

/-- So do the active lanes (R308). -/
theorem find_active (s : State) (c : Issue) (a : Ask) : Map.find (s.afterQueues c a).2 activeKey = some c.active.toNat := by
  rw [afterQueues, find_pushAll _ _ _ _ (by decide), keepLanes, Map.find_put]
  simp

/-- An instruction with nothing in its way is given its lanes and its operands, and nothing else has happened. -/
theorem enter_clear {s : State} {c : Issue} {a : Ask} (h : Clear s c a) (hr : fieldsRise 0 a.srcs = true) :
    ∃ u x, s.enter a = .ok (u, c, x) ∧ Given s c a u x := by
  have hfind := fun q (hq : q ∈ a.srcs) l (hl : l < 64) => find_afterQueues (s := s) (c := c) h.width hr hq hl
  have hkeep : (s.afterQueues c a).1.rereadQueues c.gid a.srcs (laneList (s.givers c a)) (s.afterQueues c a).2 =
      ((s.afterQueues c a).1, (s.afterQueues c a).2, [], []) := by
    refine rereadQueues_of_have fun q hq k hk l hl => ?_
    have hl64 : l < 64 ∧ (s.givers c a).getLsbD l = true := by
      simpa [laneList, lanesOf] using hl
    have hw : l < (s.group c.gid).flow.width := by
      apply h.lanes
      have := hl64.2
      simp only [givers, takers, BitVec.getLsbD_and, Bool.and_eq_true] at this
      have := this.1
      split at this
      · exact this
      · simp only [predLanes_getLsbD, Bool.and_eq_true] at this
        exact this.1.2
    rw [hfind q hq l hl64.1, if_pos hw, hk]
    obtain ⟨e, he, hb⟩ := h.filled k.toNat (by
      simp only [queuesIn, List.mem_eraseDups, List.mem_filterMap]
      exact ⟨q, hq, by simp [hk]⟩)
    have hbl : e.bad.getLsbD l = false := by
      have := congrArg (·.getLsbD l) hb
      simpa [hl64.2] using this
    simp [readOpnd, he, hbl]
  refine ⟨s.afterReads c a, ⟨s.takers c a, s.givers c a, c.active, (s.afterQueues c a).2, none, s.takers c a, 0⟩, ?_, ?_⟩
  · have hk := hkeep
    have hc := h.clean
    have hn := h.near
    have hd : (s.popAll c.gid (queuesIn a.srcs)).1.pushAll c.gid (pushesIn a.dsts)
        (keepLanes c (s.operandVals c a.srcs (poppedOf (s.popAll c.gid (queuesIn a.srcs)).2) ++
          elemVals a.srcs (poppedOf (s.popAll c.gid (queuesIn a.srcs)).2))) = s.afterQueues c a := rfl
    unfold enter
    simp only [h.cur, h.first, h.wf, Bool.not_true, h.free, h.sliced]
    simp only [givers, takers] at hc hn hk
    simp only [hc, hn]
    unfold enterFirst
    simp only [hd, afterReads]
    have hz (m : Lanes) : m &&& 18446744073709551615#64 = m := BitVec.and_allOnes
    simp [hk, errLanes, takers, givers, hz]
  · refine ⟨rfl, rfl, rfl, rfl, rfl, rfl, rfl, ?_, ?_, fun q hq l hl => ?_⟩
    · simp [Ctx.lead, find_lead]
    · simp [Ctx.first, find_active]
    simp only [Ctx.val, Map.get, hfind q hq l hl, srcVal]
    split <;> rfl

/-- What an instruction does that meets one of the conditions 4 to 8 of R252. -/
theorem enter_fault {s : State} {c : Issue} {a : Ask} {cause : BitVec 8} (hc : s.cur = some c) (hf : c.replay = none)
    (hw : a.instr.wf = true) (h : s.entryFault c a = some cause) :
    s.enter a = .error (s.trapNow c.gid cause (s.takers c a) c.clause c.idx) := by
  unfold enter
  simp only [hc, hf, hw, Bool.not_true, h, takers]
  by_cases hwh : a.ctl.whole = true <;> simp [hwh]

end State

theorem run_clear {s : State} {c : Issue} {a : Ask} {body : State → Issue → Ctx → State} (h : Clear s c a)
    (hr : fieldsRise 0 a.srcs = true) : ∃ u x, Given s c a u x ∧ run s a body = .next (body u c x) := by
  obtain ⟨u, x, he, hg⟩ := State.enter_clear h hr
  exact ⟨u, x, hg, by simp [run, he]⟩

/-- A fixed-latency instruction computes what its meaning puts. -/
theorem computes_of {i : Instr} {a : Ask} {d : Opnd} {n : Nat} {f g : Ctx → Nat → Nat} (hr : fieldsRise 0 a.srcs = true)
    (hi : a.instr = i) (he : ∀ s, exec i s = fixedOp s a d n f) (hf : ∀ x l, f x l = g x l) : Computes i a d n g := by
  intro s c h
  obtain ⟨u, x, hg, hx⟩ := run_clear (body := fun t c x => s.putFixed t c a.instr x d n (f x)) h hr
  refine ⟨u, x, hg, ?_⟩
  rw [he, ← hi, show g x = f x from funext fun l => (hf x l).symm]
  exact hx

/-- A variable-latency instruction computes what its meaning puts. -/
theorem computesLater_of {i : Instr} {a : Ask} {k : Kind} {d : Opnd} {n : Nat} {f g : Issue → Nat → Ctx → Nat → Nat}
    (hr : fieldsRise 0 a.srcs = true) (hi : a.instr = i)
    (he : ∀ s, exec i s = run s a fun t c x => s.putLater t c a.instr x k d n (f c (t.group c.gid).flow.width x))
    (hf : ∀ c w x l, f c w x l = g c w x l) : ComputesLater i a k d n g := by
  intro s c h
  obtain ⟨u, x, hg, hx⟩ :=
    run_clear (body := fun t c x => s.putLater t c a.instr x k d n (f c (t.group c.gid).flow.width x)) h hr
  refine ⟨u, x, hg, ?_⟩
  rw [he, ← hi, show g c (u.group c.gid).flow.width x = f c (u.group c.gid).flow.width x from
    funext fun l => (hf _ _ _ l).symm]
  exact hx

end Sys2Proof.Machine
end

