-- ==== Sys2Proof/Laws/Registers.lean ====
section
/-! SUPPORT. Registers: what a written register reads as, and what a fixed-latency write changes and leaves. -/

namespace Sys2Proof.Machine

namespace Regs

theorem getV_setV (r : Regs) {n m l k : Nat} (x : Word) (hl : l < 64) (hk : k < 64) :
    (r.setV n l x).getV m k = if m = n ∧ k = l then x else r.getV m k := by
  simp only [setV, getV, Map.get_set, key]
  by_cases h : m = n ∧ k = l
  · obtain ⟨rfl, rfl⟩ := h; simp
  · rw [if_neg h, if_neg (by omega)]

theorem getG_setG (r : Regs) (n m : Nat) (x : Word) : (r.setG n x).getG m = if m = n then x else r.getG m := by
  simp only [setG, getG, Map.get_set]

theorem getP_setP (r : Regs) {n m l k : Nat} (b : Bool) (hl : l < 64) (hk : k < 64) :
    (r.setP n l b).getP m k = if m = n ∧ k = l ∧ n ≠ 15 then b else r.getP m k := by
  unfold setP getP
  by_cases hn : n = 15
  · simp [hn]
  · simp only [if_neg hn, Map.get_set]
    by_cases hm : m = 15
    · subst hm; simp [Ne.symm hn]
    · simp only [if_neg hm]
      by_cases h : m = n
      · subst h
        by_cases h2 : k = l
        · subst h2
          have h3 : (laneBit k)[k] = true := by
            rw [← BitVec.getLsbD_eq_getElem, laneBit_getLsbD]; simp [hk]
          cases b <;> simp [hk, hn, h3]
        · have h3 : (laneBit l)[k] = false := by
            rw [← BitVec.getLsbD_eq_getElem, laneBit_getLsbD]; simp [h2]
          cases b <;> simp [h2, hk, h3]
      · simp [h]

@[simp] theorem setG_getV (r : Regs) (n m k : Nat) (x : Word) : (r.setG n x).getV m k = r.getV m k := rfl
@[simp] theorem setG_getP (r : Regs) (n m k : Nat) (x : Word) : (r.setG n x).getP m k = r.getP m k := rfl
@[simp] theorem setV_getG (r : Regs) (n l m : Nat) (x : Word) : (r.setV n l x).getG m = r.getG m := rfl
@[simp] theorem setV_getP (r : Regs) (n l m k : Nat) (x : Word) : (r.setV n l x).getP m k = r.getP m k := rfl
@[simp] theorem setP_getV (r : Regs) (n l m k : Nat) (b : Bool) : (r.setP n l b).getV m k = r.getV m k := by
  unfold setP; split <;> rfl
@[simp] theorem setP_getG (r : Regs) (n l m : Nat) (b : Bool) : (r.setP n l b).getG m = r.getG m := by
  unfold setP; split <;> rfl

end Regs

/-! ### Several keys written -/

theorem putKey_getV (r : Regs) (key x : Nat) {m k : Nat} (hm : m < 128) (hk : k < 64) :
    (putKey r key x).getV m k = if key = 64 * m + k then BitVec.ofNat 32 x else r.getV m k := by
  unfold putKey
  split
  · rw [Regs.getV_setV _ _ (Nat.mod_lt _ (by decide)) hk]
    by_cases h : key = 64 * m + k
    · rw [if_pos h, if_pos ⟨by omega, by omega⟩]
    · rw [if_neg h, if_neg (by omega)]
  · next h => rw [if_neg (by omega : ¬ key = 64 * m + k)]; split <;> simp

theorem putKey_getG (r : Regs) (key x : Nat) {m : Nat} (hm : m < 64) :
    (putKey r key x).getG m = if key / 64 = 128 + m then BitVec.ofNat 32 x else r.getG m := by
  unfold putKey
  split
  · rw [if_neg (by omega)]; simp
  · split
    · rw [Regs.getG_setG]
      by_cases h : key / 64 = 128 + m
      · rw [if_pos h, if_pos (by omega)]
      · rw [if_neg h, if_neg (by omega)]
    · rw [if_neg (by omega)]; simp

theorem putKey_getP (r : Regs) (key x : Nat) {m k : Nat} (hk : k < 64) :
    (putKey r key x).getP m k = if key = 64 * (192 + m) + k ∧ m ≠ 15 then x % 2 == 1 else r.getP m k := by
  unfold putKey
  split
  · rw [if_neg (by omega)]; simp
  · split
    · rw [if_neg (by omega)]; simp
    · rw [Regs.getP_setP _ _ (Nat.mod_lt _ (by decide)) hk]
      by_cases h : key = 64 * (192 + m) + k ∧ m ≠ 15
      · rw [if_pos h, if_pos ⟨by omega, by omega, by omega⟩]
      · rw [if_neg h, if_neg (by omega)]

theorem foldl_putKey_getV (ks : List (Nat × Nat × Nat)) (F : Nat × Nat × Nat → Nat) (r : Regs) {m k : Nat} {v : Word}
    (hm : m < 128) (hk : k < 64) (hv : ∀ e ∈ ks, e.1 = 64 * m + k → BitVec.ofNat 32 (F e) = v) :
    (ks.foldl (fun r e => putKey r e.1 (F e)) r).getV m k =
      if (∃ e ∈ ks, e.1 = 64 * m + k) then v else r.getV m k := by
  induction ks generalizing r with
  | nil => simp
  | cons e ks ih =>
    rw [List.foldl_cons, ih _ fun e he => hv e (by simp [he]), putKey_getV _ _ _ hm hk]
    by_cases h1 : ∃ e ∈ ks, e.1 = 64 * m + k
    · have h2 : ∃ x ∈ e :: ks, x.1 = 64 * m + k := by obtain ⟨x, hx, h⟩ := h1; exact ⟨x, by simp [hx], h⟩
      rw [if_pos h1, if_pos h2]
    · rw [if_neg h1]
      by_cases h2 : e.1 = 64 * m + k
      · rw [if_pos h2, if_pos ⟨e, by simp, h2⟩, hv e (by simp) h2]
      · have h3 : ¬ ∃ x ∈ e :: ks, x.1 = 64 * m + k := by
          rintro ⟨x, hx, h⟩
          rcases List.mem_cons.1 hx with rfl | hx
          · exact h2 h
          · exact h1 ⟨x, hx, h⟩
        rw [if_neg h2, if_neg h3]

theorem foldl_putKey_getG (ks : List (Nat × Nat × Nat)) (F : Nat × Nat × Nat → Nat) (r : Regs) {m : Nat} {v : Word}
    (hm : m < 64) (hv : ∀ e ∈ ks, e.1 / 64 = 128 + m → BitVec.ofNat 32 (F e) = v) :
    (ks.foldl (fun r e => putKey r e.1 (F e)) r).getG m =
      if (∃ e ∈ ks, e.1 / 64 = 128 + m) then v else r.getG m := by
  induction ks generalizing r with
  | nil => simp
  | cons e ks ih =>
    rw [List.foldl_cons, ih _ fun e he => hv e (by simp [he]), putKey_getG _ _ _ hm]
    by_cases h1 : ∃ e ∈ ks, e.1 / 64 = 128 + m
    · have h2 : ∃ x ∈ e :: ks, x.1 / 64 = 128 + m := by obtain ⟨x, hx, h⟩ := h1; exact ⟨x, by simp [hx], h⟩
      rw [if_pos h1, if_pos h2]
    · rw [if_neg h1]
      by_cases h2 : e.1 / 64 = 128 + m
      · rw [if_pos h2, if_pos ⟨e, by simp, h2⟩, hv e (by simp) h2]
      · have h3 : ¬ ∃ x ∈ e :: ks, x.1 / 64 = 128 + m := by
          rintro ⟨x, hx, h⟩
          rcases List.mem_cons.1 hx with rfl | hx
          · exact h2 h
          · exact h1 ⟨x, hx, h⟩
        rw [if_neg h2, if_neg h3]

theorem foldl_putKey_getP (ks : List (Nat × Nat × Nat)) (F : Nat × Nat × Nat → Nat) (r : Regs) {m k : Nat} {v : Bool}
    (hk : k < 64) (hv : ∀ e ∈ ks, e.1 = 64 * (192 + m) + k → (F e % 2 == 1) = v) :
    (ks.foldl (fun r e => putKey r e.1 (F e)) r).getP m k =
      if (∃ e ∈ ks, e.1 = 64 * (192 + m) + k) ∧ m ≠ 15 then v else r.getP m k := by
  by_cases h15 : m = 15
  · subst h15; simp [Regs.getP]
  simp only [h15, ne_eq, not_false_eq_true, and_true]
  induction ks generalizing r with
  | nil => simp
  | cons e ks ih =>
    rw [List.foldl_cons, ih _ fun e he => hv e (by simp [he]), putKey_getP _ _ _ hk]
    simp only [h15, ne_eq, not_false_eq_true, and_true]
    by_cases h1 : ∃ e ∈ ks, e.1 = 64 * (192 + m) + k
    · have h2 : ∃ x ∈ e :: ks, x.1 = 64 * (192 + m) + k := by obtain ⟨x, hx, h⟩ := h1; exact ⟨x, by simp [hx], h⟩
      rw [if_pos h1, if_pos h2]
    · rw [if_neg h1]
      by_cases h2 : e.1 = 64 * (192 + m) + k
      · rw [if_pos h2, if_pos ⟨e, by simp, h2⟩, hv e (by simp) h2]
      · have h3 : ¬ ∃ x ∈ e :: ks, x.1 = 64 * (192 + m) + k := by
          rintro ⟨x, hx, h⟩
          rcases List.mem_cons.1 hx with rfl | hx
          · exact h2 h
          · exact h1 ⟨x, hx, h⟩
        rw [if_neg h2, if_neg h3]

/-! ### A fixed-latency write -/

namespace State

theorem lowest_none {m : Lanes} (h : lowest m = none) : laneList m = [] := by
  simpa [lowest] using h

/-- Every field of the state but the groups is as before a fixed-latency write. -/
theorem writeNow_eq (s : State) (g : Nat) (o : Opnd) (n : Nat) (lanes : Lanes) (f : Nat → Nat) :
    s.writeNow g o n lanes f = { s with groups := (s.writeNow g o n lanes f).groups } := by
  unfold writeNow
  split
  · rfl
  · unfold onGroup; split <;> rfl

/-- Another group is as before a fixed-latency write. -/
theorem writeNow_other (s : State) (g : Nat) (o : Opnd) (n : Nat) (lanes : Lanes) (f : Nat → Nat) {h : Nat} (hg : h ≠ g) :
    (s.writeNow g o n lanes f).group h = s.group h := by
  unfold writeNow
  split
  · rfl
  · simp only [onGroup_group]; rw [if_neg (by omega)]

/-- A fixed-latency write to a vector register: each lane takes its value, and every other one is as before. -/
theorem writeNow_v (s : State) {g : Nat} (k : BitVec 7) (n : Nat) (lanes : Lanes) (f : Nat → Nat) {r l : Nat}
    (hg : s.hasGroup g = true) (hr : r < 128) (hl : l < 64) :
    ((s.writeNow g (.v k) n lanes f).group g).regs.getV r l =
      if lanes.getLsbD l = true ∧ k.toNat ≤ r ∧ r < k.toNat + n then BitVec.ofNat 32 (f l / 2 ^ (32 * (r - k.toNat)))
      else (s.group g).regs.getV r l := by
  unfold writeNow
  split
  · next h =>
    have h0 : ¬ lanes.getLsbD l = true := by
      intro hh
      have : l ∈ laneList lanes := mem_laneList.2 ⟨hl, hh⟩
      rw [lowest_none h] at this; simp at this
    simp [h0]
  · next low h =>
    simp only [onGroup_group, hg, and_self, if_true, putKeys]
    have hfold := foldl_putKey_getV (destKeys (.v k) n (laneList lanes) low) (fun e => f e.2.1 / 2 ^ (32 * e.2.2))
      (s.group g).regs (m := r) (k := l) (v := BitVec.ofNat 32 (f l / 2 ^ (32 * (r - k.toNat)))) hr hl ?_
    · refine Eq.trans hfold ?_
      have hiff : (∃ e ∈ destKeys (.v k) n (laneList lanes) low, e.1 = 64 * r + l) ↔
          (lanes.getLsbD l = true ∧ k.toNat ≤ r ∧ r < k.toNat + n) := by
        simp only [destKeys, List.mem_flatMap, List.mem_map, List.mem_range, mem_laneList]
        constructor
        · rintro ⟨e, ⟨l', ⟨hl', hb⟩, i, hi, rfl⟩, he⟩
          simp only at he
          have : l' = l := by omega
          subst this
          exact ⟨hb, by omega, by omega⟩
        · rintro ⟨hb, h1, h2⟩
          exact ⟨_, ⟨l, ⟨hl, hb⟩, r - k.toNat, by omega, rfl⟩, by simp only; omega⟩
      simp only [hiff]
    · simp only [destKeys, List.mem_flatMap, List.mem_map, List.mem_range, mem_laneList]
      rintro e ⟨l', ⟨hl', hb⟩, i, hi, rfl⟩ he
      simp only at he ⊢
      have h1 : l' = l := by omega
      have h2 : i = r - k.toNat := by omega
      rw [h1, h2]

/-- A fixed-latency write to a uniform register: it takes the value of the lowest lane (R311). -/
theorem writeNow_g (s : State) {g : Nat} (k : BitVec 6) (n : Nat) {lanes : Lanes} (f : Nat → Nat) {r low : Nat}
    (hg : s.hasGroup g = true) (hr : r < 64) (hlow : lowest lanes = some low) :
    ((s.writeNow g (.g k) n lanes f).group g).regs.getG r =
      if k.toNat ≤ r ∧ r < k.toNat + n then BitVec.ofNat 32 (f low / 2 ^ (32 * (r - k.toNat)))
      else (s.group g).regs.getG r := by
  have hlow64 : low < 64 := by
    have : low ∈ laneList lanes := List.mem_of_mem_head? (by simp [lowest] at hlow; simp [hlow])
    exact (mem_laneList.1 this).1
  simp only [writeNow, hlow, onGroup_group, hg, and_self, if_true, putKeys]
  have hfold := foldl_putKey_getG (destKeys (.g k) n (laneList lanes) low) (fun e => f e.2.1 / 2 ^ (32 * e.2.2))
    (s.group g).regs (m := r) (v := BitVec.ofNat 32 (f low / 2 ^ (32 * (r - k.toNat)))) hr ?_
  · refine Eq.trans hfold ?_
    have hiff : (∃ e ∈ destKeys (.g k) n (laneList lanes) low, e.1 / 64 = 128 + r) ↔
        (k.toNat ≤ r ∧ r < k.toNat + n) := by
      simp only [destKeys, List.mem_map, List.mem_range]
      constructor
      · rintro ⟨e, ⟨i, hi, rfl⟩, he⟩
        simp only at he
        exact ⟨by omega, by omega⟩
      · rintro ⟨h1, h2⟩
        exact ⟨_, ⟨r - k.toNat, by omega, rfl⟩, by simp only; omega⟩
    simp only [hiff]
  · simp only [destKeys, List.mem_map, List.mem_range]
    rintro e ⟨i, hi, rfl⟩ he
    simp only at he ⊢
    have h2 : i = r - k.toNat := by omega
    rw [h2]

/-- A fixed-latency write to a predicate: each lane takes bit 0 of its value; p15 stays as it is (R166, R283). -/
theorem writeNow_p (s : State) {g : Nat} (k : BitVec 4) (n : Nat) (lanes : Lanes) (f : Nat → Nat) {r l : Nat}
    (hg : s.hasGroup g = true) (hl : l < 64) :
    ((s.writeNow g (.p k) n lanes f).group g).regs.getP r l =
      if lanes.getLsbD l = true ∧ r = k.toNat ∧ r ≠ 15 then f l % 2 == 1 else (s.group g).regs.getP r l := by
  unfold writeNow
  split
  · next h =>
    have h0 : ¬ lanes.getLsbD l = true := by
      intro hh
      have : l ∈ laneList lanes := mem_laneList.2 ⟨hl, hh⟩
      rw [lowest_none h] at this; simp at this
    simp [h0]
  · next low h =>
    simp only [onGroup_group, hg, and_self, if_true, putKeys]
    have hfold := foldl_putKey_getP (destKeys (.p k) n (laneList lanes) low) (fun e => f e.2.1 / 2 ^ (32 * e.2.2))
      (s.group g).regs (m := r) (k := l) (v := f l % 2 == 1) hl ?_
    · refine Eq.trans hfold ?_
      have hiff : ((∃ e ∈ destKeys (.p k) n (laneList lanes) low, e.1 = 64 * (192 + r) + l) ∧ r ≠ 15) ↔
          (lanes.getLsbD l = true ∧ r = k.toNat ∧ r ≠ 15) := by
        simp only [destKeys, List.mem_map, mem_laneList]
        constructor
        · rintro ⟨⟨e, ⟨l', ⟨hl', hb⟩, rfl⟩, he⟩, h15⟩
          simp only at he
          have : l' = l := by omega
          subst this
          exact ⟨hb, by omega, h15⟩
        · rintro ⟨hb, h1, h2⟩
          exact ⟨⟨_, ⟨l, ⟨hl, hb⟩, rfl⟩, by simp only; omega⟩, h2⟩
      simp only [hiff]
    · simp only [destKeys, List.mem_map, mem_laneList]
      rintro e ⟨l', ⟨hl', hb⟩, rfl⟩ he
      simp only at he ⊢
      have h1 : l' = l := by omega
      simp [h1]

end State

end Sys2Proof.Machine
end

