-- ==== Sys2Proof/Tests/Slice0.lean ====
section
/-! SUPPORT. Tests of the decoder on words written out from the encoding tables, of the checks of well-formedness, of single
steps, and a witness for the hypotheses of each statement. -/



namespace Sys2Proof.Tests

/- The theorems are evaluated one after another: each waiting thread would hold a stack of its own. -/
set_option Elab.async false

open Sys2Proof.Machine

/-! ### Decoding: the words are written out from R280, R281, R283 to R290 and the tables of R296 -/

/-- An instruction word with X 0; one with X 1 and PRED 15; one with X 1 and the given predicate. -/
def plain : Ctl := { sw := false, hold := false, ext := false, pred := 15, neg := false }
def more : Ctl := { plain with ext := true }
def given (p : BitVec 4) (neg : Bool) : Ctl := { more with pred := p, neg }

/-- An instruction of layout type. -/
def alu (ctl : Ctl) (ty : Ty) (sub : BitVec 5) (d a b c : Opnd) (aux : BitVec 6 := 0) (fsi : BitVec 3 := 0) : Alu :=
  { ctl, fsi, ty, sub, aux, d, a, b, c }

/-- The words of engine class `ecl` decode to the instructions beside them. -/
def decodes (ecl : Nat) (rows : List (Word × Word × Instr)) : Bool :=
  rows.all fun r => decodeInstr ecl r.1 r.2.1 == some r.2.2

theorem test_decode_ctl_1 : decodes 0 [
    (0x00000000, 0, .nop ⟨plain⟩),
    (0x0100FFF0, 0, .bra ⟨plain, .v 0, 0xFFF0⟩),
    (0x4200C100, 0xF0E0000B, .brd ⟨more, .v 0, .p 1, 11⟩),
    (0x03008400, 0, .bri ⟨plain, .v 0, .g 4, .v 0⟩),
    (0x04880010, 0, .call ⟨plain, .g 8, 16⟩),
    (0x05008800, 0, .ret ⟨plain, .v 0, .g 8, .v 0⟩),
    (0x46018700, 0xF0E00009, .loop ⟨more, 1, .g 7, 9⟩),
    (0x07020000, 0, .lbrk ⟨plain, 2, .v 0, 0⟩),
    (0x48030000, 0x28E00000, .enrol ⟨given 2 true, 3⟩),
    (0x09050000, 0, .park ⟨plain, 5⟩),
    (0x0A070000, 0, .strike ⟨plain, 7⟩),
    (0x0B000000, 0, .regang ⟨plain⟩),
    (0x0C000000, 0, .yield ⟨plain⟩),
    (0x4D000000, 0x30E00000, .exit ⟨given 3 false⟩),
    (0x0E000000, 0, .jobend ⟨plain⟩),
    (0x4F000000, 0xF0E0BEEF, .trap ⟨more, .v 0, .v 0, 0xBEEF⟩)] = true := by decide

theorem test_decode_ctl_2 : decodes 0 [
    (0x10000000, 0, .bkpt ⟨plain⟩),
    (0x11000000, 0, .sleep ⟨plain⟩),
    (0x520A0000, 0xF0E00001, .gets ⟨more, .v 10, .v 0, 1⟩),
    (0x53000400, 0xF0E00010, .setsSrseed ⟨more, .v 0, .v 4, 0x10⟩),
    (0x53008600, 0xF0E00020, .setsSorbnd ⟨more, .v 0, .g 6, 0x20⟩),
    (0x5300E900, 0xF0E00022, .setsHostsig ⟨more, .v 0, .const 9, 0x22⟩),
    (0x53008200, 0xF0E00030, .setsBankrole ⟨more, .v 0, .g 2, 0x30⟩),
    (0x53000600, 0xF0E00031, .setsTlbinv ⟨more, .v 0, .v 6, 0x31⟩),
    (0x53000800, 0xF0E00032, .setsFltres ⟨more, .v 0, .v 8, 0x32⟩),
    (0x14000000, 0, .mbxpop ⟨plain⟩),
    (0x55038C00, 0xF0E00005, .enqop ⟨more, .v 3, .g 12, 5⟩),
    (0x168182E3, 0, .evsig ⟨plain, .g 1, .g 2, .const 3⟩),
    (0x5789E200, 0xF0E0C004, .acq ⟨more, .acc, 4, .g 9, .const 2⟩),
    (0x58058300, 0xF0E04000, .tryacq ⟨more, .spad, 0, .v 5, .g 3⟩),
    (0x5900E100, 0xF0E08000, .rel ⟨more, .tile, 0, .v 0, .const 1⟩),
    (0x1A060000, 0, .claimq ⟨plain, .vreg, 0, .v 6, .v 0⟩)] = true := by decide

theorem test_decode_int_1 : decodes 1 [
    (0x00040102, 0, .iadd (alu plain .dflt 0 (.v 4) (.v 1) (.v 2) (.const 0))),
    (0x4106080A, 0xF0E02040, .isub (alu more .s64 1 (.v 6) (.v 8) (.v 10) (.const 0))),
    (0xE2050403, 0x30E00000, .imul (alu { given 3 false with sw := true, hold := true } .dflt 0 (.v 5) (.v 4) (.v 3) (.const 0))),
    (0x430A0382, 0xF0E03800, .imulh (alu more .n32 0 (.v 10) (.v 3) (.g 2) (.const 0))),
    (0x440202E3, 0xF0010000, .imad (alu more .dflt 0 (.v 2) (.v 2) (.const 3) (.v 1))),
    (0x45070600, 0xF0E00840, .iabs (alu more .s8 1 (.v 7) (.v 6) (.v 0) (.const 0))),
    (0x46838485, 0xF0E03000, .imin (alu more .n16 0 (.g 3) (.g 4) (.g 5) (.const 0))),
    (0x4701D0EF, 0xF0E02800, .imax (alu more .n8 0 (.v 1) (.special .laneid) (.const 15) (.const 0))),
    (0x08021428, 0, .and (alu plain .dflt 0 (.v 2) (.v 20) (.v 40) (.const 0))),
    (0x4904162A, 0xF0E06000, .or (alu more .b64 0 (.v 4) (.v 22) (.v 42) (.const 0))),
    (0x0A06182C, 0, .xor (alu plain .dflt 0 (.v 6) (.v 24) (.v 44) (.const 0))),
    (0x4B081A2E, 0xF0E06000, .andn (alu more .b64 0 (.v 8) (.v 26) (.v 46) (.const 0))),
    (0x0C0A1C30, 0, .shl (alu plain .dflt 0 (.v 10) (.v 28) (.v 48) (.const 0))),
    (0x4D0C1E32, 0xF0E06000, .shr (alu more .b64 0 (.v 12) (.v 30) (.v 50) (.const 0))),
    (0x0E0E2034, 0, .sar (alu plain .dflt 0 (.v 14) (.v 32) (.v 52) (.const 0))),
    (0x4F102236, 0xF0E06000, .rot (alu more .b64 0 (.v 16) (.v 34) (.v 54) (.const 0)))] = true := by decide

theorem test_decode_int_2 : decodes 1 [
    (0x50010200, 0xF0E04000, .popc (alu more .n64 0 (.v 1) (.v 2) (.v 0) (.const 0))),
    (0x11030900, 0, .clz (alu plain .dflt 0 (.v 3) (.v 9) (.v 0) (.const 0))),
    (0x5204F100, 0xF0E05800, .brev (alu more .b32 0 (.v 4) (.q 1) (.v 0) (.const 0))),
    (0x53050607, 0xF0E01800, .bfx (alu more .s32 0 (.v 5) (.v 6) (.v 7) (.const 0))),
    (0x54050607, 0xF0BF0000, .bfi (alu more .dflt 0 (.v 5) (.v 6) (.v 7) (.g 63))),
    (0x55C10AE0, 0xF0E00140, .icmp (alu more .dflt 5 (.p 1) (.v 10) (.const 0) (.const 0))),
    (0x56010203, 0xF0C40000, .isel (alu more .dflt 0 (.v 1) (.v 2) (.v 3) (.p 4))),
    (0x1701D000, 0, .mov (alu plain .dflt 0 (.v 1) (.special .laneid) (.v 0) (.const 0))),
    (0x58021234, 0xF0E05678, .movi ⟨more, .v 2, 0x12345678⟩),
    (0x59028800, 0xF0E00002, .lea (alu more .dflt 0 (.v 2) (.g 8) (.v 0) (.const 0) 2)),
    (0x5A040500, 0xF0E02881, .cvti (alu more .n8 2 (.v 4) (.v 5) (.v 0) (.const 0) 1)),
    (0x1BC1C2C3, 0, .pand ⟨plain, .p 1, .p 2, .p 3⟩),
    (0x1CC4C5C6, 0, .por ⟨plain, .p 4, .p 5, .p 6⟩),
    (0x1DC7C8C9, 0, .pxor ⟨plain, .p 7, .p 8, .p 9⟩),
    (0x1ECFCE00, 0, .pnot ⟨plain, .p 15, .p 14, .v 0⟩)] = true := by decide

theorem test_decode_flt_1 : decodes 2 [
    (0x00040506, 0, .fadd (alu plain .dflt 0 (.v 4) (.v 5) (.v 6) (.const 0))),
    (0x41078809, 0xF0E07800, .fsub (alu more .f16 0 (.v 7) (.g 8) (.v 9) (.const 0))),
    (0x42010203, 0xF0E08000, .fmul (alu more .bf16 0 (.v 1) (.v 2) (.v 3) (.const 0))),
    (0x43010203, 0xF0040000, .ffma (alu more .dflt 0 (.v 1) (.v 2) (.v 3) (.v 4))),
    (0x44020406, 0xF0080000, .ffma2 (alu more .dflt 0 (.v 2) (.v 4) (.v 6) (.v 8))),
    (0x45010203, 0xF0047880, .hfma2 (alu more .f16 2 (.v 1) (.v 2) (.v 3) (.v 4))),
    (0x06010203, 0, .fmin (alu plain .dflt 0 (.v 1) (.v 2) (.v 3) (.const 0))),
    (0x47040506, 0xF0E07000, .fmax (alu more .f32 0 (.v 4) (.v 5) (.v 6) (.const 0))),
    (0x48C30102, 0xF0E001C0, .fcmp (alu more .dflt 7 (.p 3) (.v 1) (.v 2) (.const 0))),
    (0x49010203, 0xF0C50000, .fsel (alu more .dflt 0 (.v 1) (.v 2) (.v 3) (.p 5))),
    (0x4A010200, 0xF0E000C0, .frnd (alu more .dflt 3 (.v 1) (.v 2) (.v 0) (.const 0))),
    (0x4B090400, 0xF2E08B80, .fcvt (alu more .fs 14 (.v 9) (.v 4) (.v 0) (.const 0) 0 2))] = true := by decide

theorem test_decode_flt_2 : decodes 2 [
    (0x0C010200, 0, .frcp (alu plain .dflt 0 (.v 1) (.v 2) (.v 0) (.const 0))),
    (0x0D030400, 0, .frsq (alu plain .dflt 0 (.v 3) (.v 4) (.v 0) (.const 0))),
    (0x0E050600, 0, .fsqrt (alu plain .dflt 0 (.v 5) (.v 6) (.v 0) (.const 0))),
    (0x4F070800, 0xF0E07800, .fexp2 (alu more .f16 0 (.v 7) (.v 8) (.v 0) (.const 0))),
    (0x10090A00, 0, .flog2 (alu plain .dflt 0 (.v 9) (.v 10) (.v 0) (.const 0))),
    (0x110B0C00, 0, .fsin (alu plain .dflt 0 (.v 11) (.v 12) (.v 0) (.const 0))),
    (0x120D0E00, 0, .fcos (alu plain .dflt 0 (.v 13) (.v 14) (.v 0) (.const 0))),
    (0x530F1000, 0xF0E08000, .ftanh (alu more .bf16 0 (.v 15) (.v 16) (.v 0) (.const 0))),
    (0x140102E5, 0, .fscl (alu plain .dflt 0 (.v 1) (.v 2) (.const 5) (.const 0))),
    (0x55010200, 0xF0830000, .ffrx (alu more .dflt 0 (.v 1) (.v 2) (.v 0) (.g 3))),
    (0x16030400, 0, .fcls (alu plain .dflt 0 (.v 3) (.v 4) (.v 0) (.const 0))),
    (0x57010203, 0xF0048000, .fdot2 (alu more .bf16 0 (.v 1) (.v 2) (.v 3) (.v 4)))] = true := by decide

theorem test_decode_xln : decodes 3 [
    (0x400908E4, 0xF0E000C0, .shfl (alu more .dflt 3 (.v 9) (.v 8) (.const 4) (.const 0))),
    (0x41090800, 0xF0E00040, .qxch (alu more .dflt 1 (.v 9) (.v 8) (.v 0) (.const 0))),
    (0x0204C300, 0, .ballot ⟨plain, .v 4, .p 3, .v 0⟩),
    (0x43C2C100, 0xF0E00040, .vote (alu more .dflt 1 (.p 2) (.p 1) (.v 0) (.const 0))),
    (0x44040600, 0xF0E06000, .match_ (alu more .b64 0 (.v 4) (.v 6) (.v 0) (.const 0))),
    (0x45060500, 0x10E07000, .redux (alu (given 1 false) .f32 0 (.v 6) (.v 5) (.v 0) (.const 0))),
    (0x46060500, 0xF0E03A40, .scan (alu more .n32 9 (.v 6) (.v 5) (.v 0) (.const 0))),
    (0x0704C300, 0, .firstl ⟨plain, .v 4, .p 3, .v 0⟩),
    (0x480405E3, 0xF0E00042, .trdrow ⟨more, .dflt, true, 2, 5, .v 4, .const 3⟩),
    (0x49060781, 0xF0E05801, .twrrow ⟨more, .b32, false, 1, 6, .v 7, .g 1⟩),
    (0x0A0405E3, 0, .trdcol ⟨plain, .dflt, false, 0, 5, .v 4, .const 3⟩),
    (0x4B0F0781, 0xF0E00047, .twrcol ⟨more, .dflt, true, 7, 15, .v 7, .g 1⟩)] = true := by decide

theorem test_decode_mem : decodes 4 [
    (0x40140200, 0xF0E0AB00, .ld ⟨more, .dev, .acq, .b64, 0, .v 20, .v 2, .v 0, .const 0⟩),
    (0x41008AE1, 0xF0E0B000, .st ⟨more, .dev, .rel, .dflt, 0, .v 0, .g 10, .const 1, .const 0⟩),
    (0x020C8300, 0, .lds ⟨plain, .none, .rlx, .dflt, 0, .v 12, .g 3, .v 0, .const 0⟩),
    (0x43000506, 0xF0E05241, .sts ⟨more, .blk, .rel, .b8, 1, .v 0, .v 5, .v 6, .const 0⟩),
    (0x44050600, 0xF0E0C081, .ldv ⟨more, .pod, .rlx, .s16, 1, .v 5, .v 6, .v 0, .const 0⟩),
    (0x45000608, 0xF0E00340, .stv ⟨more, .none, .rlx, .b128, 0, .v 0, .v 6, .v 8, .const 0⟩),
    (0x46080206, 0xF0E0A0E0, .atom ⟨more, .dev, .rlx, false, .n32, .add, .v 8, .v 2, .v 6, .const 0⟩),
    (0x46080206, 0xF00AD987, .atom ⟨more, .pod, .acr, false, .b64, .cas, .v 8, .v 2, .v 6, .v 10⟩),
    (0x47000206, 0xF0E0A5C2, .red ⟨more, .dev, .rlx, true, .f32, .max, .v 0, .v 2, .v 6, .const 0⟩),
    (0x48000000, 0xF0E0B800, .fence ⟨more, .dev, .acr, 0, .v 0, .v 0, .v 0, .const 0⟩),
    (0x49070000, 0xF0E0E000, .sfence ⟨more, .sys, .rlx, 0, .v 7, .v 0, .v 0, .const 0⟩),
    (0x4A000000, 0xF0E0E000, .pbar ⟨more, .sys, .rlx, 0, .v 0, .v 0, .v 0, .const 0⟩),
    (0x0B000400, 0, .cflush ⟨plain, .none, .rlx, .dflt, 0, .v 0, .v 4, .v 0, .const 0⟩),
    (0x0C000600, 0, .cinv ⟨plain, .none, .rlx, .dflt, 0, .v 0, .v 6, .v 0, .const 0⟩),
    (0x4D000800, 0xF0E00001, .pref ⟨more, .none, .rlx, .dflt, 1, .v 0, .v 8, .v 0, .const 0⟩),
    (0x4E020406, 0xF008D300, .mcast ⟨more, .pod, .rel, .b64, 0, .v 2, .v 4, .v 6, .v 8⟩)] = true := by decide

theorem test_decode_asy : decodes 5 [
    (0x40828486, 0xF0898001, .acpy ⟨more, .coh, .rlx, 1, .g 2, .g 4, .g 6, .g 9⟩),
    (0x01050000, 0, .abatch ⟨plain, .v 5, .v 0, .v 0⟩),
    (0x02008500, 0, .await ⟨plain, .v 0, .g 5, .v 0⟩),
    (0x43078486, 0xF0E04001, .tcpy ⟨more, .blk, .rlx, 1, 7, .g 4, .g 6⟩),
    (0x44038409, 0xF0E00001, .rcpy ⟨more, .none, .rlx, 1, 9, .v 3, .g 4⟩),
    (0x45038486, 0xF0E06001, .coll ⟨more, .cor, .rlx, 1, 3, .g 4, .g 6⟩),
    (0x46818283, 0xF0E04000, .bari ⟨more, .blk, .rlx, 0, .g 1, .g 2, .g 3, .const 0⟩),
    (0x47848687, 0xF0E06000, .barx ⟨more, .cor, .rlx, 0, .g 4, .g 6, .g 7, .const 0⟩),
    (0x480182E3, 0xF0E09000, .bara ⟨more, .coh, .rel, 0, .v 1, .g 2, .const 3, .const 0⟩),
    (0x49048205, 0xF0E02801, .barw ⟨more, .grp, .acq, 1, .v 4, .g 2, .v 5, .const 0⟩),
    (0x4A00E500, 0xF0E05800, .bsync ⟨more, .blk, .acr, 0, .v 0, .const 5, .v 0, .const 0⟩),
    (0x4B008600, 0xF0E09800, .csync ⟨more, .coh, .acr, 0, .v 0, .g 6, .v 0, .const 0⟩),
    (0x4C0082E8, 0xF0E04000, .qinit ⟨more, .blk, .rlx, 0, .v 0, .g 2, .const 8, .const 0⟩),
    (0x4D008285, 0xF0E05000, .qpush ⟨more, .blk, .rel, 0, .v 0, .g 2, .g 5, .const 0⟩),
    (0x4E038200, 0xF0E06800, .qpop ⟨more, .cor, .acq, 0, .v 3, .g 2, .v 0, .const 0⟩),
    (0x4F048200, 0xF0E04801, .qtry ⟨more, .blk, .acq, 1, .v 4, .g 2, .v 0, .const 0⟩)] = true := by decide

theorem test_decode_mtx : decodes 6 [
    (0x40050000, 0xF0E0013F, .mclaim ⟨more, 1, 63, 5⟩),
    (0x01050000, 0, .mrel ⟨plain, 0, 0, 5⟩),
    (0x42020001, 0x21854010, .mma ⟨given 2 false, 1, 2, 0, 16, 2, 0, 1, .g 5⟩),
    (0x43030405, 0xF6EFE109, .mmas ⟨more, 6, 7, 1, 9, 3, 4, 5, .const 15⟩),
    (0x04090000, 0, .azero ⟨plain, 0, 0, 9⟩),
    (0x4500048A, 0xF0E00008, .ast ⟨more, 4, .g 10, 8⟩),
    (0x46030400, 0xF5E0000B, .acvt ⟨more, 5, 3, 4, 11⟩),
    (0x0700E400, 0, .mburst ⟨plain, .v 0, .const 4, .v 0⟩),
    (0x48010200, 0xF3E00000, .cvtn ⟨more, 3, 0, .v 1, .v 2, .v 0⟩),
    (0x49030400, 0xF1E00000, .cvtw ⟨more, 1, 0, .v 3, .v 4, .v 0⟩),
    (0x4A050600, 0xF7E00000, .sclx ⟨more, 7, 0, .v 5, .v 6, .v 0⟩),
    (0x4B010283, 0xF2E00000, .packn ⟨more, 2, 0, .v 1, .v 2, .g 3⟩),
    (0x4C010200, 0xF2E00100, .unpkn ⟨more, 2, 1, .v 1, .v 2, .v 0⟩)] = true := by decide
/-- The decoder refuses the words. -/
def rejects (ecl : Nat) (rows : List (Word × Word)) : Bool := rows.all fun r => decodeInstr ecl r.1 r.2 == none

/-- Reserved majors, operand codes, types, state registers and index numbers, and fields in use that an entry leaves unused
(R282 to R290, R296). -/
theorem test_reject_reserved :
    rejects 0 [(0x1B000000, 0), (0x1F000000, 0), (0x0C000100, 0), (0x4C000000, 0x20E00000), (0x08080000, 0),
      (0x4603E400, 0xF0E00003), (0x53000400, 0xF0E00001), (0x520A0000, 0xF0E00009), (0x55030000, 0xF0E00010)] = true ∧
    rejects 1 [(0x1F000000, 0), (0x00E00102, 0), (0x0004F402, 0), (0x00F00102, 0), (0x0004F802, 0),
      (0x0004DF02, 0), (0x40040102, 0xF0010000), (0x40040102, 0xF0E09000), (0x40050204, 0xF0E02000),
      (0x55C10200, 0xF0E00180), (0x60040202, 0xF0E02000)] = true ∧
    rejects 2 [(0x18000000, 0), (0x4B090400, 0xF0E018C0), (0x45010203, 0xF0047000)] = true ∧
    rejects 3 [(0x0C000000, 0), (0x43C2C100, 0xF0E05840), (0x46060500, 0xF0E07000)] = true ∧
    rejects 4 [(0x0F000000, 0), (0x46080206, 0xF0E000E0), (0x40140200, 0xF0E0B300), (0x47000206, 0xF0E0A166),
      (0x48000000, 0xF0E0A000)] = true ∧
    rejects 5 [(0x10000000, 0), (0x4E038200, 0xF0E06000), (0x43108486, 0xF0E04001)] = true ∧
    rejects 6 [(0x0D000000, 0), (0x43030405, 0xF6EFE10A), (0x4500048A, 0xF0E00001), (0x40100000, 0xF0E00000)] = true := by
  decide

/-- R279: a clause is decoded whole, and an instruction that must be last is refused elsewhere, by its index. -/
theorem test_clause_placement :
    (match Header.decode 0x10001000 with | .ok h => decodeClause 16 h [0x0100FFF0, 0x00000000] | .error e => .error e) matches
      .error _ := by decide

/-! ### Well-formedness: a term for each check, which the check refuses -/

/-- The checks refuse the terms. -/
def refused (ls : List (List Instr)) : Bool := ls.all fun l => l.all fun i => !i.wf

/-- The checks that instructions of layout type share: AUX, FSI, the destination and the source A. -/
def badFields (o : Alu) : List Alu :=
  [{ o with aux := 63 }, { o with fsi := 1 }, { o with d := .const 1 }, { o with d := .latch 0 }, { o with a := .sq 0 }]
def badOne (o : Alu) : List Alu := badFields o ++ [{ o with b := .v 1 }, { o with c := .v 0 }]
def badTwo (o : Alu) : List Alu := badFields o ++ [{ o with b := .sq 1 }, { o with c := .v 0 }]
def badThree (o : Alu) : List Alu := badFields o ++ [{ o with b := .sq 1 }, { o with c := .sq 2 }]

def held : Ctl := { more with hold := true }
def part : Ctl := given 3 false
def one (ty : Ty := .dflt) : Alu := alu more ty 0 (.v 4) (.v 8) (.v 0) (.const 0)
def two (ty : Ty := .dflt) : Alu := alu more ty 0 (.v 4) (.v 8) (.v 12) (.const 0)
def three (ty : Ty := .dflt) : Alu := alu more ty 0 (.v 4) (.v 8) (.v 12) (.v 16)

theorem test_wf_int_arithmetic : refused [
    (badTwo two ++ [two .f32, two .b32, { two with sub := 2 }, { two .s64 with d := .v 5 }, { two .s64 with a := .p 1 },
      { two .n64 with b := .q 0 }, { two .s64 with ctl := held }]).map .iadd,
    (badTwo two ++ [{ two with sub := 2 }]).map .isub,
    (badTwo two ++ [{ two with sub := 1 }, two .b32]).map .imul,
    (badTwo two ++ [two .s16, two .n8, { two with sub := 1 }]).map .imulh,
    (badThree three ++ [{ three with sub := 1 }, three .f16]).map .imad,
    (badOne one ++ [{ one with sub := 2 }, one .n32]).map .iabs,
    (badTwo two ++ [{ two with sub := 1 }]).map .imin, (badTwo two ++ [{ two with sub := 1 }]).map .imax] = true := by
  decide

theorem test_wf_int_bits : refused [
    (badTwo two ++ [two .s32, two .b16, { two with sub := 1 }]).map .and, (badTwo two ++ [two .n32]).map .or,
    (badTwo two ++ [two .b128]).map .xor, (badTwo two ++ [two .b8]).map .andn,
    (badTwo two ++ [two .s32, { two .b64 with ctl := held }]).map .shl, (badTwo two ++ [two .n32]).map .shr,
    (badTwo two ++ [two .b16]).map .sar, (badTwo two ++ [two .f32]).map .rot,
    (badOne one ++ [one .b16, one .s8, { one with sub := 1 }]).map .popc, (badOne one ++ [one .f32]).map .clz,
    (badOne one ++ [one .s32]).map .brev,
    (badTwo two ++ [two .s16, two .b32, { two with sub := 1 }]).map .bfx,
    (badThree three ++ [three .n16, three .b8, { three with sub := 1 }]).map .bfi] = true := by decide

theorem test_wf_int_moves : refused [
    (badTwo { two with d := .p 1 } ++ [two, { two with d := .p 1, sub := 6 }, { two .b32 with d := .p 1, sub := 2 },
      { two .f32 with d := .p 1 }]).map .icmp,
    (badThree { three with c := .p 1 } ++ [three, { three .s32 with c := .p 1 }]).map .isel,
    (badOne one ++ [one .s32, one .b16, { one .b128 with d := .v 2 }, { one .b128 with a := .latch 1 }]).map .mov,
    [.movi ⟨more, .const 0, 1⟩, .movi ⟨held, .v 1, 1⟩],
    ([{ two with aux := 8 }, { two with fsi := 1 }, { two with d := .v 3 }, { two with d := .p 2 }, { two with a := .v 3 },
      { two with b := .sq 0 }, { two with c := .v 0 }, { two with sub := 1 }, two .s16,
      { two with ctl := held }]).map .lea,
    (badOne one ++ [one .f32, one .b128, { one with sub := 14 }, { one with sub := 18 }, { one with aux := 2 }]).map .cvti,
    ([⟨more, .v 1, .p 1, .p 2⟩, ⟨more, .p 0, .v 1, .p 2⟩, ⟨more, .p 0, .p 1, .v 2⟩, ⟨held, .p 0, .p 1, .p 2⟩] : List Reg3).map .pand,
    [.por ⟨more, .p 0, .p 1, .const 1⟩, .pxor ⟨more, .g 0, .p 1, .p 2⟩, .pnot ⟨more, .p 0, .p 1, .p 2⟩,
      .pnot ⟨more, .p 0, .v 1, .v 0⟩, .pnot ⟨more, .v 0, .p 1, .v 0⟩, .pnot ⟨held, .p 0, .p 1, .v 0⟩]] = true := by decide

theorem test_wf_flt : refused [
    (badTwo two ++ [two .s32, two .fs, { two with sub := 1 }]).map .fadd, (badTwo two ++ [two .n32]).map .fsub,
    (badTwo two).map .fmul, (badThree three ++ [three .b32, { three with sub := 1 }]).map .ffma,
    (badThree three ++ [three .f16, { three with d := .v 5 }, { three with c := .v 3 }, { three with ctl := held }]).map .ffma2,
    (badThree (three .f16) ++ [three, three .f32, { three .f16 with sub := 3 }]).map .hfma2,
    (badTwo two).map .fmin, (badTwo two ++ [two .s8]).map .fmax,
    (badTwo { two with d := .p 1 } ++ [two, { two with d := .p 1, sub := 8 }, { two .s32 with d := .p 1 }]).map .fcmp,
    (badThree { three with c := .p 1 } ++ [three, { three .b32 with c := .p 1 }]).map .fsel,
    (badOne one ++ [one .s32, { one with sub := 4 }]).map .frnd,
    ([{ one with aux := 4 }, { one with fsi := 1 }, { one .s32 with sub := 3 }, { one .fs with sub := 17 },
      { one .fs with sub := 14, aux := 1 }, { one with sub := 9 }, { one with d := .special .one }, { one with b := .v 1 },
      { one with c := .v 1 }, { one with a := .sq 3 }, one .b32]).map .fcvt,
    (badOne one ++ [one .s32, { one with sub := 1 }]).map .frcp, (badOne one).map .frsq, (badOne one).map .fsqrt,
    (badOne one).map .fexp2, (badOne one).map .flog2, (badOne one).map .fsin, (badOne one).map .fcos,
    (badOne one ++ [one .fs]).map .ftanh, (badTwo two ++ [two .s32]).map .fscl,
    (badFields { one with c := .v 1 } ++ [one, { one with c := .p 1 }, { one with c := .v 1, b := .v 1 }]).map .ffrx,
    (badOne one ++ [{ one with sub := 1 }]).map .fcls, (badThree (three .bf16) ++ [three]).map .fdot2] = true := by decide

theorem test_wf_xln : refused [
    (badTwo two ++ [two .s32, { two with sub := 4 }]).map .shfl, (badOne one ++ [one .b16, { one with sub := 8 }]).map .qxch,
    ([⟨more, .v 3, .p 1, .v 0⟩, ⟨more, .v 4, .v 1, .v 0⟩, ⟨more, .v 4, .p 1, .v 1⟩, ⟨held, .v 4, .p 1, .v 0⟩] : List Reg3).map .ballot,
    ([one, alu more .b32 0 (.p 1) (.p 2) (.v 0) (.const 0), alu more .dflt 4 (.p 1) (.p 2) (.v 0) (.const 0),
      alu more .dflt 0 (.p 1) (.v 2) (.v 0) (.const 0), alu more .dflt 0 (.p 1) (.p 2) (.v 1) (.const 0),
      alu more .dflt 0 (.p 1) (.p 2) (.v 0) (.v 0), alu more .dflt 0 (.p 1) (.p 2) (.v 0) (.const 0) 1,
      alu more .dflt 0 (.p 1) (.p 2) (.v 0) (.const 0) 0 1, alu held .dflt 0 (.p 1) (.p 2) (.v 0) (.const 0)]).map .vote,
    (badOne one ++ [one .s32, { one with d := .v 3 }, { one with sub := 1 }]).map .match_,
    (badOne { one with sub := 3 } ++ [one, one .s16, { one .s32 with sub := 6 }, { one .f32 with sub := 3 }]).map .redux,
    (badOne { one with sub := 3 } ++ [{ one .s32 with sub := 16 }, one .f32, { one .b32 with sub := 8 }]).map .scan,
    ([⟨more, .p 3, .p 1, .v 0⟩, ⟨more, .v 3, .v 1, .v 0⟩, ⟨more, .v 3, .p 1, .v 1⟩, ⟨held, .v 3, .p 1, .v 0⟩] : List Reg3).map .firstl,
    ([⟨more, .s32, false, 0, 1, .v 4, .const 1⟩, ⟨more, .dflt, false, 0, 1, .const 0, .const 1⟩,
      ⟨more, .dflt, false, 0, 1, .v 4, .v 1⟩, ⟨held, .dflt, false, 0, 1, .v 4, .const 1⟩] : List TileRow).map .trdrow,
    [.trdcol ⟨more, .dflt, false, 0, 1, .v 4, .special .laneid⟩, .twrrow ⟨more, .f32, false, 0, 1, .v 4, .const 1⟩,
      .twrrow ⟨more, .dflt, false, 0, 1, .sq 0, .const 1⟩, .twrcol ⟨more, .dflt, false, 0, 1, .v 4, .v 1⟩]] = true := by decide

def load : MemOp := ⟨more, .none, .rlx, .dflt, 0, .v 1, .v 2, .v 0, .const 0⟩
def store : MemOp := ⟨more, .none, .rlx, .dflt, 0, .v 0, .v 2, .v 6, .const 0⟩
def line : MemOp := { load with d := .v 0 }
def cast : MemOp := ⟨more, .none, .rlx, .dflt, 0, .v 2, .v 4, .v 6, .v 8⟩
def atomic : AtomicOp := ⟨more, .dev, .rlx, false, .dflt, .add, .v 8, .v 2, .v 6, .const 0⟩

theorem test_wf_mem : refused [
    ([{ load with ty := .s32 }, { load with ty := .f32 }, { load with sub := 1 }, { load with ord := .acq },
      { load with scope := .sys }, { load with scope := .dev, ord := .rel }, { load with scope := .dev, ord := .acr },
      { load with d := .p 1 }, { load with ty := .b64 }, { load with a := .v 3 }, { load with a := .q 0 },
      { load with b := .v 1 }, { load with c := .v 0 }, { load with ctl := held }]).map .ld,
    ([{ store with ty := .s8 }, { store with sub := 1 }, { store with scope := .blk, ord := .acq }, { store with d := .v 1 },
      { store with a := .latch 0 }, { store with b := .sq 0 }, { store with c := .v 1 }, { store with ctl := held }]).map .st,
    ([{ load with sub := 2 }, { load with scope := .dev }, { load with ty := .n32 }, { load with a := .sq 0 },
      { load with d := .const 2 }, { load with b := .v 1 }, { load with c := .v 0 }]).map .lds,
    ([{ store with sub := 2 }, { store with scope := .pod }, { store with ty := .n8 }, { store with a := .sq 0 },
      { store with d := .v 2 }, { store with b := .sq 1 }, { store with c := .v 0 }]).map .sts,
    ([{ load with sub := 2 }, { load with scope := .sys }, { load with scope := .dev, ord := .rel }]).map .ldv,
    ([{ store with sub := 2 }, { store with scope := .sys }, { store with scope := .dev, ord := .acq }]).map .stv,
    ([{ atomic with scope := .none }, { atomic with scope := .sys }, { atomic with ty := .s16 }, { atomic with op := .xor, ty := .s32 },
      { atomic with op := .min, ty := .b32 }, { atomic with op := .cas, cm := true, c := .v 3 }, { atomic with d := .p 1 },
      { atomic with a := .v 3 }, { atomic with b := .sq 0 }, { atomic with c := .v 1 }, { atomic with op := .cas, c := .sq 0 },
      { atomic with ctl := held }]).map .atom,
    ([{ atomic with d := .v 0, op := .exch }, { atomic with d := .v 0, ord := .acq }, atomic, { atomic with d := .v 0, c := .v 1 },
      { atomic with d := .v 0, scope := .none }, { atomic with d := .v 0, ctl := held }]).map .red,
    ([⟨more, .none, .acr, 0, .v 0, .v 0, .v 0, .const 0⟩, ⟨more, .sys, .acr, 0, .v 0, .v 0, .v 0, .const 0⟩,
      ⟨more, .dev, .rlx, 0, .v 0, .v 0, .v 0, .const 0⟩, ⟨more, .dev, .acr, 1, .v 0, .v 0, .v 0, .const 0⟩,
      ⟨more, .dev, .acr, 0, .v 1, .v 0, .v 0, .const 0⟩, ⟨part, .dev, .acr, 0, .v 0, .v 0, .v 0, .const 0⟩,
      ⟨held, .dev, .acr, 0, .v 0, .v 0, .v 0, .const 0⟩] : List SyncOp).map .fence,
    ([⟨more, .dev, .rlx, 0, .v 1, .v 0, .v 0, .const 0⟩, ⟨more, .sys, .acr, 0, .v 1, .v 0, .v 0, .const 0⟩,
      ⟨more, .sys, .rlx, 1, .v 1, .v 0, .v 0, .const 0⟩, ⟨more, .sys, .rlx, 0, .p 1, .v 0, .v 0, .const 0⟩,
      ⟨part, .sys, .rlx, 0, .v 1, .v 0, .v 0, .const 0⟩, ⟨more, .sys, .rlx, 0, .v 1, .v 1, .v 0, .const 0⟩] : List SyncOp).map .sfence,
    [.pbar ⟨more, .dev, .rlx, 0, .v 0, .v 0, .v 0, .const 0⟩, .pbar ⟨more, .sys, .acq, 0, .v 0, .v 0, .v 0, .const 0⟩,
      .pbar ⟨more, .sys, .rlx, 0, .v 1, .v 0, .v 0, .const 0⟩, .pbar ⟨part, .sys, .rlx, 0, .v 0, .v 0, .v 0, .const 0⟩],
    ([{ line with scope := .dev }, { line with ord := .acq }, { line with ty := .b32 }, { line with sub := 1 }, load,
      { line with a := .v 3 }, { line with b := .v 1 }, { line with c := .v 1 }, { line with ctl := held }]).map .cflush,
    [.cinv { line with sub := 1 }, .cinv load, .pref { line with sub := 2 }, .pref load],
    ([{ cast with ty := .s32 }, { cast with sub := 1 }, { cast with scope := .dev }, { cast with scope := .pod }, { cast with ord := .rel },
      { cast with d := .v 3 }, { cast with a := .v 3 }, { cast with b := .sq 0 }, { cast with c := .const 0, a := .q 0 },
      { cast with c := .v 7 }, { cast with ctl := held }]).map .mcast] = true := by decide

def copy : SyncOp := ⟨more, .none, .rlx, 0, .v 0, .g 4, .g 6, .g 9⟩
def barrier : SyncOp := ⟨more, .blk, .rlx, 0, .g 1, .g 2, .g 3, .const 0⟩
def join : SyncOp := ⟨more, .blk, .acr, 0, .v 0, .const 5, .v 0, .const 0⟩
def push : SyncOp := ⟨more, .blk, .rlx, 0, .v 0, .g 2, .g 5, .const 0⟩
def pop : SyncOp := ⟨more, .blk, .acq, 0, .v 3, .g 2, .v 0, .const 0⟩
def tileOp : SyncTile := ⟨more, .blk, .rlx, 1, 7, .g 4, .g 6⟩

theorem test_wf_asy : refused [
    ([{ copy with sub := 8 }, { copy with ord := .acq }, { copy with scope := .blk }, { copy with d := .v 1 },
      { copy with sub := 1, scope := .dev, d := .g 2 }, { copy with sub := 1, scope := .blk, d := .p 1 }, { copy with a := .v 3 },
      { copy with b := .q 0 }, { copy with c := .sq 0 }, { copy with sub := 2 }, { copy with ctl := held }]).map .acpy,
    [.abatch ⟨more, .p 1, .v 0, .v 0⟩, .abatch ⟨more, .v 1, .v 1, .v 0⟩, .abatch ⟨more, .v 1, .v 0, .v 1⟩,
      .abatch ⟨part, .v 1, .v 0, .v 0⟩, .abatch ⟨held, .v 1, .v 0, .v 0⟩, .await ⟨more, .v 1, .g 1, .v 0⟩,
      .await ⟨more, .v 0, .v 1, .v 0⟩, .await ⟨more, .v 0, .g 1, .v 1⟩, .await ⟨part, .v 0, .g 1, .v 0⟩],
    ([{ tileOp with sub := 2 }, { tileOp with ord := .acq }, { tileOp with scope := .pod }, { tileOp with sub := 0 },
      { tileOp with y := .q 1 }, { tileOp with x := .g 5 }, { tileOp with ctl := part }, { tileOp with ctl := held }]).map .tcpy,
    ([tileOp, { tileOp with scope := .none, x := .p 1 }, { tileOp with scope := .none, y := .g 5 },
      { tileOp with scope := .none, sub := 2 }, { tileOp with scope := .none, ord := .rel },
      { tileOp with scope := .none, ctl := part }]).map .rcpy,
    ([{ tileOp with scope := .none }, { tileOp with sub := 2 }, { tileOp with ord := .acq }, { tileOp with x := .g 5 },
      { tileOp with y := .g 5 }, { tileOp with ctl := part }, { tileOp with ctl := held }]).map .coll,
    ([{ barrier with scope := .dev }, { barrier with ord := .acq }, { barrier with sub := 1 }, { barrier with d := .p 1 },
      { barrier with a := .g 3 }, { barrier with b := .sq 0 }, { barrier with c := .g 0 }, { barrier with ctl := part },
      { barrier with ctl := held }]).map .bari,
    [.barx { barrier with sub := 1 }, .bara barrier, .barw { barrier with ord := .acq, sub := 2 }, .barw barrier],
    ([{ join with scope := .cor }, { join with ord := .rlx }, { join with sub := 1 }, { join with d := .v 1 }, { join with a := .v 1 },
      { join with b := .v 1 }, { join with c := .v 1 }, { join with ctl := part }]).map .bsync, [.csync join],
    ([{ push with scope := .pod }, { push with ord := .acr }, { push with sub := 1 }, { push with d := .v 1 }, { push with a := .g 1 },
      { push with b := .v 1 }, { push with c := .v 1 }, { push with ctl := part }, { push with ctl := held }]).map .qinit,
    [.qpush push],
    ([{ pop with scope := .none }, { pop with ord := .rlx }, { pop with sub := 1 }, { pop with d := .p 1 }, { pop with a := .g 1 },
      { pop with b := .v 1 }, { pop with c := .v 1 }, { pop with ctl := part }, { pop with ctl := held }]).map .qpop,
    ([{ pop with sub := 1 }, { pop with sub := 2 }, { pop with ord := .rel }, { pop with scope := .dev, sub := 1, d := .v 4 },
      { pop with sub := 1, d := .v 4, b := .g 1 }, { pop with ord := .rel, b := .g 1, c := .v 0 }]).map .qtry] = true := by decide

theorem test_wf_mtx : refused [[
    .mclaim ⟨more, 0, 1, 5⟩, .mclaim ⟨more, 1, 64, 5⟩, .mclaim ⟨more, 2, 0, 5⟩, .mclaim ⟨part, 0, 0, 5⟩, .mclaim ⟨held, 0, 0, 5⟩,
    .mrel ⟨more, 1, 0, 5⟩, .mrel ⟨more, 0, 1, 5⟩, .mrel ⟨part, 0, 0, 5⟩, .mma ⟨more, 1, 2, 2, 16, 2, 0, 1, .g 5⟩,
    .mma ⟨more, 1, 2, 0, 16, 2, 0, 1, .v 5⟩, .mma ⟨held, 1, 2, 0, 16, 2, 0, 1, .g 5⟩, .mmas ⟨more, 1, 2, 0, 16, 2, 0, 1, .g 5⟩,
    .mmas ⟨more, 1, 2, 2, 15, 2, 0, 1, .g 5⟩, .azero ⟨more, 1, 0, 1⟩, .azero ⟨more, 0, 1, 1⟩, .azero ⟨held, 0, 0, 1⟩,
    .ast ⟨more, 4, .g 9, 8⟩, .ast ⟨more, 4, .g 10, 1⟩, .ast ⟨more, 4, .g 10, 2⟩, .ast ⟨held, 4, .g 10, 8⟩,
    .acvt ⟨more, 5, 3, 4, 12⟩, .acvt ⟨held, 5, 3, 4, 1⟩, .mburst ⟨more, .v 0, .v 4, .v 0⟩, .mburst ⟨part, .v 0, .g 4, .v 0⟩,
    .cvtn ⟨more, 3, 1, .v 1, .v 2, .v 0⟩, .cvtn ⟨more, 3, 0, .p 1, .v 2, .v 0⟩, .cvtn ⟨more, 3, 0, .v 1, .sq 0, .v 0⟩,
    .cvtw ⟨more, 3, 0, .v 1, .v 2, .v 1⟩, .sclx ⟨more, 3, 0, .const 1, .v 2, .v 0⟩, .packn ⟨more, 2, 1, .v 1, .v 2, .g 3⟩,
    .packn ⟨more, 2, 0, .v 1, .v 2, .v 3⟩, .unpkn ⟨more, 2, 2, .v 1, .v 2, .v 0⟩, .unpkn ⟨more, 2, 1, .v 1, .v 2, .v 3⟩,
    .unpkn ⟨more, 2, 0, .v 1, .v 2, .sq 3⟩]] = true := by decide

theorem test_wf_ctl : refused [[
    .nop ⟨held⟩, .bra ⟨more, .v 1, 4⟩, .bra ⟨held, .v 0, 4⟩, .brd ⟨plain, .v 0, .p 1, 11⟩, .brd ⟨more, .v 1, .p 1, 11⟩,
    .brd ⟨more, .v 0, .sq 1, 11⟩, .bri ⟨more, .v 1, .g 4, .v 0⟩, .bri ⟨more, .v 0, .g 5, .v 0⟩, .bri ⟨more, .v 0, .g 4, .v 1⟩,
    .bri ⟨held, .v 0, .g 4, .v 0⟩, .ret ⟨more, .v 0, .p 1, .v 0⟩, .call ⟨more, .g 9, 16⟩, .call ⟨more, .p 2, 16⟩,
    .call ⟨held, .g 8, 16⟩, .loop ⟨more, 3, .g 7, 9⟩, .loop ⟨more, 1, .v 7, 9⟩, .loop ⟨part, 1, .g 7, 9⟩, .lbrk ⟨more, 3, .v 0, 0⟩,
    .lbrk ⟨more, 1, .v 1, 0⟩, .lbrk ⟨more, 1, .v 0, 1⟩, .lbrk ⟨part, 1, .v 0, 0⟩, .lbrk ⟨held, 1, .v 0, 0⟩, .enrol ⟨held, 1⟩,
    .strike ⟨held, 1⟩, .park ⟨part, 1⟩, .park ⟨held, 1⟩, .regang ⟨part⟩, .regang ⟨held⟩, .yield ⟨part⟩, .yield ⟨held⟩, .exit ⟨held⟩,
    .jobend ⟨part⟩, .trap ⟨more, .v 1, .v 0, 1⟩, .trap ⟨more, .v 0, .v 1, 1⟩, .trap ⟨held, .v 0, .v 0, 1⟩, .bkpt ⟨held⟩,
    .sleep ⟨part⟩, .gets ⟨more, .v 10, .v 0, 0x09⟩, .gets ⟨more, .v 11, .v 0, 0⟩, .gets ⟨more, .v 10, .v 1, 1⟩,
    .gets ⟨part, .v 10, .v 0, 1⟩, .gets ⟨held, .v 10, .v 0, 1⟩, .setsSrseed ⟨more, .v 0, .v 4, 0x20⟩,
    .setsSorbnd ⟨more, .v 1, .g 6, 0x20⟩, .setsHostsig ⟨more, .v 0, .sq 0, 0x22⟩, .setsBankrole ⟨more, .v 0, .g 3, 0x30⟩,
    .setsTlbinv ⟨held, .v 0, .v 6, 0x31⟩, .setsFltres ⟨part, .v 0, .v 8, 0x32⟩, .mbxpop ⟨part⟩, .enqop ⟨more, .v 3, .g 12, 16⟩,
    .enqop ⟨more, .p 3, .g 12, 5⟩, .enqop ⟨more, .v 3, .g 13, 5⟩, .enqop ⟨part, .v 3, .g 12, 5⟩, .enqop ⟨held, .v 3, .g 12, 5⟩,
    .evsig ⟨more, .p 1, .g 2, .const 3⟩, .evsig ⟨more, .g 1, .v 2, .const 3⟩, .evsig ⟨more, .g 1, .g 2, .v 3⟩,
    .evsig ⟨part, .g 1, .g 2, .g 3⟩, .acq ⟨more, .spad, 1, .g 9, .const 2⟩, .acq ⟨more, .spad, 0, .p 9, .const 2⟩,
    .tryacq ⟨more, .spad, 0, .v 5, .v 3⟩, .tryacq ⟨part, .spad, 0, .v 5, .g 3⟩, .rel ⟨more, .tile, 1, .v 0, .const 1⟩,
    .rel ⟨more, .tile, 0, .v 1, .const 1⟩, .rel ⟨more, .tile, 0, .v 0, .v 1⟩, .claimq ⟨more, .acc, 1, .v 6, .v 0⟩,
    .claimq ⟨more, .acc, 0, .p 6, .v 0⟩, .claimq ⟨more, .acc, 0, .v 6, .v 1⟩, .claimq ⟨held, .acc, 0, .v 6, .v 0⟩]] = true := by decide

/-- An event is well formed where the units that it names exist. -/
theorem test_wf_events : refused [[
    .corePowerDown 64, .portDown 62, .numvfsWrite 9, .tenantEnable 8, .queueEnable 0 16 0, .grid 8 0, .jobDelivery 8,
    .registerWrite 9 0 4 0, .registerWrite 0 0 2 0, .vectorUnmask 0 8, .stripeEnable 0 8 0, .pageWalk 64 0 0,
    .groupReplay 16384, .asyncCopyWrite 64 0 1]] = true := by decide

/-! ### Witnesses: states that meet the hypotheses of the statements -/

/-- A block part of one group on core 0 of tenant 0, for the job of event-table entry 8192. -/
def aBlock : Block :=
  { tenant := 0, job := 8192, run := 0, core := 0, rank := 0, part := 0, bx := 0, bY := 0, bz := 0, width := 16,
    groups := [0], ngroups := 1, exited := 0, vdrop := 0, vmax := 16, smax := 4, tmax := 4, amax := 16, reserved := false,
    ended := false, dead := false, order := 0, spad := [0, 1], tiles := [0, 1, 2, 3], accs := [0, 1, 2, 3], entry := 0x1000,
    hazchk := false, twin := false, twinHi := false }

/-- Its group: 16 lanes, 16 granules of vector registers, tile name 5 and accumulator names 4 to 7 bound. -/
def aGroup : Group :=
  { Group.init with
    role := .job, block := 7, granules := 16, flow := State.startFlow 16 16 0x1000,
    regs := { Regs.init with tile := [(5, 0), (6, 1), (7, 2)], acc := [(4, 0)] } }

/-- Tenant 0, active, with cluster 0 and every window of its own. -/
def aTenant : Tenant := { Tenant.init with cfg := 1, st := .active }

/-- A module in which that group's part issues the instruction at index 0 of the clause at 0x1000. -/
def anIssue : Issue :=
  { gid := 0, quads := 0xF, active := 0xFFFF, clause := 0x1000, next := 0x1010, rgp := false, idx := 0, replay := none,
    adv := .next }

def aJob : EvEntry := { EvEntry.init with st := .running, left := 1, runs := [[0]] }

def lone : State :=
  { State.reset with
    groups := [(0, aGroup)], blocks := [(7, aBlock)], events := [(8192, aJob)], tenants := [(0, aTenant)],
    host := { HostSide.init with vfEnable := true, numVfs := 8 }, cur := some anIssue }

/-- `Clear`, decided. -/
def clearB (s : State) (c : Issue) (a : Ask) : Bool :=
  s.cur == some c && c.replay.isNone && c.cap.isNone && decide ((s.group c.gid).flow.width ≤ 64) &&
    (laneList c.active).all (fun l => decide (l < (s.group c.gid).flow.width)) && a.instr.wf && s.entryFault c a == none &&
    (s.group c.gid).slice.malformed == false && s.badRegs c.gid a (laneList (s.givers c a)) == [] && (s.elemsWait c (s.elemsDue c.gid a.srcs (laneList (s.givers c a)) none)).isNone &&
    (queuesIn a.srcs).all fun q => match s.drawn c a q with
      | some e => e.bad &&& s.givers c a == 0
      | none => false

theorem clear_of {s : State} {c : Issue} {a : Ask} (h : clearB s c a = true) : Clear s c a := by
  simp only [clearB, Bool.and_eq_true, beq_iff_eq, decide_eq_true_eq, List.all_eq_true, Option.isNone_iff_eq_none] at h
  obtain ⟨⟨⟨⟨⟨⟨⟨⟨⟨⟨h1, h2⟩, hf⟩, h3⟩, h4⟩, h5⟩, h6⟩, hs⟩, h7⟩, h8⟩, h9⟩ := h
  refine ⟨h1, h2, hf, h3, fun l hl => h4 l ?_, h5, h6, hs, h7, h8, fun q hq => ?_⟩
  · exact mem_laneList.2 ⟨BitVec.lt_of_getLsbD hl, hl⟩
  · have := h9 q hq
    split at this
    · rename_i e he
      exact ⟨e, he, by simpa using this⟩
    · cases this

/-- Every instruction of a list issues with nothing in its way in `lone`. -/
theorem clear_all {as : List Ask} (h : as.all (clearB lone anIssue) = true) : ∀ a ∈ as, Clear lone anIssue a :=
  fun a ha => clear_of (List.all_eq_true.1 h a ha)

theorem witness_IntegerArithmetic : ∀ a ∈
    [ask (.iadd (two .s64)) more (srcAB (two .s64) 2 2) [(.v 4, 2)], ask (.isub two) more (srcAB two 1 1) [(.v 4, 1)],
      ask (.imul (two .n8)) more (srcAB (two .n8) 1 1) [(.v 4, 1)], ask (.imulh (two .n64)) more (srcAB (two .n64) 2 2) [(.v 4, 2)],
      ask (.imad three) more (srcABC three 1 1 1) [(.v 4, 1)], ask (.iabs (one .s16)) more (srcA (one .s16) 1) [(.v 4, 1)],
      ask (.imin two) more (srcAB two 1 1) [(.v 4, 1)], ask (.imax (two .s64)) more (srcAB (two .s64) 2 2) [(.v 4, 2)]],
    Clear lone anIssue a := clear_all (by decide)

theorem witness_BitwiseAndShifts : ∀ a ∈
    [ask (.and two) more (srcAB two 1 1) [(.v 4, 1)], ask (.or (two .b64)) more (srcAB (two .b64) 2 2) [(.v 4, 2)],
      ask (.xor two) more (srcAB two 1 1) [(.v 4, 1)], ask (.andn two) more (srcAB two 1 1) [(.v 4, 1)],
      ask (.shl (two .b64)) more (srcAB (two .b64) 2 1) [(.v 4, 2)], ask (.shr two) more (srcAB two 1 1) [(.v 4, 1)],
      ask (.sar two) more (srcAB two 1 1) [(.v 4, 1)], ask (.rot two) more (srcAB two 1 1) [(.v 4, 1)],
      ask (.popc (one .b64)) more (srcA (one .b64) 2) [(.v 4, 1)], ask (.clz one) more (srcA one 1) [(.v 4, 1)],
      ask (.brev (one .b64)) more (srcA (one .b64) 2) [(.v 4, 2)], ask (.bfx two) more (srcAB two 1 1) [(.v 4, 1)],
      ask (.bfi (three .n64)) more (srcABC (three .n64) 2 2 1) [(.v 4, 2)]],
    Clear lone anIssue a := clear_all (by decide)

def cmp : Alu := { two with d := .p 1 }
def sel : Alu := { three with c := .p 1 }
def preds : Reg3 := ⟨more, .p 1, .p 2, .p 3⟩

theorem witness_CompareMoveConvert : ∀ a ∈
    [ask (.icmp cmp) more (srcAB cmp 1 1) [(.p 1, 1)], ask (.isel sel) more (srcABC sel 1 1 1) [(.v 4, 1)],
      ask (.mov (one .b128)) more (srcA (one .b128) 4) [(.v 4, 4)], ask (.lea two) more (srcAB two 2 1) [(.v 4, 2)],
      ask (.cvti { one with sub := 4 }) more (srcA { one with sub := 4 } 2) [(.v 4, 1)], ask (.movi ⟨more, .g 63, 1⟩) more [] [(.g 63, 1)],
      ask (.pand preds) more [(0, .p 2, 1), (1, .p 3, 1)] [(.p 1, 1)], ask (.por preds) more [(0, .p 2, 1), (1, .p 3, 1)] [(.p 1, 1)],
      ask (.pxor preds) more [(0, .p 2, 1), (1, .p 3, 1)] [(.p 1, 1)],
      ask (.pnot { preds with b := .v 0 }) more [(0, .p 2, 1)] [(.p 1, 1)]],
    Clear lone anIssue a := clear_all (by decide)

theorem witness_FloatArithmetic : ∀ a ∈
    [ask (.fadd two) more (srcAB two 1 1) [(.v 4, 1)], ask (.fsub (two .f16)) more (srcAB two 1 1) [(.v 4, 1)],
      ask (.fmul (two .bf16)) more (srcAB two 1 1) [(.v 4, 1)], ask (.ffma three) more (srcABC three 1 1 1) [(.v 4, 1)],
      ask (.ffma2 three) more (srcABC three 2 2 2) [(.v 4, 2)], ask (.hfma2 (three .f16)) more (srcABC three 1 1 1) [(.v 4, 1)],
      ask (.fdot2 (three .bf16)) more (srcABC three 1 1 1) [(.v 4, 1)], ask (.fscl two) more (srcAB two 1 1) [(.v 4, 1)]],
    Clear lone anIssue a := clear_all (by decide)

theorem witness_FloatChoice : ∀ a ∈
    [ask (.fmin two) more (srcAB two 1 1) [(.v 4, 1)], ask (.fmax two) more (srcAB two 1 1) [(.v 4, 1)],
      ask (.fcmp { cmp with sub := 7 }) more (srcAB cmp 1 1) [(.p 1, 1)], ask (.fsel sel) more (srcABC sel 1 1 1) [(.v 4, 1)],
      ask (.frnd one) more (srcA one 1) [(.v 4, 1)], ask (.fcls one) more (srcA one 1) [(.v 4, 1)],
      ask (.ffrx { one with c := .v 5 }) more (srcA one 1) [(.v 4, 1), (.v 5, 1)]],
    Clear lone anIssue a := clear_all (by decide)

theorem witness_FloatConversion : ∀ a ∈
    [ask (.fcvt { one .fs with sub := 14, fsi := 2 }) more (srcA one 1) [(.v 4, 1)],
      ask (.fcvt { one .s64 with sub := 17, aux := 3 }) more (srcA one 1) [(.v 4, 2)],
      ask (.fcvt { one .f16 with sub := 4 }) more (srcA one 2) [(.v 4, 1)]],
    Clear lone anIssue a := clear_all (by decide)

theorem witness_SpecialFunctions : ∀ i ∈
    [Instr.frcp one, .frsq one, .fsqrt one, .fexp2 one, .flog2 one, .fsin one, .fcos one, .ftanh one],
    Clear lone anIssue (ask i more (srcA one 1) [(.v 4, 1)]) := by
  intro i h
  exact clear_of (List.all_eq_true.1
    (show [Instr.frcp one, .frsq one, .fsqrt one, .fexp2 one, .flog2 one, .fsin one, .fcos one, .ftanh one].all
      (fun i => clearB lone anIssue (ask i more (srcA one 1) [(.v 4, 1)])) = true by decide) i h)

theorem witness_SpecialRounded : Fmt.f32.decode 0x40490FDB = .fin false 0xC90FDB (-22) ∧
    (0xC90FDB : Nat) ≠ 0 ∧ (-149 : Int) ≤ -149 ∧ (-149 : Int) ≤ 22 ∧ 2 * (-149 : Int) ≤ -22 := by decide

/-- 1.5, 2 and 128: no power of 2, an odd power of 2 that is an integer, and the least integer that FEXP2 overflows on. -/
theorem witness_SpecialValues : Fmt.f32.decode 0x7FC00000 = .nan ∧ Fmt.f32.decode 0xBF800000 = .fin true 0x800000 (-23) ∧
    (Fmt.f32.decode 0x3FC00000 = .fin false 0xC00000 (-23) ∧ (0xC00000 == 2 ^ Nat.log2 0xC00000) = false ∧
      toFix false 0xC00000 (-23) / (fixOne : Int) < 128 ∧ 0xC00000 % 2 ^ 23 ≠ 0) ∧
    (Fmt.f32.decode 0x40000000 = .fin false 0x800000 (-22) ∧ (-22 + (Nat.log2 0x800000 : Int)) % 2 ≠ 0) ∧
    (Fmt.f32.decode 0x43000000 = .fin false 0x800000 (-16) ∧ 128 ≤ toFix false 0x800000 (-16) / (fixOne : Int)) := by
  decide +kernel

theorem witness_RoundingOnTheGrid : (-149 : Int) ≤ -30 ∧ (-149 : Int) ≤ Fmt.f32.least := by decide

/-- Descriptors of dense slots of 8 bits with precision 4: signed and unsigned. -/
def signed8 : DWord := 0x303
def unsigned8 : DWord := 0x103

theorem witness_ConversionFates : fsValid signed8 = true ∧ fsValid unsigned8 = true ∧
    (fsFmt signed8).signed = true ∧ (fsFmt unsigned8).signed = false ∧
    (fsFmt signed8).maxCode < (fsFmt signed8).gridCode .ne false 1 40 ∧ (fsFmt signed8).gridCode .rz false 1 (-40) = 0 ∧
    0 < (fsFmt signed8).gridCode .ne true 1 0 ∧ (fsFmt signed8).gridCode .ne true 1 0 ≤ (fsFmt signed8).maxCode := by decide

theorem witness_ExactArithmetic : (-149 : Int) ≤ -30 ∧ (-149 : Int) ≤ 0 := by decide

/-- A row instruction on the accumulator name 4 and on the tile name 5, at the last row and the last word. -/
def rowOp (acc : Bool) (n : BitVec 4) : TileRow := ⟨more, .dflt, acc, 0, if acc then 4 else 5, .v 4, .const n⟩

theorem witness_CrossLane : (∀ a ∈
    [askCross (.shfl two) more (srcAB two 1 1) [(.v 4, 1)], askCross (.qxch one) more (srcA one 1) [(.v 4, 1)],
      askCross (.vote { one with d := .p 1, a := .p 2 }) more [(0, .p 2, 1)] [(.p 1, 1)],
      askCross (.match_ one) more (srcA one 1) [(.v 4, 2)],
      askCross (.ballot ⟨more, .v 4, .p 3, .v 0⟩) more [(0, .p 3, 1)] [(.v 4, 2)],
      askCross (.firstl ⟨more, .v 4, .p 3, .v 0⟩) more [(0, .p 3, 1)] [(.v 4, 1)]], Clear lone anIssue a) ∧
    lone.cur = some anIssue ∧ anIssue.replay = none ∧ 8 ≤ ({ one with sub := 8 } : Alu).sub.toNat :=
  ⟨clear_all (by decide), by decide⟩

theorem witness_ReduceAndScan : ∀ a ∈
    [askCross (.redux (one .f32)) more (srcA one 1) [(.v 4, 1)],
      askCross (.scan { one .n64 with sub := 13 }) more (srcA one 2) [(.v 4, 2)]], Clear lone anIssue a := clear_all (by decide)

theorem witness_CanonicalTree : ([1, 2, 3] : List Nat) ≠ [] ∧ [1, 2, 3].length ≤ 2 ^ 2 ∧ 2 * 0 + 1 < [1, 2, 3].length ∧
    [1, 2, 3].length % 2 = 1 ∧ Fmt.f32.decode 0x7FC00000 = .nan ∧ Fmt.f32.decode 0 ≠ .nan := by decide

theorem witness_TileRows :
    (∀ acc ∈ [true, false], ∀ i ∈ [Instr.trdrow (rowOp acc 15), .trdcol (rowOp acc 15)],
      Clear lone anIssue (askCross i more [(1, .const 15, 1)] [(.v 4, 1)])) ∧
    (∀ acc ∈ [true, false], ∀ i ∈ [Instr.twrrow (rowOp acc 15), .twrcol (rowOp acc 15)],
      Clear lone anIssue (askCross i more [(0, .v 4, 1), (1, .const 15, 1)] [])) ∧
    boundTile aGroup true 4 = some 0 ∧ boundTile aGroup false 5 = some 0 ∧
    (∀ l ∈ laneList 0xFFFF, (lone.viewFor 0 fun _ => true).1.poisoned (tilePlace 0 0 (256 * 15 + 4 * l)) = false) ∧ (lone.blockOf 0 = some aBlock ∧ aBlock.recent = [] ∧ lone.blockOf 256 = none) := by
  refine ⟨fun acc ha i hi => clear_of ?_, fun acc ha i hi => clear_of ?_, by decide⟩
  · revert i acc
    decide
  · revert i acc
    decide
/-! #### Operands, results, entry, traps, steps -/

theorem witness_OperandValues : 15 < (lone.group 0).flow.width ∧
    (let a := ask (.iadd { two with ctl := held }) held (srcAB two 1 1) [(.v 4, 1)]
     queuesIn a.srcs = [] ∧ pushesIn a.dsts = [] ∧ held.hold = true ∧ lone.hasGroup 0 = true ∧
      (lone.group 0).flow.width ≤ 64 ∧ (a.srcs.Pairwise fun q r => q.fld < r.fld) ∧ ∃ q ∈ a.srcs, q.fld = 0) := by decide

/-- A context of all 16 lanes, and one of none. -/
def ctx (lanes : Lanes) : Ctx := { lanes, contrib := lanes, active := 0xFFFF, vals := [], replay := none, part := lanes, late := 0 }

/-- A capture of the lanes 14 and 15 of a load, whose result is that of number 1; its last record has come. -/
def aReplay (kill fetch : Bool) : Capture :=
  { id := 3, instr := .ld load, clause := 0x1000, idx := 0, quads := 0xF, part := 0xFFFF, left := 0xC000, ops := [], pend := 1,
    out := 0, errs := [], records := [], unwritten := 0, kill, fetch, parked := true }

theorem witness_FixedResultFrame : lone.hasGroup 0 = true ∧ (∀ q, Opnd.v 127 ≠ .sq q) ∧
    (∀ d, Opnd.v 127 = .v d → d.toNat + 1 ≤ 128) ∧ (∀ d, Opnd.g 62 = .g d → d.toNat + 2 ≤ 64) ∧
    lowest (ctx 0xFFFF).lanes = some 0 ∧ lowest (ctx 0xFFFF).part = some 0 ∧
    lowest ({ ctx 0xC000 with part := 0xFFFF } : Ctx).part ≠ some 14 := by
  refine ⟨by decide, nofun, ?_, ?_, by decide⟩
  · rintro _ ⟨⟩
    decide
  · rintro _ ⟨⟩
    decide

/-- A load's result due in v8, in lanes 0 and 15; `due` holds it, in hazard-check mode. -/
def aPend : Pend :=
  { id := 1, kind := .ld, dst := .v 8, nregs := 1, low := 0, vals := [(0, 5), (15, 6)], missing := 0, sx := 0, mirror := 0,
    drop := [] }
def dueIn (p : Pend) : State :=
  { lone with
    groups := [(0, { aGroup with ops := { Ops.init with pend := [p] } })], blocks := [(7, { aBlock with hazchk := true })] }
def due : State := dueIn aPend

theorem witness_LaterResultFrame : due.hasGroup 0 = true ∧ (∀ q, Opnd.v 127 ≠ .sq q) ∧ (due.group 0).iss.forced ≠ 1 ∧
    (∀ p ∈ (due.group 0).ops.pend, p.mirror = 0) ∧ (ctx 0).old = none ∧ (ctx 0).lanes ||| (ctx 0).late = 0 ∧
    (ctx 0xFFFF).lanes ||| (ctx 0xFFFF).late ≠ 0 ∧
    ({ ctx 0xC000 with replay := some (aReplay false false) } : Ctx).old = some 1 ∧ (due.group 0).ops.pend[0]? = some aPend := by
  exact ⟨by decide, nofun, by decide⟩

theorem witness_ResultWriteback : due.hasGroup 0 = true ∧ (due.group 0).ops.pend[1]? = none ∧
    (∀ o ∈ [Opnd.v 8, .g 8, .p 1], let p := { aPend with dst := o }
      (dueIn p).hasGroup 0 = true ∧ ((dueIn p).group 0).ops.pend[0]? = some p ∧
      (((dueIn p).group 0).ops.pend.find? fun q => q.id == p.id) = some p ∧ (∀ e ∈ p.vals, e.1 < 64) ∧
      (match p.dst with | .v d => decide (d.toNat + p.nregs ≤ 128) | .g d => decide (d.toNat + p.nregs ≤ 64) | _ => true) = true) := by
  decide

theorem witness_IllegalEncodings : (Instr.iadd (two .f32)).encFields.isSome = true ∧ lone.cur = some anIssue ∧
    anIssue.replay = none ∧ (Instr.iadd (two .f32)).wf = false := by decide

/-- A well-formed IADD with source A, and the operands that its entry looks at. -/
def addOf (o : Opnd) : Ask := ask (.iadd { two with a := o }) more [(0, o, 1), (1, .v 12, 1)] [(.v 4, 1)]
def opndsOf (a : Ask) : List (Opnd × Nat) := (a.srcs.map fun q => (q.opnd, q.n)) ++ a.dsts

/-- One case for each of the five conditions, each with none of those before it. -/
theorem witness_EntryConditions :
    lone.cur = some anIssue ∧ due.cur = some anIssue ∧ anIssue.replay = none ∧
    (∀ o ∈ [Opnd.v 8, .latch 2, .q 3], (addOf o).instr.wf = true ∧ (addOf o).priv = false) ∧
    ({ addOf (.v 8) with priv := true } : Ask).priv = true ∧
    -- unheld: v8 with one granule held
    ((Opnd.v 8, 1) ∈ opndsOf (addOf (.v 8)) ∧ 8 * 1 < (8 : BitVec 7).toNat + 1) ∧
    -- latch
    ((Opnd.latch 2, 1) ∈ opndsOf (addOf (.latch 2)) ∧ Map.get 0 (lone.group 0).regs.latchAge 2 < 2 ∧
      ∀ o ∈ opndsOf (addOf (.latch 2)), opndUnheld 16 o.1 o.2 = false) ∧
    -- hazard
    (due.blockOf 0 = some { aBlock with hazchk := true } ∧ aPend ∈ (due.group 0).ops.pend ∧
      ({ fld := 0, opnd := .v 8, n := 1 } : Src) ∈ (addOf (.v 8)).srcs ∧ 15 ∈ Map.keys aPend.vals ∧
      (quadLanes anIssue.quads).getLsbD 15 = true ∧
      ∀ o ∈ opndsOf (addOf (.v 8)), opndUnheld 16 o.1 o.2 = false ∧ latchBad (due.group 0).regs o.1 = false) ∧
    -- mismatch
    ((lone.group 0).ops.pend = [] ∧ ({ fld := 0, opnd := .q 3, n := 1 } : Src) ∈ (addOf (.q 3)).srcs ∧
      State.patternOf (lone.group 0) 3 = none ∧
      ∀ o ∈ opndsOf (addOf (.q 3)), opndUnheld 16 o.1 o.2 = false ∧ latchBad (lone.group 0).regs o.1 = false) := by decide

/-- `lone` with a fault record queue of two records in the first GiB of host memory, which a table in HBM maps and the tenant
may use. -/
def ringed : State :=
  ((({ lone with
    tenants := [(0, { aTenant with pch := 1, ptroot := 0x10001, fq := { FaultQueue.init with en := true, log2n := 1, base := 0x5000 } })]
    host := { lone.host with bnd := [(0, { Boundary.init with hostBase := [(0, 0)], hostLim := [(0, 0xFF000)], capHost := 8 })] }
    fab := { lone.fab with hostBudget := [(0, 8)] } }).setNum 0x10000 8 0x11001).setNum 0x11000 8 0x12001).setNum 0x12000 8 0x1B

theorem witness_TrapTaken :
    (∀ s ∈ [lone, ringed], s.blockOf 0 = some aBlock ∧ (s.group 0).tenant < 8 ∧ s.hasGroup 0 = true ∧
      (s.event aBlock.job).st = .running ∧ (7, aBlock) ∈ s.blocks ∧ (s.tenant 0).fq.owed = []) ∧
    State.programCause 0x2D = true ∧ aBlock.dead = false ∧ 0 ∈ aBlock.groups ∧
    ¬ ((1 : Lanes) ≠ 0 ∧ 1 &&& ~~~(lone.group 0).flow.helper = 0) ∧
    (let h := (lone.modFlow 0 fun f => { f with helper := 1 }).group 0
     (1 : Lanes) ≠ 0 ∧ 1 &&& ~~~h.flow.helper = 0) ∧
    lone.recordReady 0 = none := by decide +kernel

/-- `lone` with an issue that has a capture, of which one record is owed. -/
theorem witness_TrapTaken_after_faults :
    (let k : Capture := { aReplay false false with id := 5, unwritten := 1 }
     let s : State := { lone.modOps 0 fun o => { o with captures := [k] } with cur := some { anIssue with cap := some 5 } }
     s.cur = some { anIssue with cap := some 5 } ∧ ((s.group 0).ops.captures.find? fun y => y.id == 5) = some k) ∧
    (∀ c, lone.cur = some c → c.gid = 0 → c.cap = none) := by
  refine ⟨by decide +kernel, fun c h _ => ?_⟩
  cases h
  rfl

theorem witness_TrapRecorded : ringed.recordReady 0 = some (hostPlace 0x5000) := by decide +kernel

/-- A part that stands at a NOP, and a module in which the next step fetches one. -/
def atNop : State :=
  { lone with
    groups := [(0, { aGroup with flow := (State.startFlow 16 16 0x1000).modPart 0xF fun p =>
      { p with clause := some { addr := 0x1000, next := 0x1008, wait := 0, rgp := false, yld := false,
                                instrs := [.nop ⟨plain⟩], idx := 0 } } })] }
def placed : State := State.reset.withFetchWord 32 0
def prepared : State := ({ placed with turn := placed.nextTurn placed.turn } : State).prepare placed.turn

theorem witness_StepRunsDecoded :
    (atNop.cur = some anIssue ∧ atNop.presented anIssue = some (.nop ⟨plain⟩)) ∧
    ({ lone with cur := none, agenda := [.ev .rd] } : State).agenda = .ev .rd :: [] ∧
    (placed.cur = none ∧ placed.agenda = [] ∧ placed.pwr.on = true ∧ placed.phaseEvent = none ∧ placed.fab.inbox = [] ∧
      placed.turn < 1024 ∧ prepared.cur.bind prepared.presented = some (.nop ⟨plain⟩)) := by decide +kernel

/-- Whether a read answers these words. -/
def answers (r : State × Except Hitch (List Word)) (ws : List Word) : Bool :=
  match r.2 with
  | .ok us => us == ws
  | .error _ => false

theorem witness_ClauseStarts :
    let at_ := residentBase + State.placedAt
    let first := placed.fetchWord 0 at_
    (placed.group 0).iss.stopAsked = false ∧ (placed.dbgOf 0).en = false ∧ (placed.group 0).slice.unread = none ∧
    (placed.group 0).slice.fault = none ∧ (placed.group 0).slice.spoilt = none ∧
    (match Header.decode 0x10000800 with
      | .ok h => (match decodeClause (first.1.group 0).flow.width h [0] with | .ok is => is.length == 1 | .error _ => false)
      | .error _ => false) = true ∧
    (match first.2 with | .ok w => w == 0x10000800 | .error _ => false) = true ∧
    (match Header.decode 0x10000800 with | .ok h => h.nw == 1 && h.wait == 0 | .error _ => false) = true ∧
    answers (first.1.fetchWords 0 (at_ + 4) 1) [0] = true ∧
    (first.1.fetchWords 0 (at_ + 4) 1).1.hasGroup 0 = true := by decide +kernel

/-! #### Memory -/

theorem witness_MemoryReadsBack : State.reset.MemOk ∧ (0 : Nat) < 1 ∧ ((7 : Nat) < 8 ∨ 8 + 8 ≤ 7) :=
  ⟨(by decide : Memory.wf State.reset.mem = true), by decide⟩

theorem witness_ResetRegisters : (61 : Nat) < 62 ∧ (7 : Nat) < 8 ∧ (8 : Nat) < 9 ∧ (3 : Nat) < 4 := by decide

/-- `lone` with g2 and g3 the address, in the scratchpad window, of the last four bytes that the part holds, g4 its offset, g6
and g7 that of a line there, and g8 a line of HBM in the first GiB, which the core's TLB maps. -/
def near : State :=
  { lone with
    groups := [(0, { aGroup with regs := { aGroup.regs with g :=
      [(2, 0x81007FFC), (3, 0x01FFFFFF), (4, 0x7FFC), (6, 0x81000040), (7, 0x01FFFFFF), (8, 0x1000)] } })]
    cores := [(0, { Core.init with tlb := [{ tenant := 0, level := 2, va := 0, pte := 0x33, entry := 0 }] })] }

/-- `near` with the first GiB mapped to host memory, of which the tenant may use 16 MiB and has a budget of 8 units. -/
def hosted : State :=
  { near with
    cores := [(0, { Core.init with tlb := [{ tenant := 0, level := 2, va := 0, pte := 0x1B, entry := 0 }] })]
    host := { near.host with bnd := [(0, { Boundary.init with hostBase := [(0, 0)], hostLim := [(0, 0xFF000)], capHost := 8 })] }
    fab := { near.fab with hostBudget := [(0, 8)] } }

/-- A load's hypotheses: every lane passes its checks and lies on this device or in host memory, and no byte is poisoned. -/
def loads (s : State) (a : Ask) (o : MemOp) (n : Nat) (ea : Nat → Nat) : Bool :=
  let u := s.afterReads anIssue a
  let helper := (u.group 0).flow.helper
  let accs := accsOf (s.takers anIssue a) fun l => ea (s.srcVal anIssue a { fld := 0, opnd := o.a, n } l)
  let r := u.checkLanes (u.whoOf 0) accs (o.ty.orElse .b32).bytes (o.scope != .none) { write := false, fetch := false } helper
  let paid := if hostBytes r.2.ok = 0 then r.1 else r.1.chargeHost (u.group 0).tenant (hostBytes r.2.ok)
  let v := paid.readLanes 0 r.2.ok (scopeWide (u.multiPart 0) o.scope) helper
  clearB s anIssue a && r.2.errs == [] && r.2.ok.length == 16 && r.2.ok.all (fun k => !isRemote k) &&
    u.lanesWait r.1 0 r.2.ok == none && v.2.2 == [] && ((hostBytes r.2.ok == 0) == (s.fab.hostBudget == []))

theorem witness_Loads :
    (∀ e ∈ [(near, Opnd.g 2), (hosted, .g 8)],
      loads e.1 (ask (.ld { load with a := e.2 }) more [(0, e.2, 2)] [(.v 1, 1)]) { load with a := e.2 } 2 (fun a => a) = true) ∧
    loads near (ask (.lds { load with a := .g 4, scope := .blk, ord := .acq }) more [(0, .g 4, 1)] [(.v 1, 1)])
      { load with a := .g 4, scope := .blk, ord := .acq } 1 (spadAddr 0) = true ∧
    loads near (ask (.ldv { load with a := .const 4 }) more [(0, .const 4, 1)] [(.v 1, 1)]) { load with a := .const 4 } 1
      (vaultAddr 0 0) = true := by decide +kernel

/-- A scratchpad byte, and a byte of HBM, as the checks answer them. -/
def spadLoc (i : Nat) : Loc := { place := spadPlace 0 i, home := .spad, strict := false }
def hbmLoc (i : Nat) : Loc := { place := i, home := .hbm, strict := false }

theorem witness_LoadedBytes : lone.owned = [] ∧ (∀ l ∈ [spadLoc 0, hbmLoc 63], remoteLoc l = none ∧
    lone.keyFits (lone.group 0).tenant (l.place / 64) = true ∧ lone.racers (l.place / 4 * 4) = []) ∧
    lone.hasCache (State.coreOf 0) = true := by decide

/-- A store's hypotheses, as those of a load. -/
def stores (s : State) (a : Ask) (o : MemOp) (n : Nat) (ea : Nat → Nat) : Bool :=
  let read := s.afterReads anIssue a
  let u := if o.ord = .rel then read.releaseLocal 0 o.scope else read
  let accs := accsOf (s.givers anIssue a) fun l => ea (s.srcVal anIssue a { fld := 0, opnd := o.a, n } l)
  let r := u.checkLanes (u.whoOf 0) accs (o.ty.orElse .b32).bytes (o.scope != .none) { write := true, fetch := false } 0
  clearB s anIssue a && !s.isTwin 0 && !read.isTwin 0 && !u.isTwin 0 && (u.group 0).iss.forced == 0 &&
    (s.releaseLocal 0 o.scope).releaseWait 0 o.scope false none == none && r.2.errs == [] && r.2.ok.length == 16 &&
    r.2.ok.all (fun k => !isRemote k) && u.lanesWait r.1 0 r.2.ok == none &&
    ((hostBytes r.2.ok == 0) == (s.fab.hostBudget == []))

theorem witness_Stores :
    stores near (ask (.st { store with a := .g 2, scope := .cor, ord := .rel }) more [(0, .g 2, 2), (1, .v 6, 1)] [])
      { store with a := .g 2, scope := .cor, ord := .rel } 2 (fun a => a) = true ∧
    stores hosted (ask (.st { store with a := .g 8 }) more [(0, .g 8, 2), (1, .v 6, 1)] []) { store with a := .g 8 } 2
      (fun a => a) = true ∧
    stores near (ask (.sts { store with a := .g 4 }) more [(0, .g 4, 1), (1, .v 6, 1)] []) { store with a := .g 4 } 1
      (spadAddr 0) = true ∧
    stores near (ask (.stv { store with a := .const 4 }) more [(0, .const 4, 1), (1, .v 6, 1)] []) { store with a := .const 4 } 1
      (vaultAddr 0 0) = true := by decide +kernel

theorem witness_StoredBytes : [spadLoc 0, spadLoc 1].length = [1, 2].length ∧ (∀ l ∈ [spadLoc 0, spadLoc 1], l.home = .spad) ∧
    (∀ l ∈ [spadLoc 0, spadLoc 1, hbmLoc 0], lone.racers (l.place / 4 * 4) = []) ∧
    (∀ l ∈ [hbmLoc 0], l.home = .hbm) ∧ lone.owned = [] ∧ lone.guardAt (lone.group 0).tenant 64 = none ∧
    lone.keyFits (lone.group 0).tenant 1 = true ∧ (true || !cacheable (placeHome 64) || !lone.hasCache 0) = true ∧ lone.mem = [] ∧
    (∀ e ∈ (lone.core 0).store, e.gid = 0 → e.queue ≠ 1) := by
  decide

def atomNear : AtomicOp := { atomic with a := .g 2, scope := .cor }

/-- An atomic's hypotheses. -/
def atomics (a : Ask) (o : AtomicOp) : Bool :=
  let u := near.afterReads anIssue a
  let accs := accsOf (near.givers anIssue a) fun l => near.srcVal anIssue a { fld := 0, opnd := o.a, n := 2 } l
  let r := u.checkLanes (u.whoOf 0) accs (o.ty.orElse .b32).bytes true { write := true, fetch := false, ban := .host } 0
  clearB near anIssue a && !near.isTwin 0 && !r.1.isTwin 0 && (near.releaseLocal 0 o.scope).releaseWait 0 o.scope false none == none &&
    r.2.errs == [] && r.2.ok.length == 16 && r.2.ok.all (fun k => !isRemote k) && u.lanesWait r.1 0 r.2.ok == none &&
    r.1.spoiltLanes 0 r.2.ok == []

theorem witness_Atomics :
    atomics (askAtomic (.atom { atomNear with ord := .acq }) { atomNear with ord := .acq } [(.v 8, 1)]) atomNear = true ∧
    atomics (askAtomic (.red { atomNear with d := .v 0, ord := .rel }) { atomNear with d := .v 0, ord := .rel } []) atomNear =
      true := by decide +kernel

theorem witness_AtomicStep : (0xFFFFFFFF : Nat) < 2 ^ Ty.bits .b32 ∧ Ty.b32 ≠ .f32 ∧ spadPlace 0 60 % 64 + Ty.bytes .b32 ≤ 64 ∧
    (∀ i < Ty.bytes .b32, lone.ownByte 0 (spadPlace 0 60 + i) = none ∧ lone.racers ((spadPlace 0 60 + i) / 4 * 4) = []) ∧
    spadPlace 0 60 < 2 ^ 61 + 2 ^ 31 := by decide +kernel

/-! #### Fences, caches, multicasts -/

def fence (ord : Order) : SyncOp := ⟨more, .dev, ord, 0, .v 0, .v 0, .v 0, .const 0⟩
def sfence : SyncOp := ⟨more, .sys, .rlx, 0, .v 7, .v 0, .v 0, .const 0⟩
def pbar : SyncOp := { sfence with d := .v 0 }

theorem witness_Fences :
    (∀ ord ∈ [Order.acq, .rel, .acr], Clear lone anIssue (ask (.fence (fence ord)) more [] [])) ∧
    Clear lone anIssue (ask (.sfence sfence) more [] [(.v 7, 1)]) ∧ Clear lone anIssue (ask (.pbar pbar) more [] []) ∧
    lone.isTwin 0 = false ∧ lone.loadsDue 0 = false ∧
    (∀ every ∈ [true, false], (lone.releaseLocal 0 .dev).releaseWait 0 .dev every none = none) ∧
    (lone.group 0).iss.forced ≠ 1 ∧ lone.fenceDue 0 = false ∧
    lone.pewterDue 0 = false := by
  refine ⟨fun ord h => clear_of ?_, clear_of (by decide), clear_of (by decide), by decide⟩
  revert ord
  decide

def lineNear : MemOp := { line with a := .g 6 }

/-- `near` with a list of one member, this device, at g6 and g7. -/
def listed : State := near.setNum (spadPlace 0 0x40) 8 1
def castNear : MemOp := ⟨more, .none, .rlx, .dflt, 0, .v 2, .g 8, .const 9, .g 6⟩
def castAsk : Ask :=
  { ask (.mcast castNear) more [(0, .g 8, 2), (1, .const 9, 1), (2, .g 6, 2)] [(.v 2, 2)] with cross := true }

/-- The lanes of the multicast and the list of its members. -/
def castOk : Bool :=
  let u := listed.afterReads anIssue castAsk
  let m := u.readMembers 0 (listed.srcVal anIssue castAsk { fld := 2, opnd := .g 6, n := 2 } 0)
  let accs := accsOf (listed.givers anIssue castAsk) fun l => listed.srcVal anIssue castAsk { fld := 0, opnd := .g 8, n := 2 } l
  let r := m.1.checkLanes (m.1.whoOf 0) accs 4 false { write := true, fetch := false, ban := .odd } 0
  clearB listed anIssue castAsk && (match m.2 with | .ok (some ms) => ms == [0] | _ => false) && r.2.errs == [] &&
    r.2.ok.length == 16 && m.1.lanesWait r.1 0 (r.2.ok.map fun k => (k.1, [])) == none &&
    accs.all (fun e => e.va / 64 == 64 && (e.va + 3) / 64 == 64) && !r.1.isTwin 0

theorem witness_Multicasts : castOk = true ∧ (listed.releaseLocal 0 .pod).releaseWait 0 .pod false none = none ∧ listed.givers anIssue castAsk ≠ 0 ∧
    (let none_ : Ask := { castAsk with instr := .mcast { castNear with ctl := given 15 true }, ctl := given 15 true }
     clearB listed anIssue none_ = true ∧ listed.givers anIssue none_ = 0) := by decide +kernel

theorem witness_CacheControl :
    (∀ i ∈ [Instr.pref lineNear, .cflush lineNear, .cinv lineNear], clearB near anIssue (ask i more [(0, .g 6, 2)] []) = true) ∧
    (match (near.lineLoc (near.whoOf 0) 0x01FFFFFF81000040).2 with | .ok _ => true | .error _ => false) = true ∧
    scopeWide (near.multiPart 0) .dev = true ∧ near.lanesWait (near.lineLoc (near.whoOf 0) 0x01FFFFFF81000040).1 0 [] = none := by
  decide +kernel


/-! #### Copies, barriers, queues -/

/-- A context with the values that the sources read. -/
def ctxOf (s : State) (a : Ask) : Ctx :=
  { lanes := s.takers anIssue a, contrib := s.givers anIssue a, active := anIssue.active,
    vals := a.srcs.flatMap fun q => (List.range 64).map fun l => (64 * q.fld + l, s.srcVal anIssue a q l), replay := none,
    part := s.takers anIssue a, late := 0 }

/-- `near` with bytes at an offset of the scratchpad. -/
def put (s : State) (o : Nat) (bs : List Byte) : State := s.setBytes (spadPlace 0 o) bs

/-- `near` with the lanes' own words of HBM in v2 and v3. -/
def apart : State := near.modRegs 0 fun r => { r with v := (List.range 16).map fun l => (64 * 2 + l, BitVec.ofNat 32 (0x1000 + 4 * l)) }

def copyNear (d : Opnd) : SyncOp := ⟨more, .none, .rlx, 0, .v 0, d, .g 6, .const 4⟩
def copyAsk (d : Opnd) : Ask := ask (.acpy (copyNear d)) more [(0, d, 2), (1, .g 6, 2), (2, .const 4, 1)] []

/-- The hypotheses of ACPY: four bytes from the scratchpad to HBM in every lane; whether the destinations meet. -/
def copyOk (d : Opnd) (meet : Bool) : Bool :=
  let u := apart.afterReads anIssue (copyAsk d)
  let ks := laneCopies (copyNear d) (ctxOf apart (copyAsk d)) 0
  let r := ks.foldl (fun (r : State × List (LaneCopy × Extent × Extent) × List LaneErr) k =>
    let q := r.1.checkCopy 0 (gatherSize 0) k
    if q.2.2 = [] then (q.1, r.2.1 ++ [q.2.1], r.2.2) else (q.1, r.2.1, r.2.2 ++ q.2.2)) (u, [], [])
  let pieces (k : LaneCopy × Extent × Extent) : List CopySeg :=
    piecesOf k.2.1 k.2.2 none 0 k.1.src k.1.dst (k.1.len + 1) 0 k.1.len
  clearB apart anIssue (copyAsk d) && (u.copyBarrier 0 false 0 matches .ok none) && ks.length == 16 &&
    ks.all (fun k => !badCopy k) && r.2.2 == [] && State.meets (r.2.1.map fun k => (k.1, pieces k)) == meet && !r.1.isTwin 0 &&
    u.engineWait r.1 0 r.2.1.length (r.2.1.map fun k => State.segUnits (pieces k)).sum == none

/-- A tensor descriptor at g6 and g7: one row of one byte at 0x1000. -/
def tensor : State := put near 0x40 ([0, 0x10] ++ List.replicate 12 0 ++ [1, 0] ++ List.replicate 16 0)
def tensorAsk : Ask := ask (.tcpy ⟨more, .none, .rlx, 0, 5, .g 6, .v 0⟩) more [(0, .g 6, 2)] []

def tensorOk : Bool :=
  let u := tensor.afterReads anIssue tensorAsk
  let r := u.readDesc 0 (tensor.srcVal anIssue tensorAsk { fld := 0, opnd := .g 6, n := 2 } 0) 32
  clearB tensor anIssue tensorAsk && tensor.slotOf false 5 == some 0 &&
    match r.2 with
    | .error _ => false
    | .ok bs =>
      match parseTensor bs with
      | none => false
      | some d =>
        let q := r.1.checkRows 0 0 0 0 d
        q.2.2 == [] && u.engineWait q.1 0 1 (State.segUnits q.2.1) == none

/-- A copy of 64 bytes within the scratchpad that is under way. -/
def aCopy : Copy :=
  { id := 9, gid := 0, kind := .as, segs := [{ src := spadPlace 0 0, lit := none, dst := spadPlace 0 64, len := 64 }],
    barrier := none, lines := [], pewter := false, tileSlots := [], lanes := 1, clause := 0x1000, idx := 0, failed := false }
def copying : State := { lone with cores := [(0, { Core.init with copies := [aCopy] })] }

theorem witness_AsyncCopies : copyOk (.g 8) true = true ∧ copyOk (.v 2) false = true ∧
    Clear lone anIssue (ask (.abatch ⟨more, .v 5, .v 0, .v 0⟩) more [] [(.v 5, 1)]) ∧
    Clear lone anIssue (ask (.await ⟨more, .v 0, .const 0, .v 0⟩) more [(0, .const 0, 1)] []) ∧ lone.batchDone 0 0 = true ∧
    tensorOk = true ∧
    ((copying.core 0).copies[0]? = some aCopy ∧ (∀ z ∈ (copying.core 0).copies, z.id = aCopy.id → z = aCopy) ∧
      copying.pewKey = [] ∧ (copying.core 0).l1 = [] ∧ copying.anyPoison (spadPlace 0 0) 64 = false) ∧
    (∀ p, copying.ownByte aCopy.gid p = none) := by
  refine ⟨by decide +kernel, by decide +kernel, clear_of (by decide), clear_of (by decide), by decide, by decide +kernel, by decide, fun p => ?_⟩
  rfl

/-- An async barrier object at g6 and g7, with two arrivals due of two. -/
def barred : State := put near 0x40 ([0, 0, 0, 0, 0, 0, 0, 0, 2, 0, 2, 0, 0, 0, 0, 0])
def barAt (sc : Scope) (ord : Order) (sub : BitVec 11) (b : Opnd) : SyncOp := ⟨more, sc, ord, sub, .g 1, .g 6, b, .const 0⟩

/-- An object of 16 or 32 bytes at g6 and g7 that an instruction finds sound and unpoisoned, in a group that is no twin. -/
def objectOk (s : State) (a : Ask) (size : Nat) : Bool :=
  let u := s.afterReads anIssue a
  clearB s anIssue a && (match u.objectPlace 0 (s.srcVal anIssue a { fld := 0, opnd := .g 6, n := 2 } 0) size with
    | .ok p => p == spadPlace 0 0x40
    | .error _ => false) && !u.poisoned (spadPlace 0 0x40) && !u.isTwin 0

theorem witness_AsyncBarriers :
    (∀ e ∈ [(Instr.bari (barAt .blk .rlx 0 (.const 2)), Opnd.const 2), (.barx (barAt .cor .rlx 0 (.const 2)), .const 2),
        (.bara (barAt .coh .rel 0 (.const 2)), .const 2), (.barw (barAt .grp .acq 1 (.const 1)), .const 1),
        (.barw (barAt .grp .acq 0 (.special .ones)), .special .ones)],
      objectOk barred { ask e.1 more [(0, .g 6, 2), (1, e.2, 1)] [(.g 1, 1)] with cross := true } 16 = true) ∧
    (let p := spadPlace 0 0x40
     0 < barred.numAt (p + 10) 2 ∧ barred.numAt (p + 8) 2 ≤ barred.numAt (p + 10) 2 ∧ 2 ≤ barred.numAt (p + 8) 2 ∧
      (barred.releaseLocal 0 .coh).releaseWait 0 .coh false none = none ∧ barred.phaseDone p 0xFFFFFFFF = true ∧ barred.phaseDone p 1 = false ∧
      near.numAt (p + 8) 2 = 0 ∧ near.numAt p 8 = 0) := by decide +kernel

def joinAt (sc : Scope) : SyncOp := ⟨more, sc, .acr, 0, .v 0, .const 15, .v 0, .const 0⟩

theorem witness_BlockBarriers :
    Clear lone anIssue (ask (.bsync (joinAt .blk)) more [(0, .const 15, 1)] []) ∧
    Clear lone anIssue (ask (.csync (joinAt .coh)) more [(0, .const 15, 1)] []) ∧ lone.isTwin 0 = false ∧
    (lone.flushPend 0).kindsOutstanding 0 0x08 = false ∧ (lone.releaseLocal 0 .coh).releaseWait 0 .coh false none = none ∧
    (lone.releaseLocal 0 .blk).releaseWait 0 .blk false none = none := by
  exact ⟨clear_of (by decide), clear_of (by decide), by decide⟩

/-- A queue at g6 and g7 of capacity 1, empty and full. -/
def emptyQ : State := put near 0x40 [0, 0, 0, 0, 0, 0, 0, 0, 1, 0, 0, 0, 1, 0, 0, 0]
def fullQ : State := put near 0x40 [0, 0, 0, 0, 1, 0, 0, 0, 1, 0, 0, 0, 0, 0, 0, 0]
def queueAt (ord : Order) (sub : BitVec 11) (d b : Opnd) : SyncOp := ⟨more, .blk, ord, sub, d, .g 6, b, .const 0⟩

theorem witness_ScratchpadQueues :
    (objectOk near (ask (.qinit (queueAt .rlx 0 (.v 0) (.const 1))) more [(0, .g 6, 2), (1, .const 1, 1)] []) 32 = true ∧
      objectOk emptyQ (ask (.qpush (queueAt .rel 0 (.v 0) (.const 7))) more [(0, .g 6, 2), (1, .const 7, 1)] []) 32 = true ∧
      objectOk fullQ (ask (.qpop (queueAt .acq 0 (.v 3) (.v 0))) more [(0, .g 6, 2)] [(.v 3, 1)]) 32 = true) ∧
    (∀ s ∈ [emptyQ, fullQ], s.queueOk (spadPlace 0 0x40) = true ∧
      objectOk s (ask (.qtry (queueAt .rel 0 (.v 4) (.const 7))) more [(0, .g 6, 2), (1, .const 7, 1)] [(.v 4, 1)]) 32 = true ∧
      objectOk s (ask (.qtry (queueAt .acq 1 (.v 4) (.v 0))) more [(0, .g 6, 2)] [(.v 4, 2)]) 32 = true ∧
      (∀ push ∈ [true, false], s.queueTurn 0 (spadPlace 0 0x40) push = true ∧ s.qWaiters (spadPlace 0 0x40) push = []) ∧
      (match s.entryPlace 0 0x01FFFFFF81000040 (spadPlace 0 0x40) 0 with | .ok e => !s.poisoned e | .error _ => false) = true) ∧
    (emptyQ.qAllow (spadPlace 0 0x40) ≠ 0 ∧ emptyQ.qHead (spadPlace 0 0x40) = emptyQ.qTail (spadPlace 0 0x40)) ∧
    (fullQ.qAllow (spadPlace 0 0x40) = 0 ∧ fullQ.qHead (spadPlace 0 0x40) ≠ fullQ.qTail (spadPlace 0 0x40)) ∧
    (emptyQ.releaseLocal 0 .blk).releaseWait 0 .blk false none = none := by decide +kernel

/-! #### Matrices -/

/-- `lone` with 3 in g63, the bands 1 to 7 in g20, p1 set in lane 0, and two narrow slots: sparse with one of 48, and dense. -/
def array : State :=
  ({ lone with
    groups := [(0, { aGroup with regs :=
      { aGroup.regs with g := [(20, 0xFE), (63, 3)], p := [(1, 1)], fs := [(1, 0x8303), (2, 0x303), (3, 0xB03)] } })]
    mem := (List.range 8).map fun k => (tilePlace 0 0 (256 * 16 * k), 1) })

theorem witness_MatrixNames :
    (Clear array anIssue (ask (.mclaim ⟨more, 0, 0, 9⟩) more [] []) ∧
      Clear array anIssue (ask (.mclaim ⟨more, 1, 63, 9⟩) more [(0, .g 63, 1)] []) ∧
      Clear array anIssue (ask (.mrel ⟨more, 0, 0, 5⟩) more [] []) ∧ Clear array anIssue (ask (.azero ⟨more, 0, 0, 4⟩) more [] []) ∧
      Clear array anIssue (ask (.mburst ⟨more, .v 0, .g 20, .v 0⟩) more [(0, .g 20, 1)] [])) ∧
    (array.block? (array.group 0).block = some aBlock ∧ array.blockOf 0 = some aBlock ∧
      Map.find (array.group 0).regs.tile 9 = none ∧ 3 ∈ aBlock.tiles ∧ (array.group 0).park ≠ .draining ∧
      (∀ k < 3, (k ∈ aBlock.tiles ∧ ∃ e ∈ (array.group 0).regs.tile, e.2 = k)) ∧ (∀ e ∈ (array.group 0).regs.tile, e.2 ≠ 3) ∧
      array.srcVal anIssue (ask (.mclaim ⟨more, 1, 63, 9⟩) more [(0, .g 63, 1)] []) { fld := 0, opnd := .g 63, n := 1 } 0 = 3 ∧
      array.slotOf true 4 = some 0) :=
  ⟨⟨clear_of (by decide), clear_of (by decide), clear_of (by decide), clear_of (by decide), clear_of (by decide)⟩, by decide⟩

def dense : MtxMul := ⟨given 1 false, 2, 2, 1, 2, 4, 5, 6, .g 20⟩
def sparse : MtxMul := ⟨given 1 false, 1, 2, 0, 3, 4, 5, 6, .g 20⟩

/-- Row 0 is the one row of `array` that lane 0 owns in the open band. -/
theorem witness_MatrixProducts :
    (∀ i ∈ [Instr.mma dense, .mmas sparse], clearB array anIssue (ask i (given 1 false) [(2, .g 20, 1)] []) = true ∧
      array.givers anIssue (ask i (given 1 false) [(2, .g 20, 1)] []) = 1 ∧
      array.srcVal anIssue (ask i (given 1 false) [(2, .g 20, 1)] []) { fld := 2, opnd := .g 20, n := 1 } 0 = 0xFE) ∧
    array.slotOf true 4 = some 0 ∧ array.slotOf false 5 = some 0 ∧ array.slotOf false 6 = some 1 ∧
    (fsSpn 0x303 = 0 ∧ fsSpn 0x8303 ≠ 0 ∧ pairOk 0x303 0x303 = true ∧ pairOk 0x8303 0x303 = true ∧
      extentOf 0x303 0x303 false 2 = some 32 ∧ extentOf 0x8303 0x303 true 3 = some 48) ∧
    ((List.range 128).all fun r => r % 16 != 0 || (metaWords 1 (array.rowBytes 0 0 r)).all fun m => metaCount m == fsSpn 0x8303) = true ∧
    (array.raceSlot 0 0).poison = [] ∧ ((array.raceSlot 0 0).raceSlot 0 1).poison = [] := by
  decide +kernel

theorem witness_Accumulation :
    (Fmt.f32.decode 0x3F800000 = .fin false 0x800000 (-23) ∧ (-149 : Int) ≤ -23) ∧ Fmt.f32.decode 0x7FC00000 = .nan ∧
    (Fp.inf false ∈ [Fp.fin false 1 0, .inf false] ∧ Fp.inf true ∉ [Fp.fin false 1 0, .inf false] ∧ Fp.nan ∉ [Fp.fin false 1 0, .inf false] ∧
      Fp.mul (.inf false) (.fin false 1 0) = .inf false ∧ Fmt.f32.decode 0xFF800000 = .inf true) ∧
    ([({ val := .fin false 1 0, live := true } : Elem)].length = 1 ∧ (1 : Nat) ≤ 16 ∧
      16 < (List.replicate 17 ({ val := .fin false 1 0, live := true } : Elem)).length) := by decide

def asStore : MtxStore := ⟨given 1 false, 4, .g 6, 3⟩
def storeAsk : Ask := ask (.ast asStore) (given 1 false) [(1, .g 6, 2)] []
def nearOne : State := near.modRegs 0 fun r => { r with p := [(1, 1)] }

theorem witness_MatrixResults :
    (clearB nearOne anIssue storeAsk = true ∧ nearOne.slotOf true 4 = some 0 ∧
      (let k := nearOne.storeRows 0 0 0x01FFFFFF81000040 768 16
       let segs := k.2.1.flatMap fun row => k.1.markPieces (accPlace 0 0 row.1 0) 0 (k.1.rowPieces 0 0 row)
       k.2.2 = [] ∧ nearOne.engineWait k.1 0 1 (State.segUnits segs) = none ∧ k.1.isTwin 0 = false)) ∧
    (clearB array anIssue (ask (.acvt ⟨more, 2, 5, 4, 11⟩) more [] []) = true ∧ array.slotOf false 5 = some 0 ∧
      fsSpn 0x303 = 0 ∧ ((array.raceSlot 0 0).viewFor 0 (State.inAcc 0 0)).1.poison = []) ∧
    (array.hasGroup 0 = true ∧ fsBlock 0x303 = 0 ∧ fsBlock 0xB03 ≠ 0) ∧
    (Fp.inf true ∈ [Fp.inf true] ∧ Fp.inf true ∉ [Fp.fin false 0 0, .fin true 3 1] ∧ Fp.inf false ∉ [Fp.fin false 0 0, .fin true 3 1]) := by
  decide +kernel

theorem witness_NarrowRegisters :
    ([askCross (.cvtn ⟨more, 3, 0, .v 1, .v 2, .v 0⟩) more [(0, .v 2, 1)] [(.v 1, 1)],
        askCross (.cvtw ⟨more, 3, 0, .v 1, .v 2, .v 0⟩) more [(0, .v 2, 1)] [(.v 1, 1)],
        askCross (.sclx ⟨more, 3, 0, .v 1, .v 2, .v 0⟩) more [(0, .v 2, 1)] [(.v 1, 1)],
        askCross (.packn ⟨more, 2, 0, .v 1, .v 2, .g 3⟩) more [(0, .v 2, 1), (1, .g 3, 1)] [(.v 1, 1)],
        askCross (.unpkn ⟨more, 2, 0, .v 1, .v 2, .v 3⟩) more [(0, .v 2, 1), (1, .v 3, 1)] [(.v 1, 1)]].all
      (clearB array anIssue)) = true ∧
    (fsKind 0x303 = 3 ∧ fsSpn 0x303 = 0 ∧ fsBlock 0x303 = 0) ∧ (fsKind 0xB03 = 3 ∧ fsSpn 0xB03 = 0 ∧ fsBlock 0xB03 = 16) := by
  decide +kernel

/-! #### Control -/

/-- Every instruction of a list issues in a state with nothing in its way, with its part there and no loop. -/
def goesOn (s : State) (c : Issue) (as : List Ask) : Bool :=
  as.all fun a =>
    let f := ((s.afterReads c a).group 0).flow
    clearB s c a && (f.partOf? c.quads).isSome && f.loops == []

/-- `lone` in two parts, of which the first issues; and the whole group at a LOOP whose quads have met. -/
def anHalf : Issue := { anIssue with quads := 0x3, active := 0xFF }
def halves : State :=
  { lone with
    cur := some anHalf
    groups := [(0, { aGroup with flow := { aGroup.flow with parts :=
      [{ quads := 0x3, pc := 0x1000, clause := none, hold := .run }, { quads := 0xC, pc := 0x2000, clause := none, hold := .run }] } })] }
def loopAsk : Ask := ask (.loop ⟨more, 1, .const 3, 4⟩) more [(0, .const 3, 1)] []
def met : State :=
  (near.modFlow 0 fun f => f.modPart 0xF fun p => { p with hold := .loopReady }).setNum 0x1010 4 0x10000800

theorem witness_BranchesAndLoops :
    goesOn lone anIssue [ask (.nop ⟨more⟩) more [] [], ask (.bra ⟨more, .v 0, 4⟩) more [] [],
      { ask (.brd ⟨more, .v 0, .v 1, 11⟩) more [(0, .v 1, 1)] [] with joint := true },
      { ask (.bri ⟨more, .v 0, .g 4, .v 0⟩) more [(0, .g 4, 2)] [] with joint := true },
      { ask (.ret ⟨more, .v 0, .g 4, .v 0⟩) more [(0, .g 4, 2)] [] with joint := true }] = true ∧
    (let a := ask (.call ⟨more, .g 8, 16⟩) more [] [(.g 8, 2)]
     let v := (lone.afterReads anIssue a).writeNow 0 (.g 8) 2 (lone.takers anIssue a) fun _ => 0x1010
     clearB lone anIssue a = true ∧ ((v.group 0).flow.partOf? 0xF).isSome = true ∧ (v.group 0).flow.loops = []) ∧
    (let u := halves.afterReads anHalf loopAsk
     let v := u.commitFlow 0 ((u.group 0).flow.modPart 0x3 fun p => { p with hold := .loop 0x1000 }) [] 0x1000 0
     clearB halves anHalf loopAsk = true ∧ ((u.group 0).flow.partOf? 0x3).map (·.hold) = some .run ∧
       ((v.group 0).flow.partOf? 0x3).map (·.hold) = some (.loop 0x1000)) ∧
    (let u := met.afterReads anIssue loopAsk
     clearB met anIssue loopAsk = true ∧ ((u.group 0).flow.partOf? 0xF).map (·.hold) = some .loopReady ∧
       (u.group 0).flow.loops = [] ∧
       (match (u.loopWalk 0 5 0x1010 0x1010 0).2 with | .ok (some e) => e == 0x1018 | _ => false) = true) ∧
    (let l : Loop := { lc := 1, count := 2, start := 0x1010, last := 0x1020, exit := 0x1030, active := true }
     let s := lone.modFlow 0 fun f => { f with loops := [l] }
     let a := ask (.lbrk ⟨more, 1, .v 0, 0⟩) more [] []
     let u := s.afterReads anIssue a
     clearB s anIssue a = true ∧ ((u.group 0).flow.loops.find? fun k => k.lc == 1) = some l ∧
       (((u.modFlow 0 fun f => State.endLoops f 1).group 0).flow.partOf? 0xF).isSome = true) := by decide +kernel

/-- A flow of four lanes with conditions, and a loop that ends at 0x1000. -/
def lanesAt (cs : Map LaneCond) : Flow := { State.startFlow 16 16 0x1000 with cond := cs }
def oneLoop : Loop := { lc := 1, count := 2, start := 0x800, last := 0x1000, exit := 0x1010, active := true }

theorem witness_QuadRules :
    ((lanesAt []).endingAt 0x1000 = none ∧ (3 / 4 = 0 ∧ (lanesAt []).lane 3 = .active)) ∧
    (let f := lanesAt [(0, .waiting 0x3000), (1, .waiting 0x2000), (2, .exited), (3, .exited)]
     (∀ l ∈ [0, 1, 2, 3], f.lane l ≠ .active) ∧ f.lane 1 = .waiting 0x2000) ∧
    (let f := { lanesAt [] with loops := [oneLoop] }
     f.endingAt 0x1000 = some oneLoop ∧ f.lane 0 = .active ∧ ∀ l ∈ [0, 1, 2, 3], f.lane l = .active) := by decide

theorem witness_RejoinWaitsExits :
    goesOn lone anIssue ([.enrol ⟨more, 7⟩, .strike ⟨more, 7⟩, .park ⟨more, 7⟩, .regang ⟨more⟩, .yield ⟨more⟩, .sleep ⟨more⟩,
      .bkpt ⟨more⟩, .exit ⟨more⟩, .jobend ⟨more⟩, .trap ⟨more, .v 0, .v 0, 1⟩].map fun i => ask i more [] []) = true ∧
    State.sliceLeft (lone.group 0) = false := by decide +kernel

/-! #### State registers, queues, signals -/

/-- A job record: 16 threads, two of at most four granules, first clause at 0x1000. -/
def aRecord : List Byte :=
  bytesOf 8 0x1000 ++ bytesOf 8 0 ++ bytesOf 8 0x100010010 ++ bytesOf 8 0 ++ bytesOf 8 0x0402 ++ List.replicate 88 0

/-- `near` in a pod of two, with page tables: VA 0 to 1 GiB lies in HBM from 0, the next GiB in host memory from 0, and the third
at the neighbour; queues 5 and 6 of tenant 0 are the device's, in the first GiB and in the third. -/
def mapped : State :=
  (((((({ near with
    tenants := [(0, { aTenant with
      ptroot := 0x10001, pch := 1,
      queues := [(5, { Queue.init with owner := true, en := true, log2n := 6 }),
        (6, { Queue.init with owner := true, en := true, log2n := 6, base := 0x80000000 })] })],
    fab := { Fabric.init with hostBudget := [(0, 10)], colsM1 := 1 },
    host := { near.host with bnd := [(0, { Boundary.init with
      hostBase := [(0, 0)], hostLim := [(0, 0x3FFFF000)], capHost := 9, fabOut := 0xF83E0, capFab := 9 })] } } :
      State).setNum 0x10000 8 0x11001).setNum 0x11000 8 0x12001).setNum 0x12000 8 0x33).setNum 0x12008 8 0x3B).setNum
        0x12010 8 (2 ^ 45 + 0x17)).setBytes 0x2000 aRecord

/-- Its group as resident code of the tenant, with an event entry MAILED at its core. -/
def resident : State :=
  { mapped.onGroup 0 fun x => { x with role := .worker } with
    events := [(8192, { aJob with st := .mailed, record := aRecord })]
    blocks := [] }

/-- Every instruction of a list issues with nothing in its way, in a group that is no twin. -/
def readyFor (s : State) (as : List Ask) : Bool := as.all fun a => clearB s anIssue a && !(s.afterReads anIssue a).isTwin 0

def setOf (i : Imm → Instr) (n : Nat) (imm : BitVec 16) (priv : Bool) : Ask :=
  let o : Imm := ⟨more, .v 0, .g 4, imm⟩
  askSets (i o) o n priv

def getOf (n : BitVec 16) (priv : Bool) : Ask :=
  let o : Imm := ⟨more, .g 10, .v 0, n⟩
  { ask (.gets o) o.ctl [] [(o.d, (getsWidth n.toNat).getD 32 / 32)] with priv }

def enqAsk (q : BitVec 16) : Ask := ask (.enqop ⟨more, .v 3, .g 6, q⟩) more [(0, .g 6, 2)] [(.v 3, 1)]

/-- EVSIG of an event and an amount: event 0 is a flag of the tenant, g4 holds none, and g2 more than 2^24. -/
def sigAsk (e n : Opnd) : Ask := ask (.evsig ⟨more, .v 3, e, n⟩) more [(0, e, 1), (1, n, 1)] [(.v 3, 1)]
def popAsk (priv : Bool) : Ask := { ask (.mbxpop ⟨more⟩) more [] [] with priv }

theorem witness_SystemInstructions :
    (lone.inRoutine = true ∧ resident.inRoutine = false ∧ (getsWidth 0x35).isSome = true ∧
      readyFor lone [getOf 0 false, getOf 0x22 false] = true ∧ readyFor resident [getOf 0x33 false, getOf 0x35 false] = true) ∧
    readyFor lone [setOf .setsSrseed 1 0x10 false, setOf .setsSorbnd 1 0x20 false, setOf .setsHostsig 1 0x22 false] = true ∧
    (lone.releaseLocal 0 .dev).releaseWait 0 .dev false none = none ∧ (lone.releaseLocal 0 .pod).releaseWait 0 .pod false none = none ∧
    readyFor resident [setOf .setsBankrole 2 0x30 false, setOf .setsTlbinv 2 0x31 false, setOf .setsFltres 2 0x32 false] = true ∧
    (resident.tenant 0).tlbBusy = false := by decide +kernel

theorem witness_SystemInstructions_enqop :
    readyFor mapped [enqAsk 5, enqAsk 6] = true ∧ (mapped.releaseLocal 0 .dev).releaseWait 0 .dev false none = none ∧
    ∀ e ∈ [((5 : BitVec 16), Home.hbm, (none : Option Nat)), (6, .peer 1, some 1)],
      let a := enqAsk e.1
      let r := (mapped.afterReads anIssue a).readDesc 0 (mapped.srcVal anIssue a { fld := 0, opnd := .g 6, n := 2 } 0) 32
      (match r.2 with | .ok bs => bs.length == 32 | _ => false) = true ∧ r.1.isTwin 0 = false ∧
      let u := r.1.releaseLocal 0 .dev
      u.appending 0 e.1.toNat = false ∧
      (match u.ringSlot 0 (u.queue 0 e.1.toNat) with | .ok l => l.home == e.2.1 && remoteLoc l == e.2.2 | _ => false) = true := by
  decide +kernel

theorem witness_SystemInstructions_evsig :
    readyFor near [sigAsk (.const 0) (.const 2), sigAsk (.g 4) (.const 2), sigAsk (.const 0) (.g 2)] = true ∧
    (let val (a : Ask) (f : Nat) (o : Opnd) : Nat := near.srcVal anIssue a { fld := f, opnd := o, n := 1 } 0
     let a := sigAsk (.const 0) (.const 2)
     near.localFlag 0 (BitVec.ofNat 32 (val a 0 (.const 0))) = true ∧ val a 1 (.const 2) < 2 ^ 24 ∧
       near.localFlag 0 (BitVec.ofNat 32 (val (sigAsk (.g 4) (.const 2)) 0 (.g 4))) = false ∧
       2 ^ 24 ≤ val (sigAsk (.const 0) (.g 2)) 1 (.g 2)) ∧
    (near.releaseLocal 0 .pod).releaseWait 0 .pod false none = none := by decide +kernel

theorem witness_SystemInstructions_mbxpop :
    clearB resident anIssue (popAsk false) = true ∧ (resident.group 0).ops.pend = [] ∧
    (let u (s : State) : State := ((s.afterReads anIssue (popAsk false)).flushPend 0).drainGroup 0
     let called := resident.modCore 0 fun k => { k with svcFlag := some 0 }
     let mailed := resident.modCore 0 fun k => { k with mailbox := [(8192, 0, 0, 0)] }
     clearB called anIssue (popAsk false) = true ∧ (u called).kindsOutstanding 0 0x10 = false ∧
       ((u called).core 0).svcFlag = some 0 ∧ (u called).rolesPending 0 = false ∧
       ((u called).group 0).ops.pend = [] ∧ clearB mailed anIssue (popAsk false) = true ∧
       (u mailed).kindsOutstanding 0 0x10 = false ∧ ((u mailed).core 0).svcFlag = none ∧ (u mailed).headAdmitted 0 = true) := by
  decide +kernel

/-! #### Sage -/

def sageAsk (i : SageOp → Instr) (cls : ResClass) (n : Opnd) (d : Opnd) : Ask × SageOp :=
  let o : SageOp := ⟨more, cls, 0, d, n⟩
  (ask (i o) more [(0, n, 1)] (if d = .v 0 then [] else [(d, 1)]), o)

/-- Two parts of core 0, each holding 50 of at most 100 scratchpad granules, so that no further one is safe. -/
def tight : State :=
  let b : Block := { aBlock with spad := List.range 50, smax := 100 }
  { lone with blocks := [(7, b), (8, { b with groups := [], order := 1, spad := (List.range 50).map (· + 50), tiles := [], accs := [] })] }

/-- `lone` with another group of its part parked at Sage; and with a maximum above what is free. -/
def queuedUp : State := lone.modCore 0 fun k => { k with sageQueue := [0] }
def greedy : State :=
  { lone with
    groups := [(0, { aGroup with regs := { aGroup.regs with g := [(1, 127)] } })], blocks := [(7, { aBlock with smax := 200 })] }

theorem witness_ResourceInstructions :
    (clearB lone anIssue (sageAsk .acq .spad (.const 0) (.v 5)).1 = true ∧
      clearB lone anIssue (sageAsk .acq .spad (.const 2) (.v 5)).1 = true ∧ lone.requestFault 0 .spad 2 0 = none ∧
      (let parked := ((lone.onGroup 0 fun y => { y with park := .sage .spad 2 0 (.v 5) 0xF }).modCore 0 fun k =>
         { k with sageQueue := k.sageQueue ++ [0] }).stayed
       lone.hasGroup 0 = true ∧ (lone.core 0).sageQueue = [] ∧ (lone.group 0).block ∈ parked.safeOrder 0 ∧
         parked.verdict 0 .spad 2 = .granted)) ∧
    (clearB lone anIssue (sageAsk .tryacq .spad (.const 2) (.v 5)).1 = true ∧ lone.queuedBehind 0 = false ∧
      lone.verdict 0 .spad 2 = .granted) ∧
    (clearB queuedUp anIssue (sageAsk .tryacq .spad (.const 2) (.v 5)).1 = true ∧ queuedUp.requestFault 0 .spad 2 0 = none ∧
      queuedUp.queuedBehind 0 = true) ∧
    (clearB greedy anIssue (sageAsk .tryacq .spad (.g 1) (.v 5)).1 = true ∧
      greedy.srcVal anIssue (sageAsk .tryacq .spad (.g 1) (.v 5)).1 { fld := 0, opnd := .g 1, n := 1 } 0 = 127 ∧
      greedy.requestFault 0 .spad 127 0 = none ∧
      greedy.queuedBehind 0 = false ∧ greedy.verdict 0 .spad 127 = .unavailable) ∧
    (clearB tight anIssue (sageAsk .tryacq .spad (.const 1) (.v 5)).1 = true ∧ tight.requestFault 0 .spad 1 0 = none ∧
      tight.queuedBehind 0 = false ∧ tight.verdict 0 .spad 1 = .unsafe_) ∧
    (1 ≤ (lone.group 0).granules ∧ ((lone.flushPend 0).group 0).ops.pend = [] ∧ lone.block? (lone.group 0).block = some aBlock ∧
      1 ≤ aBlock.spad.length ∧ lone.spadBusy aBlock (aBlock.spad.drop 1) = false ∧ 1 ≤ (lone.unnamedSlots 7).length ∧
      lone.slotsBusy aBlock ((lone.unnamedSlots 7).take 1) = false ∧ (∀ i < 1, (Map.find (lone.group 0).regs.acc (4 + i)).isSome = true) ∧
      1 ≤ aBlock.accs.length ∧ lone.matrixBusy aBlock = false ∧ lone.unitsBusy 0 [State.accUnit 0] = false) ∧
    [ResClass.vreg, .spad, .tile, .acc].all (fun k => clearB lone anIssue (sageAsk .rel k (.const 1) (.v 0)).1 &&
      match lone.returnUnits 0 k 1 4 with | .done _ => true | _ => false) = true ∧
    clearB lone anIssue (ask (.claimq ⟨more, .acc, 0, .v 6, .v 0⟩) more [] [(.v 6, 1)]) = true ∧
    (lone.blockOf 0).isSome = true ∧ (lone.group 0).granules < 17 ∧ aBlock.vmax < (lone.group 0).granules + 1 := by
  decide +kernel

/-! #### Remote copies and collectives -/

/-- `near` with the descriptor of a remote copy of one row of four bytes at g6 and g7. -/
def remote : State := put near 0x40 (List.replicate 20 0 ++ [0, 0, 4, 0] ++ List.replicate 40 0)
def copyOf (sub : BitVec 11) : Ask := ask (.rcpy ⟨more, .none, .rlx, sub, 5, .v 9, .g 6⟩) more [(0, .g 6, 2)] [(.v 9, 1)]

/-- `near` with a communicator of one member there, and g10 and g11 the place of a barrier object. -/
def team : State :=
  put (near.modRegs 0 fun r => { r with g := r.g ++ [(10, 0x81000200), (11, 0x01FFFFFF)] }) 0x40
    ([7, 0, 0, 0, 1, 0, 0, 0, 0, 0, 0, 0, 0, 0, 4, 0] ++ List.replicate 52 0)
def collAsk (sub : BitVec 11) : Ask :=
  ask (.coll ⟨more, .blk, .rlx, sub, 5, .g 6, .g 10⟩) more [(0, .g 6, 2), (1, .g 10, 2)] []

theorem witness_RemoteAndCollective :
    [0, 1].all (fun sub =>
      let a := copyOf sub
      let at_ := remote.srcVal anIssue a { fld := 0, opnd := .g 6, n := 2 } 0
      let r := (remote.afterReads anIssue a).readDesc 0 at_ 64
      clearB remote anIssue a && at_ % 64 == 0 && !r.1.isTwin 0 &&
        match r.2 with | .ok bs => (parseCopy 0 (!sub.getLsbD 0) bs).isSome | .error _ => false) = true ∧
    remote.slotOf false 5 = some 0 ∧ remote.fab.pod = 0 ∧
    [0, 1].all (fun sub =>
      let u := (team.afterReads anIssue (collAsk sub)).flushPend 0
      clearB team anIssue (collAsk sub) && !u.kindsOutstanding 0 0x08 && (u.blockOf 0).isSome && !u.isTwin 0) = true ∧
    team.slotOf false 5 ≠ none ∧ (team.releaseLocal 0 .blk).releaseWait 0 .blk false none = none ∧
    (let u := (team.afterReads anIssue (collAsk 1)).flushPend 0
     let one (f : Nat) (w : Opnd) : Nat := team.srcVal anIssue (collAsk 1) { fld := f, opnd := w, n := 2 } 0
     let r := u.readComm 0 (one 0 (.g 6)) (one 1 (.g 10)) 5
     r.1.isTwin 0 = false ∧ (match r.2 with | .ok d => d.2.length == 1 | .error _ => false) = true) := by decide +kernel

/-! #### The package -/

def phased (p : Phase) : State := State.reset.modPkg fun k => { k with phase := p }
def dark : State := State.reset.modPwr fun p => { p with on := false }

/-- A command register with a soft spare of row 5 of stack 1, and with a reserved bit; a command under way. -/
def commanded (v : DWord) : State := State.reset.modPkg fun k => { k with spareCmd := v }
def aSpare (op : BitVec 2) : Spare := { op, stack := 1, pch := 0, bank := 0, row := 5 }
def sparing (op : BitVec 2) : State := State.reset.modPkg fun k => { k with spareRun := some (aSpare op) }

/-- Port 61 up; an uplink of a device with four rows and columns around it; and core 63 retired, with no block. -/
def linked : State := State.reset.modPort 61 fun k => { k with up := true }
def wired : State := State.reset.modFab fun f => { f with rowsM1 := 3, colsM1 := 31, row := 1, portRole := 2 ^ 61 }
def retiring : State := State.reset.modPkg fun k => { k with retire := 2 ^ 63 }

theorem witness_PackageEvents_input_power_and_resets :
    (State.reset.pwr.on = true ∧ dark.pwr.on = false ∧ dark.pwr.tripped = false ∧ dark.pwr.lost = false ∧
      (dark.modPwr fun p => { p with tripped := true }).pwr.tripped = true ∧
      (dark.modPwr fun p => { p with lost := true }).pwr.lost = true ∧ (37999 : Nat) < 38000 ∧ 64000 < (64001 : Nat)) ∧
    ((phased .boot).pkg.phase ∈ [Phase.boot, .ready, .scrapped] ∧ (phased .wipe).pkg.phase ∉ [Phase.boot, .ready, .scrapped] ∧
      (phased .held).pkg.phase = .held ∧ (phased .stop).pkg.phase = .stop ∧ (phased .drain).pkg.phase = .drain ∧
      (phased .wipe).pkg.lcstate ≠ 4 ∧ ((phased .wipe).modPkg fun k => { k with lcstate := 4 }).pkg.lcstate = 4 ∧
      ((phased .wipe).modPkg fun k => { k with lcstate := 4 }).pkg.phase = .wipe) := by decide +kernel

theorem witness_PackageEvents_the_alert :
    (State.reset.alarm = false ∧ Map.get false State.reset.host.cause 1 = false ∧
      (let s := State.reset.modHost fun h => { h with masked := [(2, false)] }
       Map.get true s.host.masked 2 = false ∧ s.pwr.therm.toNat ≤ s.pwr.throttle.toNat ∧ s.alarm = false ∧
         Map.get false s.host.cause 1 = false)) := by decide +kernel

theorem witness_PackageEvents_the_sideband_target :
    ((15 : Byte).toNat < 16 ∧ ¬ (16 : Byte).toNat < 16 ∧ ([] : List Byte).length ≠ 1 ∧ State.reset.sbAddress + 1 ≠ State.reset.sbAddress) := by decide +kernel

theorem witness_PackageEvents_sparing :
    (State.reset.pkg.spareRun = none ∧ (sparing 1).pkg.spareRun = some (aSpare 1) ∧ (sparing 2).pkg.spareRun = some (aSpare 2) ∧
      (sparing 1).pkg.spareRun.isSome = true ∧ State.spareBad (commanded 0x24000000A0000000).pkg.spareCmd = false ∧
      State.spareBad (commanded 0x24000000A0000001).pkg.spareCmd = true ∧ (commanded 0x24000000A0000001).pkg.spareRun = none ∧
      (let row := ((aSpare 1).stack.toNat, (aSpare 1).pch.toNat, (aSpare 1).bank.toNat, (aSpare 1).row.toNat)
       row ∉ (sparing 1).pkg.soft ∧ row ∈ ((sparing 1).modPkg fun k => { k with soft := [row] }).pkg.soft)) := by decide +kernel

theorem witness_PackageEvents_retirement :
    (retiring.retired 63 = true ∧ (retiring.core 63).down = false ∧ retiring.blocksOn 63 = [] ∧ (retiring.core 63).mailbox = [] ∧
      (retiring.event 8192).st ≠ .mailed) := by decide +kernel

theorem witness_PackageEvents_ports :
    ((linked.port 61).up = true ∧ (State.reset.port 61).up = false ∧ (State.reset.port 61).disable = false ∧
      State.lanesUp (State.reset.port 61) ≠ 0 ∧ (wired.heldDown 61 = false ∧ wired.heldDown 0 = false ∧ wired.beforeBoot = false) ∧ (linked.port 61).failed.getLsbD 1 = false ∧ linked.portUp 61 = true ∧
      (∀ k ∈ linked.fab.custody, k.port = 61 → linked.portUp 61 = true)) := by decide +kernel

theorem witness_PackageEvents_margins :
    ((let m := slice State.reset.fab.eyecfg 7 0
      m ≤ 24 ∧ 23 < m) ∧ (let f := slice State.reset.fab.eyecfg 31 16
      f ≠ 0 ∧ 255 < f) ∧
      (let s := State.reset.modPort 61 fun k => { k with auto := false, poor := [(1, 7)] }
       slice s.fab.eyecfg 15 8 ≤ Map.get 0 (s.port 61).poor 1 + 1 ∧ (s.port 61).auto = false ∧
         (s.port 61).failed.getLsbD 1 = false)) := by decide +kernel

/-! #### The fabric -/

/-- A packet of tenant 0 for this device; and a module with that packet at the head of its arrivals, whose tenant 0 may be
reached from 0 to 1 GiB. -/
def pkt (typ : BitVec 5) (addr : BitVec 45) (payload : List Byte) : Packet :=
  { typ, vcn := 0, cls := 0, hops := 0, dst := 0, src := 3, seq := 0, tag := 9, len := BitVec.ofNat 9 payload.length, rsv := 0, addr,
    ext := none, payload }
def arrived (p : Packet) : State :=
  { State.reset with
    fab := { Fabric.init with inbox := [p] }, tenants := [(0, aTenant)],
    host := { HostSide.init with bnd := [(0, { Boundary.init with inBase := [(0, 0)], inLim := [(0, 0x3FFFF000)] })] } }

/-- Its state once the packet has been taken, with the line's bytes recalled. -/
def recalled (p : Packet) : State := ({ arrived p with fab := { (arrived p).fab with inbox := [] } } : State).recallLine (p.addr.toNat / 64)
def aLine : List Byte := List.replicate 64 1

/-- The last line that tenant 0 may be reached at, and the first one beyond; a stripe over the first 64 KiB, whose parity at row 0
is here; and the same module with that stripe's member being rebuilt, with a poisoned last line, and with tenant 0 in reset. -/
def lastLine : BitVec 45 := 0x3FFFFFC0
def beyond : BitVec 45 := 0x40000000
def striped (rebuild : Bool) (p : Packet) : State :=
  let s := arrived p
  { s with tenants := [(0, { aTenant with stripes := [(0, { Stripe.init with valid := true, nm1 := 3, len := 1, rstate := 2, rebuild })] })] }
def spoilt (p : Packet) : State := { recalled p with poison := [0x3FFFFFC0 / 64 * 64] }
def resetting (p : Packet) : State := { arrived p with tenants := [(0, { aTenant with st := .resetting })] }

theorem witness_FabricEvents_requests :
    ([0, 2, 4, 6, 8, 10, 12, 13, 14, 16].all fun n => (resetting (pkt n lastLine [])).shutOut (pkt n lastLine []) &&
      !(arrived (pkt n lastLine [])).shutOut (pkt n lastLine [])) = true ∧
    ((arrived (pkt 0 lastLine [])).fab.inbox = [pkt 0 lastLine []] ∧
      (arrived (pkt 0 lastLine [])).inboundCode (pkt 0 lastLine []) 0x3FFFFFC0 64 false = none ∧
      (recalled (pkt 0 lastLine [])).poisoned 0x3FFFFFC0 = false ∧ (spoilt (pkt 0 lastLine [])).poisoned 0x3FFFFFC0 = true ∧
      (arrived (pkt 16 beyond [])).inboundCode (pkt 16 beyond []) 0x40000000 64 false = some 4 ∧
      State.writeBytes (pkt 2 lastLine aLine) = some (aLine.map some) ∧
      (arrived (pkt 2 lastLine aLine)).inboundCode (pkt 2 lastLine aLine) 0x3FFFFFC0 64 true = none ∧
      (recalled (pkt 2 lastLine aLine)).guardAt 0 0x3FFFFFC0 = none ∧
      ((recalled (pkt 2 lastLine aLine)).homeWrite 0 0x3FFFFFC0 (aLine.map some)).fab.tags = [] ∧
      (arrived (pkt 6 beyond aLine)).inboundCode (pkt 6 beyond aLine) 0x40000000 64 true = some 4 ∧
      (pkt 6 beyond aLine).rsv ≠ 1 ∧ ({ pkt 6 beyond aLine with rsv := 1 } : Packet).rsv = 1) := by decide +kernel

/-- The parts of an AT: one step each, on the last word of the line; the second names 1 and is the last. -/
def atPartOf (k : Nat) (last : Bool) : Packet :=
  pkt 4 lastLine (bytesOf 8 (2 ^ 16 + 256 * Ty.n32.code.toNat + 2 ^ 32 * k + if last then 2 ^ 40 else 0) ++ bytesOf 1 60 ++ bytesOf 4 1)

theorem witness_FabricEvents_atomics_and_rows :
    (State.atIndex (atPartOf 0 false) = (0, false) ∧ State.atIndex (atPartOf 1 true) = (1, true) ∧
      (let s := (arrived (atPartOf 1 true)).modSvc fun k => { k with atParts := [atPartOf 0 false] }
       (s.wholeAt (atPartOf 1 true)).isSome = true ∧ s.inboundCode (atPartOf 1 true) 0x3FFFFFC0 64 true = none ∧
         (s.recallLine (0x3FFFFFC0 / 64)).poisoned 0x3FFFFFC0 = false) ∧
      (let p : Packet := { atPartOf 0 true with addr := beyond }
       ((arrived p).wholeAt p).isSome = true ∧ (arrived p).inboundCode p 0x40000000 64 true = some 4)) ∧
    (let p := pkt 8 0x3FFFFFF8 (List.replicate 8 1)
     p.addr.toNat / 2 ^ 40 ≠ 8 ∧ (arrived p).inboundCode p 0x3FFFFFF8 8 true = none ∧
       (arrived { p with addr := beyond }).inboundCode { p with addr := beyond } 0x40000000 8 true = some 4) := by decide +kernel

/-- A broadcast of collective 7 in which this device has started to take part. -/
def casting : State :=
  let k : Coll :=
    { id := 4, job := 8192, run := 0, rank := 0, k := 0, counted := [0], drivers := [0], tenant := 0, tile := 5,
      desc := [7, 0, 0, 0, 1, 0, 0, 0, 6, 0, 0, 0, 0, 0, 4, 0] ++ List.replicate 52 0,
      dests := [{ gid := 0, core := 0, slot := 0, barrier := 0, status := 0 }], started := true, casts := [], answered := [] }
  { State.reset with svc := { Services.init with colls := [k] } }

/-- The row of a broadcast of a collective number. -/
def castRow (n : Nat) : Packet := pkt 8 (BitVec.ofNat 45 (2 ^ 43 + n)) (List.replicate 8 1)

theorem witness_FabricEvents_contributions_and_deltas :
    ((castRow 7).addr.toNat / 2 ^ 40 = 8 ∧ (State.reset.takeCast (castRow 7)).isNone = true ∧
      (casting.takeCast (castRow 7)).isSome = true) ∧
    (let p := pkt 10 7 aLine
     let key := (0, (keyColl p.addr.toNat).1, (keyColl p.addr.toNat).2)
     key ∉ (arrived p).svc.answered ∧ key ∈ ((arrived p).modSvc fun k => { k with answered := [key] }).svc.answered) ∧
    (∀ b ∈ [true, false], let s := striped b (pkt 14 0 aLine)
      (s.tenant 0).st ≠ .resetting ∧ State.inMap 0 64 = true ∧ s.inAllowed 0 0 64 = true ∧ s.guardOf 0 0 = some (0, 0) ∧
        State.parityOf (s.stripe 0 0) 0 = (s.stripe 0 0).myidx.toNat ∧ State.spareClosed (s.stripe 0 0) = b) := by decide +kernel

theorem witness_FabricEvents_answers :
    ((let s := arrived (pkt 3 0 [])
      let k : Tag := { typ := 2, dst := 3, vcn := 0, addr := 0, errand := .store 0 0 1 false, first := none }
      Map.find s.fab.tags 9 = none ∧ Map.find ({ s with fab := { s.fab with tags := [(9, k)] } } : State).fab.tags 9 = some k) ∧
      (let code (of : Nat) : Packet := pkt 18 0 (bytesOf 8 (2 ^ 16 * of))
       natOfBytes (code 12).payload / 2 ^ 16 % 32 = 12 ∧ natOfBytes (code 13).payload / 2 ^ 16 % 32 = 13 ∧
         natOfBytes (code 2).payload / 2 ^ 16 % 32 = 2 ∧ natOfBytes (code 4).payload / 2 ^ 16 % 32 ≠ 2)) := by decide +kernel

/-- A subscription to event 0x1FFF from device 3, and a tenant with its share of 2,048 records; an event that has fired. -/
def subscribed (recs : List InSub) : State := { arrived (pkt 12 0x1FFF []) with inSubs := recs }
def fullShare : List InSub := (List.range 2048).map fun k => { flag := 0x1FFE, peer := BitVec.ofNat 12 k, sent := false }

theorem witness_FabricEvents_events :
    (let p := pkt 12 0x1FFF []
     let name : Word := p.addr.setWidth 32
     let known (s : State) : Bool := s.inSubs.any fun r => r.flag == nameIndex name && r.peer == p.src
     let full (s : State) : Bool := decide (2048 ≤ (s.inSubs.filter fun r => shareOf r.flag == 0).length)
     (arrived (pkt 12 0x2000 [])).localFlag 0 0x2000 = false ∧ (subscribed []).localFlag 0 name = true ∧
      (known (subscribed []) = false ∧ full (subscribed []) = false) ∧
      (known (subscribed fullShare) = false ∧ full (subscribed fullShare) = true) ∧
      known (subscribed [{ flag := 0x1FFF, peer := 3, sent := false }]) = true ∧ ((subscribed []).event 0x1FFF).st ≠ .fired ∧
      (({ subscribed [] with events := [(0x1FFF, { EvEntry.init with st := .fired })] } : State).event (nameIndex name)).st = .fired) ∧
    (let o : OutSub := { tenant := 0, name := 0x300007, lost := false, jobs := [8192] }
     let p (lost : Nat) := pkt 13 0x300007 (bytesOf 8 (2 ^ 32 * lost))
     let s := arrived (p 0)
     s.outSubs = [] ∧ ({ s with outSubs := [o] } : State).outSubs.find? (fun o => o.tenant == 0 && o.name == 0x300007) = some o ∧
       natOfBytes (p 0).payload / 2 ^ 32 % 2 = 0 ∧ natOfBytes (p 1).payload / 2 ^ 32 % 2 = 1) ∧
    (∀ n ∈ [1, 2, 3], ((pkt 20 0 [BitVec.ofNat 8 n]).payload.headD 0).toNat = n) := by decide +kernel

theorem witness_FabricEvents_arrival :
    (dark.pwr.on = false ∧ (phased .wipe).beforeBoot = true ∧ State.reset.portUp 61 = false ∧ State.reset.pwr.on = true ∧
      State.reset.beforeBoot = false ∧ linked.portUp 61 = true ∧ linked.isUplink 61 = false) ∧
    (State.badHeader (pkt 0 0 []) = false ∧ State.badHeader { pkt 0 0 [] with hops := 5 } = true ∧ (pkt 0 0 []).typ ≠ 10 ∧
      State.reset.forMe (pkt 0 0 []) = true ∧ State.reset.forMe { pkt 0 0 [] with dst := 1 } = false ∧
      State.unnumbered (pkt 0 0 []) = false ∧ State.unnumbered (pkt 18 0 []) = true ∧ (pkt 0 0 []).ext = none ∧
      (pkt 0 0 []).typ ≠ 6 ∧ State.reset.rxOf (State.inKey (pkt 0 0 [])) = { expect := 0, early := [], skipped := [] } ∧
      (32768 + 65536 - 0) % 65536 = (32768 : Nat)) := by decide +kernel

theorem witness_FabricEvents_custody_and_timers :
    ((let k : Custody := { port := 61, pkt := pkt 0 0 [], hop := true }
      let s : State := { State.reset with
        fab := { Fabric.init with custody := [k], deadReq := some (15, 1) }, svc := { Services.init with early := [castRow 7] } }
      s.fab.custody[0]? = some k ∧ s.svc.early[0]? = some (castRow 7) ∧ s.fab.deadReq = some (15, 1)) ∧
      (let k : Reduction := { vcn := 0, collid := 7, chunk := 255, parts := [], coll := none }
       let s : State := { State.reset with svc := { Services.init with reductions := [k] } }
       s.svc.reductions.filter (fun k => k.collid == 7 && k.chunk == 255) = [k] ∧ State.reset.svc.reductions = []) ∧
      (casting.svc.colls.find? fun k => k.started && k.dests.any (fun d => d.core == 0) &&
        (k.comm casting).any (fun m => m.collid == 7) && !(k.answered.any fun a => a.1 == 0)).isSome = true) := by decide +kernel


/-! #### Tenants -/

/-- `lone` with a change to its tenant. -/
def withTenant (f : Tenant → Tenant) : State := lone.modTenant 0 f

/-- The function of a tenant takes accesses. -/
def vfB (s : State) (t : Nat) : Bool :=
  s.pwr.on && s.pkg.phase == .ready && decide (t < 8) && s.fnEnabled (t + 1) && decide ((s.tenant t).st ≠ .resetting)

def disabled (f : Tenant → Tenant) : State := withTenant fun k => f { k with st := .disabled }
def mailed (busy : Bool) : State :=
  (lone.modHost fun h => { h with sec := { h.sec with busy } }).modTenant 0 fun k => { k with mbx := { k.mbx with busy } }

theorem witness_TenantEvents_functions :
    (vfB lone 0 = true ∧ (lone.tenant 0).st = .active ∧ (8 : Nat) ≤ 8 ∧ (0 : Nat) < 8 ∧ (15 : Nat) < 16 ∧ lone.fnEnabled 8 = true ∧
      lone.pkg.phase = .ready) := by decide +kernel

theorem witness_TenantEvents_states_and_keys :
    ((disabled fun k => k).pwr.on = true ∧ ((disabled fun k => k).tenant 0).st = .disabled ∧
      ((disabled fun k => k).tenant 0).erasing = false ∧ ((disabled fun k => { k with erasing := true }).tenant 0).erasing = true ∧
      ((disabled fun k => { k with erasing := true }).tenant 0).enableWait = false ∧
      (disabled fun k => { k with erasing := true }).pkg.rotate = false ∧ (lone.tenant 0).st ≠ .disabled ∧
      ((withTenant fun k => { k with st := .resetting }).tenant 0).st = .resetting) := by decide +kernel

theorem witness_TenantEvents_queues :
    (vfB lone 0 = true ∧ (lone.queue 0 15).en = false ∧ (15 : Nat) < 16) := by decide +kernel

theorem witness_TenantEvents_mailboxes_and_the_life_cycle :
    ((mailed true).host.sec.busy = true ∧ (mailed false).host.sec.busy = false ∧ vfB (mailed true) 0 = true ∧
      vfB (mailed false) 0 = true ∧ ((mailed true).tenant 0).mbx.busy = true ∧ ((mailed false).tenant 0).mbx.busy = false ∧
      State.cmdBad (mailed false).host.sec.cmd = false ∧
      ((mailed false).modPkg fun k => { k with recovery := false }).pkg.recovery = false ∧ (mailed false).pkg.recovery = true ∧
      (State.cmdArg (mailed false).host.sec.cmd < 8 ∨ State.cmdArg (mailed false).host.sec.cmd = 255) ∧
      ((mailed false).modPkg fun k => { k with pendingLc := some (3, 0) }).pkg.pendingLc = some (3, 0) ∧
      State.cmdBad (State.withCode 0 3) = false ∧ State.cmdBad (State.withCode 0 2) = false ∧ State.cmdCode 0 ≠ 2 ∧
      State.cmdCode 0 ≠ 3) := by decide +kernel

theorem witness_TenantEvents_registers :
    (vfB lone 0 = true ∧ (0x2100 : Nat) % 8 = 0 ∧ State.only8 0 0x8008 = true) := by decide +kernel

/-! #### The dispatcher -/

/-- `mapped` with a record at the head of queue 5, and a flag FIRED and one ARMED at 3. -/
def headed (w0 w1 w2 w3 : Nat) : State :=
  ({ mapped with
    events := [(0, { EvEntry.init with st := .fired }), (1, { EvEntry.init with st := .armed, count := 3 })] }.modQueue 0 5 fun k =>
      { k with tail := 1 }).setBytes 0 (bytesOf 8 w0 ++ bytesOf 8 w1 ++ bytesOf 8 w2 ++ bytesOf 8 w3)

def gridRec : State := headed 0x100000 0x100010001 0xFFFFFFFF00000007 0xFFFFFFFFFFFFFFFF

/-- A GRID held with its one job made, and one with none made yet. -/
def holding (made : Nat) : State :=
  gridRec.modQueue 0 5 fun k => { k with grid := some { op := gridRec.bytesAt 0 32, job := aRecord, index := 0, made } }

/-- `mapped` with a READY job in the pool, whose record is at an address: of HBM, of the neighbour's, or of none. -/
def pooledAt (a : Nat) : State :=
  { mapped with events := [(8192, { EvEntry.init with st := .ready, desc := a })], pool := [8192] }
def pooled : State := pooledAt 0x2000
def ofPeer : Nat := 0x80000000
def ofNone : Nat := 0xC0000000

/-- `pooled` with a record that may hold 16 scratchpad granules, where core 0 alone is left, with one scratchpad-role bank. -/
def narrow : State :=
  ({ pooled with cores := [(0, { mapped.core 0 with bankrole := 1, comm := true })], pkg := { mapped.pkg with retire := 0xFFFFFFFFFFFFFFFE } }).setByte 0x2023 16

/-- What a read of Tarragon's answers: 0 where it waits, 1 where it fails, 2 for a record that is not valid, 3 for a valid one. -/
def readKind (s : State) (a : Nat) : Nat :=
  match (s.tarragonRead 0 a 128).2 with
  | .error none => 0
  | .error (some _) => 1
  | .ok rec => if recValid rec then 3 else 2

/-- `mapped` with the job FAILED, the drain state `d`, and a change of its tenant. -/
def failedAt (d : Nat) (f : Tenant → Tenant := id) (a : Nat := 0x2000) : State :=
  { mapped with events := [(8192, { EvEntry.init with st := .failed, desc := a })] }.modTenant 0 fun k =>
    f { k with sched := { k.sched with dstate := d } }

def lostSub : OutSub := { tenant := 0, name := 0x300007, lost := true, jobs := [8192] }

/-- `mapped` with no group and no block. -/
def idle : State := { mapped with groups := [], blocks := [], events := [], tenants := [(0, aTenant)] }

/-- A stripe over the first 64 KiB of the tenant's memory, of four members of a pod of four. -/
def aStripe (valid rebuild : Bool) (rstate : Nat) : Stripe :=
  { Stripe.init with valid, rebuild, nm1 := 3, len := 1, rstate, mem := 0 :: 1 :: 2 :: 3 :: List.replicate 16 0 }
def shielded (k : Stripe) : State :=
  { withTenant (fun t => { t with pch := 1, stripes := [(0, k)] }) with fab := { Fabric.init with colsM1 := 3 } }

/-- A fault record owed, and a queue whose ring lies in host memory, or nowhere. -/
def aFault : Record :=
  { State.bareRecord 0x26 0 0 with gid := 0, part := 0xF, group := true }
def owing (base : DWord) (tail : Word) : State :=
  mapped.modTenant 0 fun k => { k with fq := { k.fq with base, en := true, log2n := 6, tail, owed := [aFault] } }

theorem witness_DispatchEvents_records :
    ((gridRec.queue 0 5).grid = none ∧ (gridRec.decodeHead 0 5).2 = .grid (gridRec.bytesAt 0 32) aRecord ∧
      ((headed 1 0 3 0).decodeHead 0 5).2 = .arm 0 3 ∧ ((headed 2 0 3 (2 ^ 32)).decodeHead 0 5).2 = .signal 1 3 ∧
      ((headed 3 0 0 0).decodeHead 0 5).2 = .nop ∧ ((headed 4 0 0 0).decodeHead 0 5).2 = .refused ∧
      (((headed 3 0 0 0).modQueue 0 5 fun k => { k with base := 0xC0000000 }).decodeHead 0 5).2 = .fault 4 ∧
      (((headed 3 0 0 0).modQueue 0 5 fun k => { k with base := 0x80000000 }).decodeHead 0 5).2 = .waiting) := by decide +kernel

theorem witness_DispatchEvents_held_grids :
    (((holding 0).tenant 0).st = .active ∧ ((holding 0).tenant 0).sched.dstate = 0 ∧ ((holding 0).queue 0 5).grid.isSome = true ∧
      State.opJobs (gridRec.bytesAt 0 32) ≤ 1 ∧ (gridRec.event 1).st = .armed ∧ 2 < (gridRec.event 1).count ∧
      (gridRec.event 1).count = 3) := by decide +kernel

theorem witness_DispatchEvents_delivery :
    ((failedAt 1).laneOpen 0 = false ∧ mapped.laneOpen 0 = true ∧ mapped.poolOf 0 = [] ∧ pooled.laneOpen 0 = true ∧
      pooled.poolOf 0 ≠ [] ∧ (pooled.holdMinimum 0).poolOrder 0 = [] ++ 8192 :: [] ∧
      ((pooled.holdMinimum 0).deliver 0 8192).isSome = true ∧
      (let s : State := { pooled with pkg := { pooled.pkg with retire := 0xFFFFFFFFFFFFFFFF } }
       ∀ e ∈ (s.holdMinimum 0).poolOrder 0, (s.holdMinimum 0).deliver 0 e = none)) ∧
    ([(ofPeer, 0), (ofNone, 1), (0x3000, 2), (0x2000, 3)].all fun e => readKind (pooledAt e.1) e.1 == e.2) = true := by decide +kernel

theorem witness_DispatchEvents_placing :
    (match (pooled.tarragonRead 0 (pooled.event 8192).desc 128).2 with | .ok r => r == aRecord | .error _ => false) = true ∧
    pooled.placeRuns 0 aRecord ((pooled.event 8192).twin || recTwin aRecord) (pooled.event 8192).avoid = some [[0]] ∧
    pooled.fitsRuns aRecord [[0]] = true ∧
    (match (narrow.tarragonRead 0 (narrow.event 8192).desc 128).2 with
      | .ok r => recValid r && narrow.placeRuns 0 r (recTwin r) [] == some [[0]] && !narrow.fitsRuns r [[0]]
      | .error _ => false) = true ∧
    (match (pooled.tarragonRead 0 (pooled.event 8192).desc 128).2 with
      | .ok r => (({ pooled with pkg := { pooled.pkg with retire := 0xFFFFFFFFFFFFFFFF } } : State).placeRuns 0 r (recTwin r) []).isNone
      | .error _ => false) = true := by decide +kernel

theorem witness_DispatchEvents_retirement :
    ((let s : State := { mapped with blocks := [], cores := [], events := [(8192, { aJob with left := 0 })] }
      (s.event 8192).st = .running ∧ (s.event 8192).left = 0 ∧ State.doneOf (s.event 8192) = noName) ∧
      (mapped.event 8192).left ≠ 0) := by decide +kernel

theorem witness_DispatchEvents_event_control :
    (vfB (failedAt 0) 0 = true ∧ ((failedAt 0).tenant 0).sched.dstate = 0 ∧ vfB (failedAt 1) 0 = true ∧
      ((failedAt 1).tenant 0).sched.dstate ≠ 0 ∧ (failedAt 0).failedJob 0 0x2000 = some 8192 ∧
      (failedAt 0).failedJob 0 0x1FFF = none ∧ State.doneOf ((failedAt 0).event 8192) = noName ∧
      ([(ofPeer, 0), (ofNone, 1), (0x3000, 2), (0x2000, 3)].all fun e =>
        ((failedAt 0 id e.1).event 8192).desc == e.1 && readKind (failedAt 0 id e.1) e.1 == e.2) = true ∧
      ((failedAt 0).tenant 0).sched.evctl = [] ∧
      ((failedAt 0 fun k => { k with sched := { k.sched with evctl := [(4, 0x2000)] } }).tenant 0).sched.evctl ≠ [] ∧
      (failedAt 0).localFlag 0 0x1FFF = true ∧ (failedAt 0).localFlag 0 0x2000 = false ∧
      (({ failedAt 0 with outSubs := [lostSub] } : State).outSubs.any fun o => o.tenant == 0 && o.name == 0x300007 && o.lost) = true ∧
      (failedAt 0).outSubs = []) := by decide +kernel

theorem witness_DispatchEvents_sorrel :
    (((List.range 8).all fun j => (State.reset.tenant j).st == .disabled) = true ∧ slice State.reset.sorOwner 3 0 = 15 ∧
      (let s : State := { lone with sorOwner := 0xFFFFFFF0 }
       slice (0xFFFFFFFF : DWord) 3 0 ≠ slice s.sorOwner 3 0 ∧ slice s.sorOwner 3 0 = 0 ∧ (s.tenant 0).st ≠ .disabled ∧
         s.slotOwner 511 = some 0 ∧ s.slotOwner 512 = none)) := by decide +kernel

/-- `mapped` with a boundary under way, whose one report and whose manifest lie at two addresses; and with its manifest written. -/
def bounding (rep man : DWord) (budget : Int) : State :=
  ({ mapped with fab := { mapped.fab with hostBudget := [(0, budget)] } }).modTenant 0 fun k =>
    { k with sor := { k.sor with under := true, sel := [0], repbase := rep, manbase := man } }
def written : State := mapped.modTenant 0 fun k => { k with sor := { k.sor with under := true, wrote := true } }

/-- Lines that the boundary has still to read at peers, and the units that it costs. -/
def boundMissing (s : State) : Bool := (State.farLines (s.reportPieces 0)).any fun l => (Map.find (s.tenant 0).far l).isNone
def boundCleared (s : State) : State := s.sendClears 0 (s.reportPieces 0)
def boundUnits (s : State) : Nat := State.hostSpent (boundCleared s) ((boundCleared s).boundaryRun 0 (s.reportPieces 0)) 0
def boundOut (s : State) : Bool := ((boundCleared s).boundaryRun 0 (s.reportPieces 0)).farOut 0 0

/-- A boundary whose one report lies at the neighbour, with its line come. -/
def reported : State :=
  let s := bounding 0x80000000 0 0
  s.modTenant 0 fun k => { k with far := (State.farLines (s.reportPieces 0)).map fun l => (l, List.replicate 64 0) }

theorem witness_DispatchEvents_boundary :
    ((bounding 0 0 0).tenant 0).sor.under = true ∧ ((bounding 0 0 0).tenant 0).sor.wrote = false ∧
    boundMissing (bounding 0x80000000 0 0) = true ∧
    (boundMissing (bounding 0x40000000 0x40000000 0) = false ∧ boundUnits (bounding 0x40000000 0x40000000 0) ≠ 0 ∧
      (bounding 0x40000000 0x40000000 0).affordsHost 0 (boundUnits (bounding 0x40000000 0x40000000 0)) = false) ∧
    (boundMissing reported = false ∧ (boundCleared reported).clearsOut 0 = true ∧ State.farLines (reported.reportPieces 0) ≠ []) ∧
    (boundMissing (bounding 0x40000000 0x40000000 9) = false ∧ (boundCleared (bounding 0x40000000 0x40000000 9)).clearsOut 0 = false ∧
      (bounding 0x40000000 0x40000000 9).affordsHost 0 (boundUnits (bounding 0x40000000 0x40000000 9)) = true ∧
      boundOut (bounding 0x40000000 0x40000000 9) = false ∧ State.farLines ((bounding 0x40000000 0x40000000 9).reportPieces 0) = []) ∧
    (boundMissing (bounding 0 0x80000000 0) = false ∧ boundUnits (bounding 0 0x80000000 0) = 0 ∧
      (boundCleared (bounding 0 0x80000000 0)).clearsOut 0 = false ∧ boundOut (bounding 0 0x80000000 0) = true) ∧
    ((written.tenant 0).sor.under = true ∧ (written.tenant 0).sor.wrote = true ∧ written.farOut 0 0 = false) := by decide +kernel

theorem witness_DispatchEvents_drain_and_restore :
    (((failedAt 0).tenant 0).st = .active ∧ ((failedAt 3).tenant 0).sched.dstate = 3 ∧ ((failedAt 5).tenant 0).sched.dstate = 5 ∧
      ((failedAt 2).tenant 0).sched.dstate = 2 ∧ ((failedAt 4).tenant 0).sched.dstate = 4 ∧ idle.restorable 0 = true ∧
      (idle.tenant 0).sched.dstate = 0 ∧ ((idle.modTenant 0 fun k => { k with sched := { k.sched with dstate := 1 } }).drainQuiet 0) = true ∧
      (let s := idle.modCore 63 fun k => { k with watchdog := true }
       (s.core 63).watchdog = true ∧ s.blocksOn 63 = [] ∧ (s.core 62).watchdog = false)) := by decide +kernel

theorem witness_DispatchEvents_watchdog : ∀ d ∈ [0, 1],
    let s := (lone.modTenant 0 fun k => { k with sched := { k.sched with dstate := d } }).modCore 0 fun k => { k with watchdog := true }
    (s.core 0).watchdog = true ∧ s.blocksOn 0 = [(7, aBlock)] ∧ s.block? 7 = some aBlock ∧ aBlock.dead = false ∧
      aBlock.ended = false ∧ (s.tenant aBlock.tenant).sched.dstate = d ∧
      (aBlock.groups.filter fun g => (s.group g).park != .draining) ++ aBlock.groups = 0 :: [0] := by decide +kernel

theorem witness_DispatchEvents_records_at_once :
    ((ringed.group 0).tenant < 8 ∧ (ringed.tenant 0).fq.owed = [] ∧ ringed.recordReady 0 = some (hostPlace 0x5000)) ∧
    ((lone.group 0).tenant < 8 ∧ lone.recordReady 0 = none) := by decide +kernel

/-- `mapped` SAVING into host memory with a budget. -/
def saving (budget : Int) : State :=
  ({ mapped with fab := { mapped.fab with hostBudget := [(0, budget)] } }).modTenant 0 fun k =>
    { k with sched := { k.sched with dstate := 2, savebase := 0x40000000 } }

/-- Units that the save costs. -/
def saveUnits (s : State) : Nat := s.writeUnits 0 ((s.saveImage 0).map fun p => (s.saveBase 0 + p.1, p.2.length))

theorem saveUnits_ne_zero : saveUnits (saving 0) ≠ 0 := by
  obtain ⟨h, rest, e, n⟩ : ∃ h rest, (saving 0).saveImage 0 = h :: rest ∧
      (saving 0).writeUnits 0 [((saving 0).saveBase 0 + h.1, h.2.length)] ≠ 0 := ⟨_, _, rfl, by decide +kernel⟩
  unfold saveUnits
  rw [e]
  simp only [State.writeUnits, List.map_cons, List.sum_cons, List.map_nil, List.sum_nil] at n ⊢
  omega

theorem witness_DispatchEvents_save :
    ((∀ b ∈ [0, 10], ((saving b).tenant 0).sched.dstate = 2 ∧ ((saving b).tenant 0).sched.wrote = false) ∧
      saveUnits (saving 0) ≠ 0 ∧ (saving 0).affordsHost 0 (saveUnits (saving 0)) = false) ∧
    (saving 10).affordsHost 0 (saveUnits (saving 10)) = true ∧
    (let s := (saving 10).modSched 0 fun k => { k with wrote := true }
     (s.tenant 0).sched.wrote = true ∧ (s.tenant 0).sched.dstate = 2 ∧ s.farOut 0 1 = false ∧
       (s.sendFar 0 2 1 0x40 [] (.farWrite 0 1)).farOut 0 1 = true) := by
  refine ⟨⟨by decide +kernel, saveUnits_ne_zero, ?_⟩, ?_, by decide +kernel⟩
  · have h := saveUnits_ne_zero
    have e : ((saving 0).boundary 0).capHost.toNat = 9 ∧ Map.get (0 : Int) (saving 0).fab.hostBudget 0 = 0 := by decide +kernel
    simp only [State.affordsHost, e, decide_eq_false_iff_not]
    omega
  · have e : ((saving 10).boundary 0).capHost.toNat = 9 ∧ Map.get (0 : Int) (saving 10).fab.hostBudget 0 = 10 := by decide +kernel
    simp only [State.affordsHost, e, decide_eq_true_eq]
    omega

theorem witness_DispatchEvents_stripes :
    (vfB (shielded Stripe.init) 0 = true ∧ ((shielded Stripe.init).stripe 0 0).valid = false ∧
      (shielded Stripe.init).stripeCode 0 0 (Stripe.init.withCfg (0 ||| BitVec.ofNat 64 (2 ^ 63))) ≠ 0 ∧
      (let x := aStripe false false 0
       let n := x.withCfg (3 ||| BitVec.ofNat 64 (2 ^ 63))
       (shielded x).stripe 0 0 = x ∧ (shielded x).stripeCode 0 0 n = 0 ∧ n.rebuild = false) ∧
      ((shielded (aStripe true false 1)).stripe 0 0).rstate = 1 ∧ ((shielded (aStripe true false 1)).stripe 0 0).valid = true ∧
      ((shielded (aStripe true false 1)).stripe 0 0).lostv = false ∧ ((shielded (aStripe true true 4)).stripe 0 0).rstate = 4 ∧
      ((shielded (aStripe true true 4)).stripe 0 0).rebuild = true ∧
      ((shielded (aStripe true true 3)).stripe 0 0).rstate ≠ 4 ∧ ((shielded (aStripe true true 3)).stripe 0 0).due = 0) := by decide +kernel

theorem witness_DispatchEvents_fault_records :
    ([0x40000000, 0xC0000000].all fun b => ((owing b 0).tenant 0).fq.owed == [aFault] && State.recordRoom ((owing b 0).tenant 0).fq) = true ∧
    (let place (s : State) : Nat := match s.recordPlace 0 with | .ok p => if p = hostPlace 0 then 0 else 1 | .error e => 16 + e.toNat
     let shut : State := (owing 0x40000000 0).modHost fun h => { h with bnd := [] }
     let poor : State := (owing 0x40000000 0).modFab fun f => { f with hostBudget := [] }
     place (owing 0x40000000 0) = 0 ∧ (owing 0x40000000 0).affordsHost 0 ((owing 0x40000000 0).recordUnits 0) = true ∧
       place poor = 0 ∧ poor.affordsHost 0 (poor.recordUnits 0) = false ∧ place shut = 16 + 6 ∧ place (owing 0xC0000000 0) = 16 + 7) ∧
    (aFault.parks = false ∧ recoverable aFault.cause = false) ∧
    (let r : Record := { aFault with cause := 1, parks := true }
     r.parks = true ∧ recoverable r.cause = true ∧ r.ends = false) ∧
    (mapped.tenant 0).fq.owed = [] ∧ State.recordRoom ((owing 0 64).tenant 0).fq = false := by decide +kernel

/-! #### The cores -/

/-- `lone` with no instruction at hand, and a change of its group. -/
def withGroup (f : Group → Group) : State := { lone.onGroup 0 f with cur := none }

def replaying (kill fetch : Bool) : State := withGroup fun x => { x with ops := { x.ops with captures := [aReplay kill fetch] } }

/-- A draining group of a part of two. -/
def ebbing : State :=
  { withGroup (fun x => { x with park := .draining }) with blocks := [(7, { aBlock with groups := [0, 1], ngroups := 2 })] }

/-- An operand pattern of one 4-byte element for each lane of the core's scratchpad, on queue 3. -/
def aPattern (pos : Nat) : Pattern := { queue := 3, base := 0x01FFFFFF81000000, size := 0, lstride := 4, levels := [(1, 0)], pos }
def streaming (pos : Nat) : State :=
  { near.onGroup 0 (fun x => { x with slice := { Slice.init with used := true, patterns := [aPattern pos] } }) with cur := none }

/-- Role changes of core 0 that wait, with a block and without one. -/
def changing : State := { lone with blocks := [] }.modCore 0 fun k => { k with bankroleNew := some (1, 0) }

/-- Two copies of a group on cores 0 and 8, both at their compare point, with signatures `a` and `b`. -/
def twins (a b : DWord) (rerun : Bool) : State :=
  let at_ (g : DWord) (block : Nat) : Group :=
    { aGroup with block, park := .wait .pass, iss := { Issuing.init with compares := 1, sig := g } }
  { lone with
    cur := none, groups := [(0, at_ a 7), (2048, at_ b 8)], events := [(8192, { aJob with rerun, runs := [[0], [8]] })]
    blocks := [(7, { aBlock with twin := true }), (8, { aBlock with twin := true, run := 1, core := 8, groups := [2048], order := 1 })] }

/-- A written record that waits on group 0. -/
def aWait : Waiting := { seq := 5, gid := 0, cause := 0x10, remote := false, stripe := 8 }

/-- `lone` with debugging on, its group selected, running or stopped; VA 0 to 1 GiB is HBM from 0. -/
def debugged (stopped : Option Nat) : State :=
  { lone with
    cur := none
    mem := [(0x10000, 1), (0x10001, 0x10), (0x10002, 1), (0x11000, 1), (0x11001, 0x20), (0x11002, 1), (0x12000, 0x33)]
    tenants := [(0, { aTenant with ptroot := 0x10001, pch := 1, dbg := { Debug.init with en := true, buf := 0x4000 } })]
    groups := [(0, { aGroup with iss := { Issuing.init with stopped } })] }

theorem witness_CoreEvents_issue :
    ((withGroup id).groupReady 0 = true ∧ (withGroup id).hasGroup 0 = true ∧ State.replayNext ((withGroup id).group 0) = false ∧
      (State.issuePart ((withGroup id).group 0)).isSome = true ∧
      ((withGroup fun x => { x with park := .yield [1] 16 }).group 0).park = .yield [1] 16 ∧
      ((withGroup fun x => { x with park := .sleep }).group 0).park = .sleep ∧ (withGroup id).cur = none ∧
      (∀ k ∈ [(true, false), (false, true), (false, false)], (replaying k.1 k.2).cur = none ∧
        ((replaying k.1 k.2).group 0).iss.stopped = none ∧ State.replayNext ((replaying k.1 k.2).group 0) = true ∧
        State.replayDue ((replaying k.1 k.2).group 0) = some (aReplay k.1 k.2))) := by decide +kernel

theorem witness_CoreEvents_drains_and_streams :
    (ebbing.hasGroup 0 = true ∧ (ebbing.group 0).park = .draining ∧ (ebbing.group 0).ops.captures = [] ∧ ebbing.drained 0 = true ∧
      (ebbing.group 0).role = .job ∧ (ebbing.block? (ebbing.group 0).block).map (fun b => b.groups.erase 0) = some [1] ∧
      (let v : State := { ebbing with groups := Map.del 0 ebbing.groups }
       ((v.modBlock 7 fun b => { b with groups := b.groups.erase 0 }).block? 7).map (·.groups) = some [1]) ∧
      (let s := withGroup fun x => { x with park := .draining, role := .worker }
       (s.group 0).role ≠ .job ∧ s.hasGroup 0 = true ∧ (s.group 0).ops.captures = [] ∧ s.drained 0 = true) ∧
      (lone.group 0).park ≠ .draining ∧ (streaming 0).hasGroup 0 = true ∧ ((streaming 0).group 0).slice.unread = none ∧
      State.patternOf ((streaming 0).group 0) 3 = some (aPattern 0) ∧ 0 < State.elemTotal (aPattern 0) ∧
      (streaming 0).elemMissing 0 (aPattern 0) 0 (State.sliceLanes ((streaming 0).group 0).flow) = [] ∧
      (Map.get [] ((streaming 0).group 0).slice.queues 3).length < 32 ∧ State.elemTotal (aPattern 1) ≤ 1 ∧
      (streaming 0).elemUnits 0 (aPattern 0) 0 (State.sliceLanes ((streaming 0).group 0).flow) = 0 ∧
      (let p : Pattern := { aPattern 0 with base := 0x40000000 }
       let s := ({ mapped with fab := { mapped.fab with hostBudget := [] } } : State).onGroup 0 fun x =>
         { x with slice := { Slice.init with used := true, patterns := [p] } }
       State.patternOf (s.group 0) 3 = some p ∧ s.elemMissing 0 p 0 (State.sliceLanes (s.group 0).flow) = [] ∧
         s.elemUnits 0 p 0 (State.sliceLanes (s.group 0).flow) ≠ 0 ∧
         s.affordsHost (s.group 0).tenant (s.elemUnits 0 p 0 (State.sliceLanes (s.group 0).flow)) = false) ∧
      (let q : Map (List QEntry) := [(3, List.replicate 32 { elem := 0, vals := [], bad := 0 })]
       let s := (streaming 0).onGroup 0 fun x => { x with slice := { x.slice with queues := q } }
       32 ≤ (Map.get [] (s.group 0).slice.queues 3).length)) := by decide +kernel

/-- `lone` with its one part held at a regroup point: with nothing outstanding; with a load's result to come; with a loop. -/
def regrouping (f : Group → Group) : State :=
  withGroup fun x => f { x with flow := x.flow.modPart 0xF fun p => { p with hold := .regroup 0x1000 } }

/-- What the repack of that part finds: the groups quiet, and the repack illegal. -/
def repacking (s : State) : Bool × Bool × Bool :=
  let gs := (s.livingGroups aBlock).filter fun h => (s.group h).flow.parts.any fun p => p.hold == .regroup 0x1000
  let u := gs.foldl (fun v h => ((((v.drainGroup h).flushPend h).dropDone h).reportErrs h fun _ => true).reportCopies h
    fun _ => true) s
  (gs.all u.quiet, (u.block? 7).all (·.dead) || gs.any (fun h => (u.group h).park == .wait .record), State.repackIllegal (gs.map u.group))

theorem witness_CoreEvents_roles_and_regrouping :
    (let calm := regrouping id
     let busy := regrouping fun x => { x with ops := { x.ops with pend := [{ aPend with missing := 1 }] } }
     let wrong := regrouping fun x => { x with flow := { x.flow with loops := [oneLoop] } }
     [calm, busy, wrong].all (fun s => s.block? 7 == some aBlock && s.repackClause aBlock == some 0x1000) = true ∧
       repacking calm = (true, false, false) ∧ (repacking busy).1 = false ∧ repacking wrong = (true, false, true) ∧
       (repacking (regrouping fun x => { x with park := .wait .record })).2.1 = true) ∧
    (lone.rolesDue 0 = false ∧ changing.rolesDue 0 = true ∧ changing.block? 7 = none ∧ lone.block? 7 = some aBlock ∧
      lone.repackClause aBlock = none ∧ Map.wf 0 aGroup.regs.v = true ∧ (0 : Nat) < [aGroup].length) := by decide +kernel

theorem witness_CoreEvents_translation :
    (((withTenant fun k => { k with tlbBusy := true }).tenant 0).tlbBusy = true ∧
      (withTenant fun k => { k with tlbBusy := true }).accessesOut 0 = false ∧
      (let k : Tag := { typ := 0, dst := 3, vcn := 0, addr := 0, errand := .peek 0 0, first := none }
       ({ withTenant (fun k => { k with tlbBusy := true }) with fab := { Fabric.init with tags := [(9, k)] } } : State).accessesOut 0 = true) ∧
      (let s := mapped.modCore 0 fun k => { k with tlb := [] }
       s.ownerOf 0 = some 0 ∧ (0x1000 : DWord).toNat < vaultBase ∧ s.tlbFind 0 0 0x1000 = none ∧
         (match s.walk 0 0x1000 with | .ok (_, n) => n == 2 | .error _ => false) = true ∧
         (match s.walk 0 0xC0000000 with | .ok _ => false | .error _ => true) = true ∧ s.walkUnits 0 0x1000 = 0 ∧
         s.walkUnits 0 0xC0000000 = 0) ∧
      (let s := ({ mapped with fab := { mapped.fab with hostBudget := [] } } : State).modTenant 0 fun k => { k with ptroot := 0x10003 }
       s.walkUnits 0 0x1000 ≠ 0 ∧ s.affordsHost 0 (s.walkUnits 0 0x1000) = false)) := by decide +kernel

theorem witness_CoreEvents_faults_and_errors :
    ((let s := withTenant fun k => { k with fq := { k.fq with waiting := [aWait] } }
      vfB s 0 = true ∧ (0x8000000000000005 : DWord).getLsbD 63 = true ∧ slice (0x8000000000000005 : DWord) 61 32 = 0 ∧
        slice (0x8000000100000005 : DWord) 61 32 ≠ 0 ∧ ((s.tenant 0).fq.waiting.find? fun w => w.seq == 5) = some aWait ∧
        ((s.tenant 0).fq.waiting.find? fun w => w.seq == 4) = none) ∧
      (let k : Line := { data := 0, valid := 1, dirty := 0 }
       let s := lone.modCore 0 fun x => { x with l1 := [(5, k)] }
       placeHome 320 ≠ .spad ∧ Map.find (s.core 0).l1 (320 / 64) = some k ∧ placeHome (spadPlace 0 0) = .spad ∧
         spadPlace 0 0 < 2 ^ 61 + 2 ^ 30) ∧
      placeHome 0 = .hbm ∧ placeHome State.pewBase = .pewter ∧ State.storesPlace .hbm (spadPlace 0 0) = false ∧
      (State.storesPlace .hbm 0 = true ∧ lone.errorHolder .hbm 0 = none ∧ mapped.errorHolder .hbm 0 = some 0) ∧
      (2 ^ 80 ≤ 2 ^ 80 + 2 ^ 14 - 1 ∧ (2 ^ 80 + (2 ^ 14 - 1) - 2 ^ 80) / 2 ^ 14 = 0)) := by decide +kernel

theorem witness_CoreEvents_twins :
    ((twins 1 1 false).hasGroup 0 = true ∧ ((twins 1 1 false).blockOf 0).isSome = true ∧ (twins 1 1 false).twinOf 0 = some 2048 ∧
      State.atPoint ((twins 1 1 false).group 0) = true ∧ State.atPoint ((twins 1 1 false).group 2048) = true ∧
      ((twins 1 1 false).group 0).park = .wait .pass ∧
      ((twins 1 1 false).group 2048).park = .wait .pass ∧ ((twins 1 1 false).group 0).iss.compares = ((twins 1 1 false).group 2048).iss.compares ∧
      ((twins 1 1 false).group 0).iss.sig = ((twins 1 1 false).group 2048).iss.sig ∧
      ((twins 1 2 false).group 0).iss.sig ≠ ((twins 1 2 false).group 2048).iss.sig ∧ ((twins 1 2 false).event 8192).rerun = false ∧
      ((twins 1 2 false).event 8192).released = false ∧ ((twins 1 2 true).event 8192).rerun = true ∧ State.atPoint aGroup = false) := by decide +kernel

theorem witness_CoreEvents_debug :
    (vfB (debugged none) 0 = true ∧ (debugged none).selected 0 false = some 0 ∧ ((debugged none).group 0).iss.stopped = none ∧
      ((debugged (some 1)).group 0).iss.stopped = some 1 ∧
      ((debugged none).modTenant 0 fun k => { k with dbg := { k.dbg with entry := 255 } }).selected 0 false = none) := by decide +kernel

/-- `mapped` with debugging on, its group selected and stopped between clauses, the buffer in host memory, and a budget. -/
def imaging (budget : Int) : State :=
  { mapped with
    cur := none
    fab := { mapped.fab with hostBudget := [(0, budget)] }
    tenants := mapped.tenants.map fun t => (t.1, { t.2 with dbg := { Debug.init with en := true, buf := 0x40004000 } })
    groups := mapped.groups.map fun g => (g.1, { g.2 with iss := { Issuing.init with stopped := some 1 } }) }

/-- Units that the image costs. -/
def imageUnits (s : State) : Nat := s.writeUnits 0 [(State.bufAddr (s.tenant 0).dbg, 0x9000)]

theorem linePieces_cons (a : Nat) : ∃ rest, State.linePieces (0x9000 / 64 + 2) a 0x9000 = (a, min 0x9000 (64 - a % 64)) :: rest :=
  ⟨State.linePieces (0x9000 / 64 + 1) (a + min 0x9000 (64 - a % 64)) (0x9000 - min 0x9000 (64 - a % 64)), rfl⟩

theorem imageUnits_ne_zero : imageUnits (imaging 0) ≠ 0 := by
  have b : State.bufAddr ((imaging 0).tenant 0).dbg = 0x40004000 := by decide +kernel
  have n : (imaging 0).writeUnits 0 [(0x40004000, 64)] ≠ 0 := by decide +kernel
  have e : State.linePieces (64 / 64 + 2) 0x40004000 64 = [(0x40004000, min 0x9000 (64 - 0x40004000 % 64))] := by decide
  obtain ⟨rest, h⟩ := linePieces_cons 0x40004000
  unfold imageUnits
  simp only [State.writeUnits, List.map_cons, List.map_nil, List.sum_cons, List.sum_nil, b, e, h] at n ⊢
  omega

theorem witness_CoreEvents_debug_images :
    (∀ b ∈ [0, 10], vfB (imaging b) 0 = true ∧ (imaging b).selected 0 false = some 0 ∧ ((imaging b).group 0).iss.stopped = some 1 ∧
      ((State.stopPart ((imaging b).group 0)).map State.betweenClauses) = some true) ∧
    imageUnits (imaging 0) ≠ 0 ∧ (imaging 0).affordsHost 0 (imageUnits (imaging 0)) = false ∧
    (imaging 10).affordsHost 0 (imageUnits (imaging 10)) = true := by
  refine ⟨by decide +kernel, imageUnits_ne_zero, ?_, ?_⟩
  · have h := imageUnits_ne_zero
    have e : ((imaging 0).boundary 0).capHost.toNat = 9 ∧ Map.get (0 : Int) (imaging 0).fab.hostBudget 0 = 0 := by decide +kernel
    simp only [State.affordsHost, e, decide_eq_false_iff_not]
    omega
  · have e : ((imaging 10).boundary 0).capHost.toNat = 9 ∧ Map.get (0 : Int) (imaging 10).fab.hostBudget 0 = 10 := by decide +kernel
    simp only [State.affordsHost, e, decide_eq_true_eq]
    omega


/-! #### Encodings and the step -/

theorem witness_DecodeEncode :
    (let i : Instr := .iadd (two .dflt)
     i.encFields.isSome = true ∧ i.wf = true ∧ (i.encFields.map fun f => f.2.ctl.ext) = some true) ∧
    (let i : Instr := .nop ⟨plain⟩
     i.wf = true ∧ (i.encFields.map fun f => (f.2.ctl.ext, f.2.extWord == defaultExt)) = some (false, true)) ∧
    (decodeInstr 0 0 0).isSome = true ∧ (1 ≤ 15 ∧ 15 < (16 : Nat) ∧ 6 < (7 : Nat) ∧ 31 < (32 : Nat)) := by decide

theorem witness_MemoryInvariant : State.reset.MemOk ∧ ∃ t, step State.reset = .next t :=
  ⟨(by decide : Memory.wf State.reset.mem = true), _, rfl⟩

/-! ### Single steps: the expected values are worked by hand from the rules named -/

/-- Lane 0 of v4 after an instruction, with v8, v12 and v16 of lane 0 as given. -/
def lane0 (i : Instr) (a b c : Word) : Option Word :=
  match exec i (lone.modRegs 0 fun r => ((r.setV 8 0 a).setV 12 0 b).setV 16 0 c) with
  | .next t => some ((t.group 0).regs.getV 4 0)
  | _ => none

/-- The wrap of R12; the Barrett quotient of R321's worked encoding; a shift by the width or more (R322); a fused rounding (R328). -/
theorem test_integers : lane0 (.iadd (two .dflt)) 0xFFFFFFFF 1 0 = some 0 ∧ lane0 (.imulh (two .n32)) 100000 349496 0 = some 8 ∧
    lane0 (.imad (three .dflt)) 0xFFFFFFFF 2 3 = some 1 ∧ lane0 (.shl (two .b32)) 1 32 0 = some 0 ∧
    lane0 (.sar (two .b32)) 0x80000000 255 0 = some 0xFFFFFFFF := by decide +kernel

theorem test_floats : lane0 (.fadd (two .f32)) 0x3F800000 0x40000000 0 = some 0x40400000 ∧
    lane0 (.ffma (three .f32)) 0x3F800001 0x3F800001 0xBF800002 = some 0x28800000 ∧
    lane0 (.fadd (two .f32)) 0x7F800000 0xFF800000 0 = some 0x7FC00000 := by decide +kernel

/-- The rows of the table of worked conversions: 232, 236, −2^−10 and 2^−11 in f8p4sf and f8p4sx. -/
theorem test_conversions :
    (let f := narrowFmt 8 4 true false
     let x := narrowFmt 8 4 true true
     [f.convert .ne 0 (.fin false 232 0), f.convert .ne 0 (.fin false 236 0), f.convert .ne 0 (.fin true 1 (-10)),
       f.convert .ne 0 (.fin false 1 (-11))] = [0x7E, 0x7F, 0x81, 0] ∧
     [0, 1, 2].map (fun sat => x.convert .ne sat (.fin false 232 0)) = [0x7E, 0x7E, 0x7E] ∧
     [0, 1, 2].map (fun sat => x.convert .ne sat (.fin false 236 0)) = [0x7E, 0x7F, 0x80]) ∧
    -- stochastic rounding of 0.375 in f4p2sf
    [0x7FFF, 0x8000].map (fun u => (narrowFmt 4 2 true false).convert (.st u) 0 (.fin false 3 (-3))) = [2, 1] := by decide +kernel

/-- The delta-coded row of R240: blocks with S 128, 130, 121 and 121. -/
theorem test_scales : encodeScales 0 [128, 130, 121, 121] = [0x08, 0x28, 0x98, 0x07] := by decide +kernel

/-- The group sum of R244's example, and the five-member reduction of R79's. -/
theorem test_sums :
    (let f := narrowFmt 8 4 true false
     let row := (List.replicate 8 0x38 ++ List.replicate 8 0).map fun c => ({ val := f.decode c, live := true } : Elem)
     dotRow 0x4B800000 row row = 0x4B800001) ∧
    combineAll 0 0 [0x4B800000, 0x3F800000, 0x3F800000, 0xCB800000, 0x3F800000] = 0x40000000 := by decide +kernel

/-- FCVT of the worked example of R329's table in lanes 0 to 3: 1.25, −5, NaN and 0.1 to f4p2sf. -/
theorem test_narrow_results :
    (let i : Instr := .fcvt { one .fs with fsi := 2, sub := 14 }
     match exec i (lone.modRegs 0 fun r => { ((((r.setV 8 0 0x3FA00000).setV 8 1 0xC0A00000).setV 8 2 0x7FC00000).setV 8 3 0x3DCCCCCD)
         with fs := [(2, 0x2A3)] }) with
     | .next t => [0, 1, 2, 3].map ((t.group 0).regs.getV 4) == [4, 0xF, 8, 0]
     | _ => false) = true := by decide +kernel

/-- The route of the worked example of R65 and R66: ports 11, then 34 with port 50 down, then 50. -/
theorem test_route :
    (let up (n : Nat) : Nat × Port := (n, { Port.init with up := true })
     let at_ (row col : BitVec 5) (down : List Nat) : State :=
       let ports := ((List.range 62).filter fun n => !down.contains n).map up
       { State.reset with fab := { Fabric.init with rowsM1 := 31, colsM1 := 31, row, col, ports } }
     (at_ 3 7 []).nextHop 0x28C 0 = some 11 ∧ (at_ 3 12 [50]).nextHop 0x28C 1 = some 34 ∧
       (at_ 4 12 []).nextHop 0x28C 2 = some 50 ∧ (at_ 5 12 []).nextHop 0x28C 4 = none) := by decide +kernel

/-- The first two rows of the table of Sage's worked example, in tile slots and accumulators. -/
theorem test_safety :
    (let u (t a : Nat) : Units := { Units.zero with t, a }
     let parts (p1 p2 : Nat) : List Account :=
       [⟨1, u 10 (4 + p1), u 16 8, 1⟩, ⟨2, u 8 (6 + p2), u 20 10, 2⟩, ⟨3, u 6 2, u 12 6, 3⟩]
     safeSeq 300 (u 8 4) (parts 0 0) = some [1, 2, 3] ∧ safeSeq 300 (u 8 0) (parts 0 4) = none ∧
       (safeSeq 300 (u 8 0) (parts 4 0)).isSome = true) := by decide +kernel

/-- The parity word of the worked example of R219: the delta of a store is XORed into it. -/
theorem test_parity :
    State.xorBytes (bytesOf 4 0xCC3) (State.xorBytes (bytesOf 4 0x33) (bytesOf 4 0x55)) = bytesOf 4 0xCA5 := by decide

/-- TRAP (R400) takes the group out of issue: it drains, and a record with the cause and the immediate is in the tenant's queue;
where the queue takes none, the group stays parked and the record is owed (R98). -/
theorem test_trap :
    (match exec (.trap ⟨more, .v 0, .v 0, 0x1234⟩) ringed with
     | .next t => (t.group 0).park == .draining && t.numAt (hostPlace 0x5000) 1 == 0x2D && t.numAt (hostPlace 0x5000 + 56) 8 == 0x1234
     | _ => false) = true ∧
    (match exec (.trap ⟨more, .v 0, .v 0, 0x1234⟩) lone with
     | .next t => (t.group 0).park == .wait .record && ((t.tenant 0).fq.owed.map fun r => (r.cause, r.detail)) == [(0x2D, 0x1234)]
     | _ => false) = true := by decide +kernel

/-! #### Refusals of ENQOP, rows of remote copies, collectives -/

/-- `mapped` with a change of queue 5. -/
def queued (f : Queue → Queue) : State := mapped.modQueue 0 5 f

/-- The four refusals of ENQOP: a queue of the host, one that is not enabled, a full one, and one whose ring maps to nothing. -/
theorem witness_SystemInstructions_enqop_refused :
    ∀ s ∈ [queued fun k => { k with owner := false }, queued fun k => { k with en := false }, queued fun k => { k with tail := k.head + 64 },
        queued fun k => { k with base := 0xC0000000 }],
      let a := enqAsk 5
      let r := (s.afterReads anIssue a).readDesc 0 (s.srcVal anIssue a { fld := 0, opnd := .g 6, n := 2 } 0) 32
      let u := r.1.releaseLocal 0 .dev
      let q := u.queue 0 5
      readyFor s [a] = true ∧ (s.releaseLocal 0 .dev).releaseWait 0 .dev false none = none ∧
        (match r.2 with | .ok bs => bs.length == 32 | _ => false) = true ∧ r.1.isTwin 0 = false ∧
        (q.owner = false ∨ (q.owner = true ∧ q.en = false) ∨
          (q.owner = true ∧ q.en = true ∧ (q.tail - q.head).toNat = 2 ^ q.log2n.toNat) ∨
          (q.owner = true ∧ q.en = true ∧ (q.tail - q.head).toNat ≠ 2 ^ q.log2n.toNat ∧
            (match u.tenantLoc 0 (State.ringAddr q q.tail) 32 true with | .error _ => true | .ok _ => false) = true)) := by
  decide +kernel

theorem witness_ResourceInstructions_passes : (lone.core 0).sageQueue = [] ∧ lone.queuedBehind 0 = false ∧
    lone.verdict 0 .spad 2 = .granted ∧ ((lone.giveUnits 0 .spad 2 0).core 0).sageQueue = [] := by decide +kernel

/-- A collective of a device with one of two members: chunk 0 at the other one, or here. -/
def colling (counted drivers : List Nat) (root : Nat) : Coll :=
  { id := 4, job := 8192, run := 0, rank := 0, k := 0, counted, drivers, tenant := 0, tile := 5,
    desc := [7, 0, 0, 0, 2, 0, 0, 0, 0, 0, BitVec.ofNat 8 root, 0, 0, 0, 4, 0] ++ List.replicate 52 0 ++ [1, 0, 0, 0],
    dests := [{ gid := 0, core := 0, slot := 0, barrier := 0, status := 0 }], started := false, casts := [], answered := [] }
def collected (k : Coll) : State := { lone with svc := { Services.init with colls := [k] } }

theorem witness_RemoteAndCollective_rows :
    (let d : CopyDesc := { target := { pod := 0, ddev := 1, addr := 0 }, stride := 0, rows := 1, row0 := 0, bytes := 4, flag := none, value := 0 }
     d.rowAddr 0 + d.bytes ≤ 2 ^ 45 ∧ 0 < d.bytes ∧ lone.poisoned (tilePlace 0 0 0) = false ∧
       (lone.addPoison (tilePlace 0 0 0)).poisoned (tilePlace 0 0 0) = true ∧
       2 ^ 45 < { d with target := { d.target with addr := 2 ^ 45 - 1 } }.rowAddr 0 + 4) := by decide +kernel

theorem witness_RemoteAndCollective_starts :
    (lone.blockOf 0 = some aBlock ∧ lone.hasGroup 0 = true ∧ lone.svc.colls = [] ∧ (lone.group 0).ops.colls = 0 ∧
      (let k := colling [] [] 0
       (collected k).svc.colls[0]? = some k ∧ k.job = aBlock.job ∧ k.run = aBlock.run ∧ k.rank = aBlock.rank ∧ k.k = 0)) ∧
    ((collected (colling [0] [0] 0)).collReady (colling [0] [0] 0) = true ∧ (collected (colling [] [] 0)).collReady (colling [] [] 0) = false ∧
      (colling [0] [] 0).drivers.length ≠ 1) ∧
    (∀ root ∈ [0, 1], let k := colling [0] [0] root
     let v := collected k
     (v.svc.colls.find? fun y => y.id == k.id) = some k ∧ k.drivers.head? = some 0 ∧
       (k.dests.filterMap fun d => (Map.find (v.group d.gid).regs.tile k.tile).map fun slot =>
         ({ d with core := State.coreOf d.gid, slot } : CollDest)) ≠ [] ∧
       (match k.comm v with
       | none => false
       | some m => m.op != 6 && m.members.length == 2 && (m.root + 0) % m.members.length == root && m.myidx == 0 &&
         (v.chunkRow k m 0).2 == some (v.bytesAt (tilePlace 0 0 (256 * m.row0)) m.bytes) &&
         !(v.chunkRow k m 0).1.svc.answered.contains (0, m.collid, 0) &&
         ((v.addPoison (tilePlace 0 0 (256 * m.row0))).chunkRow k m 0).2.isNone) = true) := by decide +kernel

/-! #### Held contributions -/

theorem witness_FabricEvents_held_contributions :
    (let p := pkt 10 7 []
     let k : Reduction := { vcn := 0, collid := 7, chunk := 0, parts := [{ order := 3, pkt := some p, data := [] }], coll := none }
     let s : State := { State.reset with svc := { Services.init with reductions := [k] } }
     s.heldParts[0]? = some p ∧ ∀ x ∈ State.reset.svc.reductions, x.coll ≠ none) := by decide +kernel

end Sys2Proof.Tests
end

/-! SUPPORT. A number as bytes (R7), and what a number written to memory leaves at every place. -/

namespace Sys2Proof.Machine

@[simp] theorem length_bytesOf (n x : Nat) : (bytesOf n x).length = n := by
  induction n generalizing x with
  | zero => rfl
  | succ n ih => simp [bytesOf, ih]

theorem getD_bytesOf {n i : Nat} (x : Nat) (h : i < n) : (bytesOf n x).getD i 0 = BitVec.ofNat 8 (x / 256 ^ i) := by
  induction n generalizing x i with
  | zero => omega
  | succ n ih =>
    cases i with
    | zero => simp [bytesOf]
    | succ i => rw [bytesOf, List.getD_cons_succ, ih _ (by omega), Nat.div_div_eq_div_mul, ← Nat.pow_succ']

theorem natOfBytes_bytesOf (n x : Nat) : natOfBytes (bytesOf n x) = x % 256 ^ n := by
  induction n generalizing x with
  | zero => simp [bytesOf, natOfBytes, Nat.mod_one]
  | succ n ih => rw [bytesOf, natOfBytes, ih, Nat.pow_succ', Nat.mod_mul, BitVec.toNat_ofNat]

namespace State

theorem bytesAt_setBytes (s : State) (a : Nat) (bs : List Byte) : (s.setBytes a bs).bytesAt a bs.length = bs := by
  refine List.ext_getElem (by simp [bytesAt]) fun i _ hi => ?_
  simp [bytesAt, byteAt_setBytes, hi]

theorem numAt_setNum (s : State) (a n x : Nat) : (s.setNum a n x).numAt a n = x % 256 ^ n := by
  have h := bytesAt_setBytes s a (bytesOf n x)
  rw [length_bytesOf] at h
  rw [numAt, setNum, h, natOfBytes_bytesOf]

theorem byteAt_setNum (s : State) (a n x p : Nat) :
    (s.setNum a n x).byteAt p = if a ≤ p ∧ p < a + n then (bytesOf n x).getD (p - a) 0 else s.byteAt p := by
  rw [setNum, byteAt_setBytes, length_bytesOf]

end State

/-- Settles O27: the bytes of a number are read back one by one, and no byte outside them is written. -/
theorem memoryReadsBack : Obligations.MemoryReadsBack := by
  intro s a n x t
  refine ⟨s.numAt_setNum a n x, fun i hi => ?_, fun p hp => ?_, s.setBytes_eq a _, fun h => State.memOk_setNum h a n x⟩
  · rw [State.byteAt_setNum, if_pos (by omega), Nat.add_sub_cancel_left, getD_bytesOf x hi]
  · rw [State.byteAt_setNum, if_neg (by omega)]

end Sys2Proof.Machine

/-! SUPPORT. One rule for each operation of the model: from a state whose memory is in its canonical form it leaves memory in
that form. A rule's proof follows its operation: `.f h` where `f` is applied, `.ite` at a test, `.foldl` at a loop, `split` at
a match, and a fact about each state that a `let` names and that is used again. What touches memory itself is `setByte`,
`setBytes`, `setSome`, `wipeRange`, `wipeAll` and `viewFor`; every other operation changes other fields or is made of these. -/

namespace Sys2Proof.Machine

namespace State

/-! ### What the rules are about -/

/-- An outcome whose next state, if there is one, has memory in its canonical form. -/
def Kept : Host.Outcome State Fault Refusal → Prop
  | .next t => t.MemOk
  | _ => True

/-- A state that may be absent, with memory in its canonical form where there is one. -/
def SomeOk : Option State → Prop
  | some t => t.MemOk
  | none => True

/-- Two states, each with memory in its canonical form. -/
def BothOk (p : State × State) : Prop := p.1.MemOk ∧ p.2.MemOk

/-- The shared start of an instruction, whichever way it ends, leaves memory in its canonical form. -/
def EnterOk : Except State (State × Issue × Ctx) → Prop
  | .ok r => r.1.MemOk
  | .error t => t.MemOk

/-- The state in which a step's work begins has memory in its canonical form. -/
def WorkOk : Work → Prop
  | .halt => True
  | .run _ t | .done t => t.MemOk

/-- The answer of a return of units: where they are given back, memory is in its canonical form. -/
def ReturnOk : Return → Prop
  | .done t => t.MemOk
  | _ => True

variable {α β : Type} {s t : State}

theorem MemOk.ite {p : Prop} {_ : Decidable p} (hs : s.MemOk) (ht : t.MemOk) : (if p then s else t).MemOk := by
  split
  · exact hs
  · exact ht

theorem MemOk.iteFst {p : Prop} {_ : Decidable p} {q r : State × α} (hq : q.1.MemOk) (hr : r.1.MemOk) :
    (if p then q else r).1.MemOk := by
  split
  · exact hq
  · exact hr

theorem BothOk.ite {p : Prop} {_ : Decidable p} {q r : State × State} (hq : BothOk q) (hr : BothOk r) :
    BothOk (if p then q else r) := by
  split
  · exact hq
  · exact hr

theorem Kept.ite {p : Prop} {_ : Decidable p} {q r : Host.Outcome State Fault Refusal} (hq : Kept q) (hr : Kept r) :
    Kept (if p then q else r) := by
  split
  · exact hq
  · exact hr

theorem SomeOk.ite {p : Prop} {_ : Decidable p} {q r : Option State} (hq : SomeOk q) (hr : SomeOk r) :
    SomeOk (if p then q else r) := by
  split
  · exact hq
  · exact hr

theorem EnterOk.ite {p : Prop} {_ : Decidable p} {q r : Except State (State × Issue × Ctx)} (hq : EnterOk q)
    (hr : EnterOk r) : EnterOk (if p then q else r) := by
  split
  · exact hq
  · exact hr

theorem WorkOk.ite {p : Prop} {_ : Decidable p} {q r : Work} (hq : WorkOk q) (hr : WorkOk r) :
    WorkOk (if p then q else r) := by
  split
  · exact hq
  · exact hr

/-- A loop whose body keeps the canonical form keeps it. -/
theorem MemOk.foldl {f : State → α → State} {xs : List α} (h : s.MemOk) (hf : ∀ t x, t.MemOk → (f t x).MemOk) :
    (xs.foldl f s).MemOk := by
  induction xs generalizing s with
  | nil => exact h
  | cons x xs ih => exact ih (hf s x h)

theorem MemOk.foldlFst {f : State × β → α → State × β} {xs : List α} {q : State × β} (h : q.1.MemOk)
    (hf : ∀ r x, r.1.MemOk → (f r x).1.MemOk) : (xs.foldl f q).1.MemOk := by
  induction xs generalizing q with
  | nil => exact h
  | cons x xs ih => exact ih (hf q x h)

theorem MemOk.of_fst {q : State × α} {x : α} (h : q.1.MemOk) (e : q = (t, x)) : t.MemOk := by
  subst e; exact h

theorem SomeOk.of_some {q : Option State} (h : SomeOk q) (e : q = some t) : t.MemOk := by
  subst e; exact h

theorem SomeOk.getD {q : Option State} (hq : SomeOk q) (h : s.MemOk) : (q.getD s).MemOk := by
  cases q with
  | none => exact h
  | some t => exact hq

theorem SomeOk.map {q : Option State} {f : State → State} (hq : SomeOk q) (hf : ∀ t, t.MemOk → (f t).MemOk) :
    SomeOk (q.map f) := by
  cases q with
  | none => trivial
  | some t => exact hf t hq

theorem SomeOk.findSome? {f : α → Option State} {xs : List α} (hf : ∀ x, SomeOk (f x)) : SomeOk (xs.findSome? f) := by
  induction xs with
  | nil => trivial
  | cons x xs ih =>
    rw [List.findSome?_cons]
    split
    next e => exact (hf x).of_some e
    · exact ih

theorem SomeOk.foldlM {f : State → α → Option State} {xs : List α} (h : s.MemOk) (hf : ∀ t x, t.MemOk → SomeOk (f t x)) :
    SomeOk (xs.foldlM f s) := by
  induction xs generalizing s with
  | nil => exact h
  | cons x xs ih =>
    rw [List.foldlM_cons]
    cases e : f s x with
    | none => trivial
    | some t => exact ih ((hf s x h).of_some e)

theorem BothOk.foldl {f : State × State → α → State × State} {xs : List α} {q : State × State} (h : BothOk q)
    (hf : ∀ r x, BothOk r → BothOk (f r x)) : BothOk (xs.foldl f q) := by
  induction xs generalizing q with
  | nil => exact h
  | cons x xs ih => exact ih (hf q x h)

theorem ReturnOk.ite {p : Prop} {_ : Decidable p} {q r : Return} (hq : ReturnOk q) (hr : ReturnOk r) :
    ReturnOk (if p then q else r) := by
  split
  · exact hq
  · exact hr

theorem ReturnOk.of_done {q : Return} (h : ReturnOk q) (e : q = .done t) : t.MemOk := by
  subst e; exact h

/-! ### State -/

theorem MemOk.reset : State.reset.MemOk := memOk_reset

/-! ### Access -/

theorem MemOk.setCore {c : Nat} {k : Core} (h : s.MemOk) : (s.setCore c k).MemOk := h
theorem MemOk.modCore {c : Nat} {f : Core → Core} (h : s.MemOk) : (s.modCore c f).MemOk := .setCore h
theorem MemOk.setTenant {t : Nat} {k : Tenant} (h : s.MemOk) : (s.setTenant t k).MemOk := h
theorem MemOk.modTenant {t : Nat} {f : Tenant → Tenant} (h : s.MemOk) : (s.modTenant t f).MemOk := .setTenant h
theorem MemOk.setGroup {g : Nat} {k : Group} (h : s.MemOk) : (s.setGroup g k).MemOk := h
theorem MemOk.modGroup {g : Nat} {f : Group → Group} (h : s.MemOk) : (s.modGroup g f).MemOk := .setGroup h
theorem MemOk.onGroup {g : Nat} {f : Group → Group} (h : s.MemOk) : (s.onGroup g f).MemOk := .ite (.modGroup h) h
theorem MemOk.setBlock {b : Nat} {k : Block} (h : s.MemOk) : (s.setBlock b k).MemOk := h

theorem MemOk.modBlock {b : Nat} {f : Block → Block} (h : s.MemOk) : (s.modBlock b f).MemOk := by
  unfold State.modBlock
  split
  · exact h
  · exact .setBlock h

theorem MemOk.setEvent {e : Nat} {k : EvEntry} (h : s.MemOk) : (s.setEvent e k).MemOk := h
theorem MemOk.modEvent {e : Nat} {f : EvEntry → EvEntry} (h : s.MemOk) : (s.modEvent e f).MemOk := .setEvent h
theorem MemOk.setQueue {t q : Nat} {k : Queue} (h : s.MemOk) : (s.setQueue t q k).MemOk := .modTenant h
theorem MemOk.modQueue {t q : Nat} {f : Queue → Queue} (h : s.MemOk) : (s.modQueue t q f).MemOk := .setQueue h
theorem MemOk.setStripe {t i : Nat} {k : Stripe} (h : s.MemOk) : (s.setStripe t i k).MemOk := .modTenant h
theorem MemOk.modStripe {t i : Nat} {f : Stripe → Stripe} (h : s.MemOk) : (s.modStripe t i f).MemOk := .setStripe h
theorem MemOk.setPort {p : Nat} {k : Port} (h : s.MemOk) : (s.setPort p k).MemOk := h
theorem MemOk.modPort {p : Nat} {f : Port → Port} (h : s.MemOk) : (s.modPort p f).MemOk := .setPort h
theorem MemOk.modPkg {f : Package → Package} (h : s.MemOk) : (s.modPkg f).MemOk := h
theorem MemOk.modPwr {f : Power → Power} (h : s.MemOk) : (s.modPwr f).MemOk := h
theorem MemOk.modHost {f : HostSide → HostSide} (h : s.MemOk) : (s.modHost f).MemOk := h
theorem MemOk.modFab {f : Fabric → Fabric} (h : s.MemOk) : (s.modFab f).MemOk := h
theorem MemOk.modSvc {f : Services → Services} (h : s.MemOk) : (s.modSvc f).MemOk := h
theorem MemOk.modFq {t : Nat} {f : FaultQueue → FaultQueue} (h : s.MemOk) : (s.modFq t f).MemOk := .modTenant h
theorem MemOk.modSched {t : Nat} {f : Sched → Sched} (h : s.MemOk) : (s.modSched t f).MemOk := .modTenant h
theorem MemOk.modSor {t : Nat} {f : Sorrel → Sorrel} (h : s.MemOk) : (s.modSor t f).MemOk := .modTenant h
theorem MemOk.modDbg {t : Nat} {f : Debug → Debug} (h : s.MemOk) : (s.modDbg t f).MemOk := .modTenant h
theorem MemOk.modOps {g : Nat} {f : Ops → Ops} (h : s.MemOk) : (s.modOps g f).MemOk := .onGroup h
theorem MemOk.modRegs {g : Nat} {f : Regs → Regs} (h : s.MemOk) : (s.modRegs g f).MemOk := .onGroup h
theorem MemOk.modFlow {g : Nat} {f : Flow → Flow} (h : s.MemOk) : (s.modFlow g f).MemOk := .onGroup h
theorem MemOk.modIss {g : Nat} {f : Issuing → Issuing} (h : s.MemOk) : (s.modIss g f).MemOk := .onGroup h
theorem MemOk.tick (h : s.MemOk) : s.tick.1.MemOk := h
theorem MemOk.free (h : s.MemOk) : s.free.1.MemOk := h
theorem MemOk.setByte {a : Nat} {b : Byte} (h : s.MemOk) : (s.setByte a b).MemOk := memOk_setByte h a b
theorem MemOk.setBytes {a : Nat} {bs : List Byte} (h : s.MemOk) : (s.setBytes a bs).MemOk := memOk_setBytes h a bs

theorem MemOk.setSome {a : Nat} {bs : List (Option Byte)} (h : s.MemOk) : (s.setSome a bs).MemOk :=
  memOk_setSome h a bs

theorem MemOk.setNum {a n x : Nat} (h : s.MemOk) : (s.setNum a n x).MemOk := .setBytes h
theorem MemOk.wipeRange {lo hi : Nat} (h : s.MemOk) : (s.wipeRange lo hi).MemOk := memOk_wipeRange h lo hi
theorem MemOk.addPoison {a : Nat} (h : s.MemOk) : (s.addPoison a).MemOk := h
theorem MemOk.clearPoison {a : Nat} (h : s.MemOk) : (s.clearPoison a).MemOk := h

/-! ### Send -/

theorem MemOk.signal {fn vec : Nat} (h : s.MemOk) : (s.signal fn vec).MemOk := .ite h (.ite (.modHost h) (.modHost h))

theorem MemOk.level {cause fn vec : Nat} {now : Bool} (h : s.MemOk) : (s.level cause fn vec now).MemOk := by
  unfold State.level
  extract_lets +onlyGivenNames before s1
  have hs1 : s1.MemOk := .modHost h
  exact .ite (.signal hs1) hs1

theorem MemOk.takeTag {k : Tag} (h : s.MemOk) : (s.takeTag k).1.MemOk := .modFab h
theorem MemOk.retireTag {t : Nat} (h : s.MemOk) : (s.retireTag t).MemOk := .modFab h
theorem MemOk.dropTag {t : Nat} (h : s.MemOk) : (s.dropTag t).MemOk := .modFab h
theorem MemOk.toInbox {p : Packet} (h : s.MemOk) : (s.toInbox p).MemOk := .modFab h
theorem MemOk.setRx {k : StreamKey} {r : RxStream} (h : s.MemOk) : (s.setRx k r).MemOk := .modFab h

theorem MemOk.advanceRx {k : StreamKey} {fuel : Nat} (h : s.MemOk) : (s.advanceRx k fuel).MemOk := by
  induction fuel generalizing s with
  | zero => exact h
  | succ fuel ih =>
    rw [State.advanceRx]
    split
    · exact ih (.toInbox (.setRx h))
    · exact .ite (ih (.setRx h)) h

theorem MemOk.skipSeq {k : StreamKey} {seq : Nat} (h : s.MemOk) : (s.skipSeq k seq).MemOk :=
  .ite h (.advanceRx (.setRx h))

theorem MemOk.sendOn {port : Nat} {p : Packet} {hop : Bool} (h : s.MemOk) : (s.sendOn port p hop).MemOk := .modFab h
theorem MemOk.charge {vcn units : Nat} (h : s.MemOk) : (s.charge vcn units).MemOk := .modFab h

theorem MemOk.sendNoticeBy {cleared : Bool} {p : Packet} (h : s.MemOk) : (State.sendNoticeBy cleared s p).MemOk := by
  unfold State.sendNoticeBy
  split
  · exact h
  · extract_lets +onlyGivenNames wait
    have hwait : ∀ s, s.MemOk → (wait s).MemOk := fun _ h1 => .modFab h1
    split
    · exact .toInbox h
    · exact h
    · exact .ite (hwait _ h) (.sendOn (.charge h))

theorem MemOk.sendNotice {p : Packet} (h : s.MemOk) : (s.sendNotice p).MemOk := .sendNoticeBy h

theorem MemOk.abandonSeq {cleared : Bool} {p : Packet} (h : s.MemOk) : (State.abandonSeq cleared s p).MemOk :=
  .ite h (.ite (.skipSeq h) (.sendNoticeBy h))

theorem MemOk.endPacketBy {cleared : Bool} {p : Packet} {code : BitVec 4} (h : s.MemOk) :
    (State.endPacketBy cleared s p code).MemOk := by
  unfold State.endPacketBy
  extract_lets +onlyGivenNames copies s1
  have hs1 : s1.MemOk := by
    unfold s1
    refine .foldl h (fun _ _ h1 => ?_)
    extract_lets +onlyGivenNames s2
    have hs2 : s2.MemOk := .sendNoticeBy h1
    exact .ite hs2 (.abandonSeq hs2)
  exact .abandonSeq (.ite (.sendNoticeBy hs1) hs1)

theorem MemOk.endPacket {p : Packet} {code : BitVec 4} (h : s.MemOk) : (s.endPacket p code).MemOk := .endPacketBy h

theorem SomeOk.place {p : Packet} (h : s.MemOk) : SomeOk (s.place p) := by
  unfold State.place
  split
  · exact .toInbox h
  · exact .endPacket h
  · exact .ite (.sendOn h) trivial

theorem MemOk.leave {p : Packet} (h : s.MemOk) : (s.leave p).MemOk := by
  unfold State.leave
  extract_lets +onlyGivenNames k first r c p1 sent s1 s2
  have hs2 : s2.MemOk := .charge (.modFab h)
  exact SomeOk.getD (.place hs2) hs2

theorem MemOk.inject {p : Packet} (h : s.MemOk) : (s.inject p).MemOk :=
  .ite (.toInbox h) (.ite (.modFab h) (.leave h))

theorem MemOk.release {fuel : Nat} {ps : List Packet} (h : s.MemOk) : (State.release fuel ps s).MemOk := by
  induction fuel generalizing s ps with
  | zero => exact h
  | succ fuel ih =>
    cases ps with
    | nil => exact h
    | cons p rest =>
      rw [State.release]
      split
      · exact ih (.endPacket h)
      · exact .ite (ih (.modFab h)) (ih (.leave h))

theorem MemOk.releaseAll (h : s.MemOk) : s.releaseAll.MemOk := .release (.modFab h)

theorem MemOk.failLocal {typ vcn tag addr : Nat} {code : BitVec 4} (h : s.MemOk) :
    (s.failLocal typ vcn tag addr code).MemOk :=
  .toInbox h

theorem MemOk.request {typ cls vcn dst tag addr : Nat} {payload : List Byte} (h : s.MemOk) :
    (s.request typ cls vcn dst tag addr payload).MemOk :=
  .ite (.modFab h) (.ite (.failLocal h) (.ite (.ite (.failLocal h) (.toInbox h))
    (.ite (.failLocal h) (.ite (.failLocal h) (.inject h)))))

theorem MemOk.requestOff {typ vcn pod ddev tag addr : Nat} {payload : List Byte} (h : s.MemOk) :
    (s.requestOff typ vcn pod ddev tag addr payload).MemOk := by
  unfold State.requestOff
  refine .ite (.modFab h) ?_
  refine .ite (.failLocal h) ?_
  split
  · exact .failLocal h
  · exact .inject h

theorem MemOk.reissue {u : Untagged} {tag : Nat} (h : s.MemOk) : (s.reissue u tag).MemOk := by
  unfold State.reissue
  split
  · exact .request h
  · exact .requestOff h

theorem MemOk.giveTag {u : Untagged} {k : Tag} (h : s.MemOk) : (s.giveTag u k).MemOk := .reissue h

theorem MemOk.giveTags {fuel : Nat} (h : s.MemOk) : (s.giveTags fuel).MemOk := by
  induction fuel generalizing s with
  | zero => exact h
  | succ fuel ih =>
    rw [State.giveTags]
    split
    · exact h
    · split
      · exact ih (.modFab h)
      · exact .ite (ih (.reissue (.modFab h))) (.ite h (ih (.giveTag h)))

theorem MemOk.respond {p : Packet} {typ : Nat} {payload : List Byte} (h : s.MemOk) :
    (s.respond p typ payload).MemOk := by
  unfold State.respond
  extract_lets +onlyGivenNames cls
  split
  · exact .inject h
  · split
    · exact h
    · exact .inject h

theorem MemOk.refuse {p : Packet} {code : BitVec 4} (h : s.MemOk) : (s.refuse p code).MemOk := .sendNotice h

/-! ### Jobs -/

theorem MemOk.owe {t : Nat} {r : Record} (h : s.MemOk) : (s.owe t r).MemOk := .modFq h
theorem MemOk.lostDec {t n : Nat} (h : s.MemOk) : (s.lostDec t n).MemOk := .modSched h
theorem MemOk.enterPool {e : Nat} (h : s.MemOk) : (s.enterPool e).MemOk := .ite h h
theorem MemOk.makeReady {e : Nat} (h : s.MemOk) : (s.makeReady e).MemOk := .enterPool (.setEvent h)

theorem MemOk.refillPool {t : Nat} (h : s.MemOk) : (s.refillPool t).MemOk := by
  unfold State.refillPool
  split
  · exact h
  · exact .ite h h

theorem MemOk.leavePool {e : Nat} (h : s.MemOk) : (s.leavePool e).MemOk := .refillPool h

theorem MemOk.decJob {e : Nat} (h : s.MemOk) : (s.decJob e).MemOk :=
  .ite (.ite (.makeReady (.setEvent h)) (.setEvent h)) h

theorem MemOk.sendSignal {vcn : Nat} {peer : BitVec 12} {name : Word} {lost : Bool} (h : s.MemOk) :
    (s.sendSignal vcn peer name lost).MemOk :=
  .inject (.ite (.modSvc h) h)

theorem MemOk.sendEvsig {flag : Nat} {peer : BitVec 12} {lost : Bool} (h : s.MemOk) :
    (s.sendEvsig flag peer lost).MemOk :=
  .sendSignal h

theorem MemOk.fire {i : Nat} (h : s.MemOk) : (s.fire i).MemOk :=
  .foldl (.foldl (.setEvent h) fun _ _ h1 => .decJob h1) fun _ _ h2 => .sendEvsig h2

theorem MemOk.decFlag {i n : Nat} (h : s.MemOk) : (s.decFlag i n).MemOk :=
  .ite h (.ite (.ite (.setEvent h) (.fire (.lostDec h))) (.lostDec h))

theorem MemOk.armFlag {i n : Nat} (h : s.MemOk) : (s.armFlag i n).MemOk := .ite (.fire h) (.setEvent h)

theorem MemOk.loseSub {t : Nat} {name : Word} (h : s.MemOk) : (s.loseSub t name).MemOk := by
  unfold State.loseSub
  split
  · exact h
  · exact .ite h (.owe h)

theorem MemOk.sendEvsub {t : Nat} {name : Word} (h : s.MemOk) : (s.sendEvsub t name).MemOk := .request h

theorem MemOk.subscribe {t : Nat} {name : Word} {e : Nat} (h : s.MemOk) : (s.subscribe t name e).MemOk := by
  unfold State.subscribe
  split
  · exact h
  · exact .sendEvsub h

theorem MemOk.killJob {e : Nat} {program : Bool} (h : s.MemOk) : (s.killJob e program).MemOk :=
  .ite (.ite (.makeReady (.setEvent h)) (.setEvent h)) h

theorem MemOk.noteRoles {t : Nat} (h : s.MemOk) : (s.noteRoles t).MemOk := .foldl h fun _ _ h1 => .modCore h1

/-! ### Translate -/

theorem MemOk.chargeUnits {t n : Nat} (h : s.MemOk) : (s.chargeUnits t n).MemOk := .ite h (.modFab h)
theorem MemOk.tlbFill {c : Nat} {e : Tlb} (h : s.MemOk) : (s.tlbFill c e).MemOk := h
theorem MemOk.tlbDrop {c t va : Nat} (h : s.MemOk) : (s.tlbDrop c t va).MemOk := h

theorem MemOk.leafFor {c t va : Nat} {w : Want} (h : s.MemOk) : (s.leafFor c t va w).1.MemOk := by
  unfold State.leafFor
  split
  · extract_lets +onlyGivenNames stop
    refine .iteFst h ?_
    split
    · exact h
    · exact .tlbDrop h
  · extract_lets +onlyGivenNames s1
    have hs1 : s1.MemOk := .chargeUnits h
    split
    · exact hs1
    · extract_lets +onlyGivenNames stop1
      refine .iteFst hs1 ?_
      split
      · exact .tlbFill hs1
      · exact hs1

theorem MemOk.pageCheck {w : Who} {a n : Nat} {want : Want} {guard : Bool} (h : s.MemOk) :
    (s.pageCheck w a n want guard).1.MemOk := by
  unfold State.pageCheck
  extract_lets +onlyGivenNames r
  have hr : r.1.MemOk := .leafFor h
  split
  · exact hr
  · extract_lets +onlyGivenNames l
    refine .iteFst hr ?_
    refine .iteFst ?_ hr
    split
    · exact hr
    · exact hr

theorem MemOk.access {w : Who} {a n : Nat} {aligned : Bool} {want : Want} (h : s.MemOk) :
    (s.access w a n aligned want).1.MemOk := by
  unfold State.access
  split
  · exact h
  · refine .iteFst h ?_
    refine .iteFst (.iteFst h h) ?_
    extract_lets +onlyGivenNames n1 r1
    have hr1 : r1.1.MemOk := .pageCheck h
    refine .iteFst hr1 ?_
    extract_lets +onlyGivenNames r2
    have hr2 : r2.1.MemOk := .pageCheck hr1
    split
    · exact hr2
    · exact hr2
    · exact hr2
    · exact hr2

theorem MemOk.rangePages {w : Who} {want : Want} {fuel a n : Nat} (h : s.MemOk) :
    (s.rangePages w want fuel a n).1.MemOk := by
  induction fuel generalizing s a n with
  | zero => exact h
  | succ fuel ih =>
    rw [State.rangePages]
    exact .iteFst h (ih (.iteFst (.pageCheck h) h))

theorem MemOk.lineLoc {w : Who} {a : Nat} (h : s.MemOk) : (s.lineLoc w a).1.MemOk := by
  unfold State.lineLoc
  split
  · exact h
  · refine .iteFst h ?_
    extract_lets +onlyGivenNames r
    have hr : r.1.MemOk := .leafFor h
    split
    · exact hr
    · exact hr

/-! ### Records -/

theorem MemOk.storeRecord {t p : Nat} {r : Record} (h : s.MemOk) : (s.storeRecord t p r).MemOk :=
  .signal (.modFq (.setBytes (.chargeUnits h)))

/-! ### Memory -/

theorem MemOk.freeBytes {n : Nat} (h : s.MemOk) : (State.freeBytes n s).1.MemOk := by
  induction n generalizing s with
  | zero => exact h
  | succ n ih => exact ih (.free h)

theorem MemOk.homeLine {t line : Nat} (h : s.MemOk) : (s.homeLine t line).1.MemOk := .iteFst h (.freeBytes h)

theorem MemOk.rekey {t line : Nat} (h : s.MemOk) : (s.rekey t line).MemOk :=
  .ite (.ite h (.setBytes (.freeBytes h))) h

theorem MemOk.homeWrite {t a : Nat} {bs : List (Option Byte)} (h : s.MemOk) : (s.homeWrite t a bs).MemOk := by
  unfold State.homeWrite
  extract_lets +onlyGivenNames s1
  have hs1 : s1.MemOk := .setSome (.rekey h)
  exact .ite (.clearPoison hs1) hs1

theorem MemOk.putUnit {a : Nat} {bs : List Byte} (h : s.MemOk) : (s.putUnit a bs).MemOk := by
  unfold State.putUnit
  extract_lets +onlyGivenNames s1
  have hs1 : s1.MemOk := .setBytes h
  exact .ite (.clearPoison hs1) hs1

theorem MemOk.engineByte {g t p : Nat} (h : s.MemOk) : (s.engineByte g t p).1.MemOk := by
  unfold State.engineByte
  split
  · exact h
  · exact .iteFst h (.iteFst h (.freeBytes h))

theorem MemOk.engineBytes {g t p n : Nat} (h : s.MemOk) : (s.engineBytes g t p n).1.MemOk := by
  induction n generalizing s p with
  | zero => exact h
  | succ n ih => exact ih (.engineByte h)

theorem MemOk.coverParity {g t i row : Nat} (h : s.MemOk) : (s.coverParity g t i row).MemOk := .modOps h

theorem MemOk.guardedStore {t i row a : Nat} {bs : List (Option Byte)} {gid : Nat} {reply : Option (Packet × Nat)}
    (h : s.MemOk) : (s.guardedStore t i row a bs gid reply).MemOk := by
  unfold State.guardedStore
  extract_lets +onlyGivenNames line k
  refine .ite (.modOps h) ?_
  extract_lets +onlyGivenNames old s1 new holder r s2
  have hs2 : s2.MemOk := .request (.takeTag (.homeWrite h))
  exact .ite hs2 (.coverParity (.modOps hs2))

theorem MemOk.coverRow {g a : Nat} (h : s.MemOk) : (s.coverRow g a).MemOk := by
  unfold State.coverRow
  extract_lets +onlyGivenNames t
  split
  · exact .coverParity h
  · exact h

theorem MemOk.dropLine {c line : Nat} (h : s.MemOk) : (s.dropLine c line).MemOk := .modCore h

theorem MemOk.readSeg {c : Nat} {k : Copy} {seg : CopySeg} (h : s.MemOk) : (s.readSeg c k seg).1.MemOk := by
  unfold State.readSeg
  split
  · exact h
  · exact .engineBytes h

theorem MemOk.latchSources {c id : Nat} {lines : List Nat} (h : s.MemOk) : (s.latchSources c id lines).MemOk := by
  unfold State.latchSources
  split
  · exact h
  · exact .modCore (.foldlFst h fun _ _ h1 => .iteFst (.readSeg h1) h1)

theorem MemOk.writeSeg {c : Nat} {k : Copy} {seg : CopySeg} (h : s.MemOk) : (s.writeSeg c k seg).MemOk := by
  unfold State.writeSeg
  extract_lets +onlyGivenNames t r bs s1 s2
  have hr : r.1.MemOk := .readSeg h
  have hs1 : s1.MemOk := by
    unfold s1
    split
    · exact .guardedStore hr
    · exact .homeWrite hr
  have hs2 : s2.MemOk := .ite (.addPoison hs1) hs1
  exact .ite (.dropLine hs2) hs2

theorem MemOk.barCheck {p : Nat} (h : s.MemOk) : (s.barCheck p).MemOk := .ite (.setNum (.setNum h)) h
theorem MemOk.barAdd {p : Nat} {d : Int} (h : s.MemOk) : (s.barAdd p d).MemOk := .barCheck (.setNum h)
theorem MemOk.barBytes {p n : Nat} (h : s.MemOk) : (s.barBytes p n).MemOk := .ite (.barAdd (.barAdd h)) (.barAdd h)

theorem MemOk.writeLineBy {fetch : State → Nat → State} {c id line : Nat}
    (hfetch : ∀ t a, t.MemOk → (fetch t a).MemOk) (h : s.MemOk) : (State.writeLineBy fetch s c id line).MemOk := by
  unfold State.writeLineBy
  split
  · exact h
  · extract_lets +onlyGivenNames ls s1 s2
    have hs2 : s2.MemOk := .latchSources (.foldl h fun _ _ h1 => hfetch _ _ h1)
    split
    · exact hs2
    · extract_lets +onlyGivenNames now s3 s4 s5
      have hs3 : s3.MemOk := .foldl hs2 fun _ _ h2 => .writeSeg h2
      have hs5 : s5.MemOk := .ite hs3 (.modCore hs3)
      split
      · exact .barBytes hs5
      · exact hs5

theorem MemOk.recallBy {fuel line : Nat} (h : s.MemOk) : (State.recallBy fuel s line).MemOk := by
  induction fuel generalizing s line with
  | zero => exact h
  | succ fuel ih =>
    rw [State.recallBy]
    exact .ite (.foldl h fun _ _ h1 => .foldl h1 fun _ _ h2 => .ite (.writeLineBy (fun _ _ h3 => ih h3) h2) h2) h

theorem MemOk.recallLine {line : Nat} (h : s.MemOk) : (s.recallLine line).MemOk := .recallBy h

theorem MemOk.writeLine {c id line : Nat} (h : s.MemOk) : (s.writeLine c id line).MemOk :=
  .writeLineBy (fun _ _ h1 => .recallBy h1) h

theorem MemOk.writeWord {c id w : Nat} (h : s.MemOk) : (s.writeWord c id w).MemOk := by
  unfold State.writeWord
  split
  · exact h
  · extract_lets +onlyGivenNames ls s1 s2
    have hs2 : s2.MemOk := .latchSources (.foldl h fun _ _ h1 => .recallLine h1)
    split
    · exact hs2
    · extract_lets +onlyGivenNames cuts now rest s3 s4
      have hs4 : s4.MemOk := .modCore (.foldl hs2 fun _ _ h2 => .writeSeg h2)
      split
      · exact .barBytes hs4
      · exact hs4

theorem MemOk.raceWord {w : Nat} (h : s.MemOk) : (s.raceWord w).MemOk := by
  unfold State.raceWord
  refine .foldl h (fun _ _ h1 => ?_)
  extract_lets +onlyGivenNames r
  have hr : r.1.MemOk := .free h1
  exact .ite (.writeWord hr) hr

theorem MemOk.raceAt {places : List Nat} (h : s.MemOk) : (s.raceAt places).MemOk :=
  .ite h (.foldl h fun _ _ h1 => .raceWord h1)

theorem MemOk.raceSlot {core slot : Nat} (h : s.MemOk) : (s.raceSlot core slot).MemOk :=
  .foldl h fun _ _ h1 => .raceWord h1

theorem MemOk.noteSlot {key place len gid : Nat} {op : Option Nat} (h : s.MemOk) :
    (s.noteSlot key place len gid op).MemOk :=
  .modBlock h

theorem MemOk.noteWrite {g place len : Nat} (h : s.MemOk) : (s.noteWrite g place len).MemOk := by
  unfold State.noteWrite
  split
  · exact h
  · exact .ite (.noteSlot h) h

theorem MemOk.noteEngine {core slot op place len : Nat} (h : s.MemOk) :
    (s.noteEngine core slot op place len).MemOk := by
  unfold State.noteEngine
  split
  · exact h
  · exact .noteSlot h

theorem MemOk.forgetOp {op : Nat} (h : s.MemOk) : (s.forgetOp op).MemOk := h
theorem MemOk.meetSlots {g : Nat} (h : s.MemOk) : (s.meetSlots g).MemOk := .modBlock h

theorem BothOk.viewBy {g : Nat} {inside : Nat → Bool} {es : List SlotWrite} {own : List (Nat × Nat)} {r : State × State}
    (h : BothOk r) : BothOk (State.viewBy g inside es own r) := by
  induction es generalizing own r with
  | nil => exact h
  | cons e es ih =>
    rw [State.viewBy]
    refine .ite (ih h) (ih (.foldl h fun _ _ h1 => ?_))
    exact .ite ⟨.free h1.1, .ite (.setBytes h1.2) h1.2⟩ h1

theorem BothOk.viewFor {g : Nat} {inside : Nat → Bool} (h : s.MemOk) : BothOk (s.viewFor g inside) := by
  unfold State.viewFor
  split
  · exact ⟨h, h⟩
  · refine .ite ⟨h, h⟩ ?_
    extract_lets +onlyGivenNames r
    have hr : BothOk r := BothOk.viewBy ⟨h, h⟩
    exact ⟨hr.1, hr.2⟩

theorem BothOk.slotView {g core slot : Nat} (h : s.MemOk) : BothOk (s.slotView g core slot) :=
  BothOk.viewFor (.raceSlot h)

theorem MemOk.writeBack {c line : Nat} (h : s.MemOk) : (s.writeBack c line).MemOk := by
  unfold State.writeBack
  split
  · exact h
  · refine .ite h ?_
    extract_lets +onlyGivenNames t s1 s2
    have hs1 : s1.MemOk := .recallLine h
    have hs2 : s2.MemOk := by
      unfold s2
      split
      · exact .guardedStore hs1
      · exact .homeWrite hs1
    exact .modCore (.ite (.addPoison hs2) hs2)

theorem MemOk.drainFifo {c : Nat} (h : s.MemOk) : (s.drainFifo c).MemOk := .foldl h fun _ _ h1 => .writeBack h1
theorem MemOk.invalidate {c : Nat} (h : s.MemOk) : (s.invalidate c).MemOk := .modCore h
theorem MemOk.fill {c t line : Nat} (h : s.MemOk) : (s.fill c t line).MemOk := .modCore (.homeLine (.recallLine h))

theorem MemOk.updateCopy {c a : Nat} {bs : List Byte} (h : s.MemOk) : (s.updateCopy c a bs).MemOk := by
  unfold State.updateCopy
  split
  · exact h
  · exact .modCore h

theorem MemOk.writeL1 {c t a : Nat} {bs : List Byte} (h : s.MemOk) : (s.writeL1 c t a bs).MemOk := by
  unfold State.writeL1
  extract_lets +onlyGivenNames line s1 l s2
  have hs1 : s1.MemOk := .ite (.fill h) h
  have hs2 : s2.MemOk := by
    unfold s2
    refine .ite ?_ hs1
    split
    · exact hs1
    · exact .writeBack hs1
  exact .modCore (.ite (.modCore hs2) hs1)

theorem MemOk.performHome {t a : Nat} {bs : List Byte} {gid : Nat} (h : s.MemOk) :
    (s.performHome t a bs gid).MemOk := by
  unfold State.performHome
  extract_lets +onlyGivenNames s1
  have hs1 : s1.MemOk := .recallLine h
  split
  · exact .guardedStore hs1
  · exact .homeWrite hs1

theorem MemOk.performStore {c : Nat} {e : BufStore} (h : s.MemOk) : (s.performStore c e).MemOk :=
  .ite (.updateCopy (.performHome h)) (.writeL1 h)

theorem MemOk.drainChosen {c : Nat} {xs : List (BufStore × Bool)} (h : s.MemOk) : (s.drainChosen c xs).MemOk :=
  .foldl (.modCore h) fun _ _ h1 => .performStore h1

theorem MemOk.drainWhere {c : Nat} {p : BufStore → Bool} (h : s.MemOk) : (s.drainWhere c p).MemOk := .drainChosen h
theorem MemOk.drainGroup {g : Nat} (h : s.MemOk) : (s.drainGroup g).MemOk := .drainWhere h
theorem MemOk.drainLine {g line : Nat} (h : s.MemOk) : (s.drainLine g line).MemOk := .drainWhere h

theorem MemOk.drainNth {c k : Nat} (h : s.MemOk) : (s.drainNth c k).MemOk := by
  unfold State.drainNth
  split
  · exact h
  · exact .drainChosen h

theorem MemOk.drainStrict {g : Nat} {strict : Bool} (h : s.MemOk) : (s.drainStrict g strict).MemOk :=
  .ite (.drainWhere h) h

theorem MemOk.drainPushes {g queue : Nat} (h : s.MemOk) : (s.drainPushes g queue).MemOk := .ite h (.drainWhere h)

theorem MemOk.storeRun {g : Nat} {l : Loc} {bs : List Byte} {wide : Bool} {queue : Nat} (h : s.MemOk) :
    (s.storeRun g l bs wide queue).MemOk := by
  unfold State.storeRun
  extract_lets +onlyGivenNames c t s1
  have hs1 : s1.MemOk := by
    unfold s1
    split
    · exact .raceAt h
    · exact .raceAt h
    · exact h
  split
  · exact .putUnit (.drainPushes hs1)
  · exact .putUnit (.drainPushes hs1)
  · exact .ite (.updateCopy (.performHome (.writeBack (.drainPushes (.drainStrict (.drainLine hs1)))))) (.modCore hs1)

theorem MemOk.settleLine {g line : Nat} (h : s.MemOk) : (s.settleLine g line).MemOk :=
  .recallLine (.writeBack (.drainLine h))

theorem MemOk.fetchFor {g : Nat} {ls : List Loc} {wide : Bool} (h : s.MemOk) : (s.fetchFor g ls wide).MemOk := by
  unfold State.fetchFor
  extract_lets +onlyGivenNames c t s1 s2
  have hs2 : s2.MemOk := .foldl (.raceAt h) fun _ _ h1 => .recallLine (.ite (.drainLine h1) h1)
  exact .foldl hs2 fun _ _ h2 => .ite (.fill (.dropLine (.settleLine h2))) (.ite h2 (.fill h2))

theorem MemOk.shedCache {g : Nat} {ls : List Loc} (h : s.MemOk) : (s.shedCache g ls).MemOk :=
  .ite h (.foldl h fun _ _ h1 => .dropLine (.writeBack h1))

theorem MemOk.loadBytes {g : Nat} {ls : List Loc} {wide : Bool} (h : s.MemOk) : (s.loadBytes g ls wide).1.MemOk :=
  .shedCache (.fetchFor h)

theorem MemOk.atomicRead {g : Nat} {ls : List Loc} {wide : Bool} (h : s.MemOk) : (s.atomicRead g ls wide).1.MemOk :=
  .loadBytes (.drainStrict (.foldl h fun _ _ h1 => .drainLine h1))

theorem MemOk.atomicWrite {g : Nat} {ls : List Loc} {bs : List Byte} {wide : Bool} (h : s.MemOk) :
    (s.atomicWrite g ls bs wide).MemOk :=
  .foldl h fun _ _ h1 => .ite (.putUnit h1) (.ite (.updateCopy (.performHome h1)) (.writeL1 h1))

theorem MemOk.releaseLocal {g : Nat} {sc : Scope} (h : s.MemOk) : (s.releaseLocal g sc).MemOk := by
  unfold State.releaseLocal
  split
  · exact h
  · exact h
  · exact .drainGroup h
  · exact .ite (.drainFifo (.drainGroup h)) (.drainGroup h)
  · exact .drainFifo (.drainGroup h)

theorem MemOk.acquire {g : Nat} {sc : Scope} (h : s.MemOk) : (s.acquire g sc).MemOk := .ite (.invalidate h) h
theorem MemOk.chargeHost {t n : Nat} (h : s.MemOk) : (s.chargeHost t n).MemOk := .chargeUnits h

/-! ### Sage -/

theorem MemOk.shedL1 {c : Nat} (h : s.MemOk) : (s.shedL1 c).MemOk := .foldl h fun _ _ h1 => .dropLine (.writeBack h1)

theorem MemOk.giveSpad {key n : Nat} (h : s.MemOk) : (s.giveSpad key n).MemOk := by
  unfold State.giveSpad
  split
  · exact h
  · exact .setBlock (.foldl (.ite (.shedL1 h) h) fun _ _ h1 => .wipeRange h1)

theorem MemOk.zeroTile {c q : Nat} (h : s.MemOk) : (s.zeroTile c q).MemOk := .wipeRange h
theorem MemOk.zeroAcc {c q : Nat} (h : s.MemOk) : (s.zeroAcc c q).MemOk := .wipeRange h

theorem MemOk.giveTiles {key n : Nat} (h : s.MemOk) : (s.giveTiles key n).MemOk := by
  unfold State.giveTiles
  split
  · exact h
  · exact .setBlock (.foldl h fun _ _ h1 => .zeroTile h1)

theorem MemOk.giveAccs {key n : Nat} (h : s.MemOk) : (s.giveAccs key n).1.MemOk := by
  unfold State.giveAccs
  split
  · exact h
  · exact .setBlock (.foldl h fun _ _ h1 => .zeroAcc h1)

theorem MemOk.giveUnits {g : Nat} {cls : ResClass} {n first : Nat} (h : s.MemOk) :
    (s.giveUnits g cls n first).MemOk := by
  unfold State.giveUnits
  extract_lets +onlyGivenNames key
  split
  · exact .onGroup h
  · exact .giveSpad h
  · exact .giveTiles h
  · exact .foldl (.giveAccs h) fun _ _ h1 => .modRegs h1

/-! ### Ops -/

theorem MemOk.writeNow {g : Nat} {o : Opnd} {n : Nat} {lanes : Lanes} {f : Nat → Nat} (h : s.MemOk) :
    (s.writeNow g o n lanes f).MemOk := by
  unfold State.writeNow
  split
  · exact h
  · exact .onGroup h

theorem MemOk.pushPend {g : Nat} {p : Pend} (h : s.MemOk) : (s.pushPend g p).MemOk := .modOps h

theorem MemOk.addPend {g : Nat} {kind : Machine.Kind} {o : Opnd} {n sx : Nat} {lanes missing : Lanes} {f : Nat → Nat}
    (h : s.MemOk) : (s.addPend g kind o n sx lanes missing f).1.MemOk := by
  unfold State.addPend
  split
  · exact h
  · extract_lets +onlyGivenNames r vals twin p s1
    have hs1 : s1.MemOk := .pushPend (.tick h)
    clear_value twin
    split
    · exact hs1
    · exact .pushPend hs1

theorem MemOk.modPend {g id : Nat} {f : Pend → Pend} (h : s.MemOk) : (s.modPend g id f).MemOk := by
  unfold State.modPend
  extract_lets +onlyGivenNames upd twin s1
  have hs1 : s1.MemOk := .modOps h
  clear_value twin
  split
  · exact .modOps hs1
  · exact hs1

theorem MemOk.fillPend {g id : Nat} {lanes : Lanes} {f : Nat → Nat} (h : s.MemOk) : (s.fillPend g id lanes f).MemOk :=
  .modPend h

theorem MemOk.orPend {g id lane k : Nat} {b : Byte} (h : s.MemOk) : (s.orPend g id lane k b).MemOk := .modPend h
theorem MemOk.closePend {g id : Nat} {lanes : Lanes} (h : s.MemOk) : (s.closePend g id lanes).MemOk := .modPend h

theorem MemOk.writePend {g id : Nat} {lanes : Lanes} (h : s.MemOk) : (s.writePend g id lanes).MemOk := by
  unfold State.writePend
  split
  · exact h
  · exact .onGroup h

theorem MemOk.flushPend {g : Nat} (h : s.MemOk) : (s.flushPend g).MemOk := .foldl h fun _ _ h1 => .writePend h1
theorem MemOk.dropDone {g : Nat} (h : s.MemOk) : (s.dropDone g).MemOk := .modOps h

theorem MemOk.oweGroup {g : Nat} {t : State.Trap} {parks remote : Bool} (h : s.MemOk) :
    (s.oweGroup g t parks remote).MemOk :=
  .ite (.owe h) h

theorem MemOk.unissue {g : Nat} (h : s.MemOk) : (s.unissue g).MemOk := h
theorem MemOk.forgetRecords {g : Nat} (h : s.MemOk) : (s.forgetRecords g).MemOk := .modFq h
theorem MemOk.killGroup {g : Nat} (h : s.MemOk) : (s.killGroup g).MemOk := .unissue (.forgetRecords (.onGroup h))

theorem MemOk.killParts {job : Nat} (h : s.MemOk) : (s.killParts job).MemOk := by
  unfold State.killParts
  extract_lets +onlyGivenNames mine s1
  have hs1 : s1.MemOk := .foldl h fun _ _ h1 => .foldl h1 fun _ _ h2 => .killGroup h2
  exact .modSvc (.foldl hs1 fun _ _ h3 => .modBlock h3)

theorem MemOk.killCohort {job : Nat} {program : Bool} (h : s.MemOk) : (s.killCohort job program).MemOk :=
  .killJob (.killParts h)

theorem MemOk.endResident {g : Nat} (h : s.MemOk) : (s.endResident g).MemOk := .unissue (.forgetRecords (.onGroup h))

theorem MemOk.recordNow {g : Nat} {t : State.Trap} (h : s.MemOk) : (s.recordNow g t).MemOk := by
  unfold State.recordNow
  extract_lets +onlyGivenNames k r
  refine .ite h ?_
  split
  · exact .storeRecord h
  · exact .owe h

theorem MemOk.endCohort {g : Nat} {cause : BitVec 8} (h : s.MemOk) : (s.endCohort g cause).MemOk := by
  unfold State.endCohort
  split
  · exact .killCohort h
  · exact .endResident h

theorem MemOk.disown {g n : Nat} (h : s.MemOk) : (s.disown g n).MemOk := .ite (.modFq h) h

theorem MemOk.retract {g : Nat} (h : s.MemOk) : (s.retract g).MemOk := by
  unfold State.retract
  split
  · exact h
  · split
    · exact h
    · exact .modOps (.disown h)

theorem MemOk.raiseFrom {s0 : State} {g : Nat} {t : State.Trap} {remote : Bool} (h : s0.MemOk) :
    (s0.raiseFrom g t remote).MemOk := by
  unfold State.raiseFrom
  extract_lets +onlyGivenNames s1 k r
  have hs1 : s1.MemOk := .retract h
  refine .ite (.endCohort hs1) ?_
  split
  · exact .endCohort (.storeRecord hs1)
  · exact .unissue (.onGroup (.owe hs1))

theorem MemOk.raise {g : Nat} {t : State.Trap} (h : s.MemOk) : (s.raise g t).MemOk := .raiseFrom h

theorem MemOk.trapNow {g : Nat} {cause : BitVec 8} {lanes : Lanes} {clause idx : Nat} (h : s.MemOk) :
    (s.trapNow g cause lanes clause idx).MemOk :=
  .ite h (.raise h)

theorem MemOk.oweLanes {g clause idx : Nat} {left : Lanes} {es : List LaneErr} {remote : Bool} (h : s.MemOk) :
    (s.oweLanes g clause idx left es remote).1.MemOk := by
  unfold State.oweLanes
  extract_lets +onlyGivenNames es1
  refine .foldlFst h (fun _ _ h1 => ?_)
  extract_lets +onlyGivenNames mine
  clear_value mine
  split
  · exact h1
  · exact .oweGroup h1

theorem MemOk.parkLanes {c : Issue} {i : Instr} {ops : Map Nat} {pend : Nat} {left : Lanes} {es : List LaneErr}
    (h : s.MemOk) : (s.parkLanes c i ops pend left es).MemOk := by
  unfold State.parkLanes
  extract_lets +onlyGivenNames g
  split
  · exact .modOps (.oweLanes (.disown h))
  · exact .modOps (.tick (.oweLanes h))

theorem MemOk.modCaught {g : Nat} {f : Capture → Capture} (h : s.MemOk) : (s.modCaught g f).MemOk := by
  unfold State.modCaught
  split
  · exact h
  · exact .modOps h

theorem MemOk.parkWhole {c : Issue} {i : Instr} {ops : Map Nat} {left : Lanes} {es : List LaneErr} (h : s.MemOk) :
    (s.parkWhole c i ops left es).MemOk :=
  .modCaught (.parkLanes h)

theorem MemOk.dropCapture {g id : Nat} (h : s.MemOk) : (s.dropCapture g id).MemOk := .modOps h

theorem MemOk.trapLanes {g clause idx : Nat} {other : Lanes} {es : List LaneErr} (h : s.MemOk) :
    (s.trapLanes g clause idx other es).MemOk := by
  unfold State.trapLanes
  extract_lets +onlyGivenNames kind
  split
  · exact h
  · exact .raiseFrom h

theorem MemOk.trapEnviron {g : Nat} {cause : BitVec 8} {lanes : Lanes} {clause idx va : Nat} {detail : DWord}
    (h : s.MemOk) : (s.trapEnviron g cause lanes clause idx va detail).MemOk :=
  .raise h

theorem MemOk.consumePoison {g : Nat} {lanes : Lanes} {clause idx place : Nat} (h : s.MemOk) :
    (s.consumePoison g lanes clause idx place).MemOk := by
  unfold State.consumePoison
  split
  · exact .trapEnviron h
  · exact .endResident (.signal h)

theorem MemOk.commitFlow {g : Nat} {f : Flow} {stuck : List Nat} {clause idx : Nat} (h : s.MemOk) :
    (s.commitFlow g f stuck clause idx).MemOk := by
  unfold State.commitFlow
  extract_lets
  split
  · exact .onGroup h
  · exact .trapNow (.onGroup h)

theorem MemOk.advancePart {g : Nat} {quads : BitVec 16} (h : s.MemOk) : (s.advancePart g quads).MemOk := by
  unfold State.advancePart
  extract_lets +onlyGivenNames f
  split
  · exact h
  · split
    · exact h
    · exact .ite (.modFlow h) (.commitFlow h)

theorem MemOk.parkSwitch {g : Nat} (h : s.MemOk) : (s.parkSwitch g).MemOk := .onGroup h

theorem MemOk.finishPart {g : Nat} {quads : BitVec 16} (h : s.MemOk) : (s.finishPart g quads).MemOk := by
  unfold State.finishPart
  extract_lets +onlyGivenNames sw s1
  have hs1 : s1.MemOk := .advancePart (.modRegs h)
  exact .ite (.parkSwitch hs1) hs1

theorem MemOk.grantParked {g : Nat} (h : s.MemOk) : (s.grantParked g).MemOk := by
  unfold State.grantParked
  split
  · exact .finishPart (.onGroup (.modCore (.writeNow (.giveUnits h))))
  · exact h

theorem MemOk.passPart {gs : List Nat} (h : s.MemOk) : (s.passPart gs).MemOk :=
  .foldlFst h fun _ _ h1 => .iteFst (.grantParked h1) h1

theorem MemOk.passParts {c : Nat} {keys : List Nat} (h : s.MemOk) : (s.passParts c keys).MemOk :=
  .foldl h fun _ _ h1 => .passPart h1

theorem MemOk.sagePass {c : Nat} (h : s.MemOk) : (s.sagePass c).MemOk := .passParts h

theorem MemOk.sagePassThen {c key : Nat} {k : State → State} (h : s.MemOk) (hk : ∀ t, t.MemOk → (k t).MemOk) :
    (s.sagePassThen c key k).MemOk :=
  .passParts (hk _ (.passParts h))

theorem MemOk.placeResident {c gid : Nat} {role : Role} {pc : Nat} (h : s.MemOk) :
    (s.placeResident c gid role pc).MemOk :=
  .setGroup (.tick h)

theorem MemOk.startWorker {c : Nat} (h : s.MemOk) : (s.startWorker c).MemOk := by
  unfold State.startWorker
  refine .ite ?_ h
  split
  · exact h
  · exact .placeResident h

theorem MemOk.startWorkers {c : Nat} (h : s.MemOk) : (s.startWorkers c).MemOk :=
  .foldl h fun _ _ h1 => .startWorker h1

theorem MemOk.noteBoundary {c : Nat} (h : s.MemOk) : (s.noteBoundary c).MemOk := .modCore h

theorem MemOk.endBlock {key : Nat} (h : s.MemOk) : (s.endBlock key).MemOk := by
  unfold State.endBlock
  split
  · exact h
  · exact .sagePass (.startWorker (.noteBoundary (.ite h (.modEvent h))))

theorem MemOk.endDrain {g : Nat} (h : s.MemOk) : (s.endDrain g).MemOk := by
  unfold State.endDrain
  extract_lets +onlyGivenNames x c s1
  split
  · extract_lets +onlyGivenNames s2
    have hs2 : s2.MemOk := .modBlock h
    split
    · exact .ite (.endBlock hs2) (.sagePass hs2)
    · exact hs2
  · exact .startWorker h

theorem MemOk.noteExit {g : Nat} (h : s.MemOk) : (s.noteExit g).MemOk := .ite (.modBlock (.onGroup h)) h

theorem MemOk.releaseBarrier {gs : List Nat} {sc : Scope} (h : s.MemOk) : (s.releaseBarrier gs sc).MemOk :=
  .foldl h fun _ _ h1 => .foldl (.meetSlots (.acquire h1)) fun _ _ h2 => .finishPart (.modFlow h2)

theorem MemOk.tryBarrier {job run : Nat} {rank : Option Nat} (h : s.MemOk) : (s.tryBarrier job run rank).MemOk := by
  unfold State.tryBarrier
  refine .ite h ?_
  extract_lets +onlyGivenNames gs
  clear_value gs
  split
  · exact h
  · split
    · exact h
    · split
      · exact .ite (.releaseBarrier h) h
      · exact .ite (.releaseBarrier h) h
      · exact h

theorem MemOk.aftermath (h : s.MemOk) : s.aftermath.MemOk := by
  unfold State.aftermath
  extract_lets +onlyGivenNames s1 runs s2 s3
  refine .foldl (.foldl (.foldl (.foldl h fun _ _ h1 => .noteExit h1) fun _ _ h2 => .tryBarrier h2) fun _ _ h3 =>
    .tryBarrier h3) (fun _ _ h4 => ?_)
  split
  · exact h4
  · refine .ite ?_ h4
    split
    · exact h4
    · exact .trapNow h4

/-! ### Lanes -/

theorem MemOk.checkLanes {w : Who} {accs : List LaneAcc} {n : Nat} {aligned : Bool} {want : Want} {helper : Lanes}
    (h : s.MemOk) : (s.checkLanes w accs n aligned want helper).1.MemOk := by
  unfold State.checkLanes
  refine .foldlFst h (fun _ _ h1 => ?_)
  extract_lets +onlyGivenNames q
  have hq : q.1.MemOk := .access h1
  split
  · exact hq
  · exact .iteFst hq hq

theorem MemOk.blockOn {c : Issue} {w : Wait} (h : s.MemOk) : (s.blockOn c w).MemOk := .ite h (.onGroup h)

theorem MemOk.result {c : Issue} {x : Ctx} {kind : Machine.Kind} {o : Opnd} {n sx : Nat} {missing : Lanes}
    {f : Nat → Nat} (h : s.MemOk) : (s.result c x kind o n sx missing f).1.MemOk := by
  unfold State.result
  split
  · exact .fillPend h
  · exact .modCaught (.addPend h)

theorem MemOk.captureRemote {c : Issue} {i : Instr} {ops : Map Nat} {pend out : Nat} (h : s.MemOk) :
    (s.captureRemote c i ops pend out).1.MemOk :=
  .modOps (.tick h)

theorem MemOk.sendTagged {g typ peer addr : Nat} {payload : List Byte} {errand : Errand} (h : s.MemOk) :
    (s.sendTagged g typ peer addr payload errand).MemOk := by
  unfold State.sendTagged
  extract_lets +onlyGivenNames t r s1
  have hs1 : s1.MemOk := .modOps (.takeTag h)
  exact .request (.ite (.coverRow hs1) hs1)

theorem MemOk.readLanes {g : Nat} {ok : List (Nat × List Loc)} {wide : Bool} {helper : Lanes} (h : s.MemOk) :
    (s.readLanes g ok wide helper).1.MemOk :=
  .foldlFst h fun _ _ h1 => .iteFst (.loadBytes h1) (.loadBytes h1)

theorem MemOk.sendLoads {g pend cap : Nat} {ok : List (Nat × List Loc)} (h : s.MemOk) :
    (s.sendLoads g pend cap ok).MemOk :=
  .foldl h fun _ _ h1 => .sendTagged h1

theorem MemOk.loadLanes {s0 : State} {c : Issue} {i : Instr} {x : Ctx} {accs : List LaneAcc} {q : State.LoadAsk}
    (hs0 : s0.MemOk) (h : s.MemOk) : (s0.loadLanes s c i x accs q).MemOk := by
  unfold State.loadLanes
  extract_lets +onlyGivenNames g helper all wide r
  have hr : r.1.MemOk := .checkLanes h
  refine .ite (.trapLanes hr) ?_
  split
  · exact .blockOn hs0
  · extract_lets +onlyGivenNames s1 v
    have hv : v.1.MemOk := .readLanes (.ite hr (.chargeHost hr))
    split
    · exact .consumePoison hv
    · extract_lets +onlyGivenNames remote missing value p s2 s3 acq
      have hp : p.1.MemOk := .result hv
      have hs2 : s2.MemOk := .ite hp (.modPend hp)
      have hs3 : s3.MemOk := .ite hs2 (.parkLanes hs2)
      refine .ite (.ite (.acquire hs3) hs3) ?_
      extract_lets +onlyGivenNames k s4
      have hs4 : s4.MemOk := .sendLoads (.captureRemote hs3)
      exact .ite (.onGroup hs4) hs4

theorem MemOk.holdStore {g serial lane : Nat} {cap : Option Capture} {place : Nat} {bs : List Byte} (h : s.MemOk) :
    (s.holdStore g serial lane cap place bs).MemOk :=
  .modIss h

theorem MemOk.signStore {g va : Nat} {bs : List Byte} (h : s.MemOk) : (s.signStore g va bs).MemOk := .modIss h
theorem MemOk.comparePoint {g : Nat} (h : s.MemOk) : (s.comparePoint g).MemOk := .onGroup h

theorem MemOk.countStore {g : Nat} (h : s.MemOk) : (s.countStore g).MemOk := by
  unfold State.countStore
  extract_lets +onlyGivenNames s1
  have hs1 : s1.MemOk := .modIss h
  exact .ite (.comparePoint hs1) hs1

theorem MemOk.storeLane {g : Nat} {ls : List Loc} {bs : List Byte} {wide : Bool} {queue : Nat} (h : s.MemOk) :
    (s.storeLane g ls bs wide queue).MemOk :=
  .foldl h fun _ _ h1 => .storeRun h1

theorem MemOk.holdLane {g lane : Nat} {cap : Capture} {ls : List Loc} {bs : List Byte} (h : s.MemOk) :
    (s.holdLane g lane cap ls bs).MemOk :=
  .foldl h fun _ _ h1 => .holdStore h1

theorem MemOk.clearPlaces {g : Nat} {places : List Nat} (h : s.MemOk) : (s.clearPlaces g places).MemOk := by
  unfold State.clearPlaces
  extract_lets +onlyGivenNames c
  refine .ite h ?_
  refine .foldl h (fun _ _ h1 => ?_)
  extract_lets +onlyGivenNames s1 s2
  have hs2 : s2.MemOk := .modCore (.drainLine h1)
  exact .ite (.clearPoison hs2) hs2

theorem MemOk.clearCovered {g : Nat} {ok : List (Nat × List Loc)} (h : s.MemOk) : (s.clearCovered g ok).MemOk :=
  .clearPlaces h

theorem MemOk.signLanes {g : Nat} {accs : List LaneAcc} {data : Nat → List Byte} (h : s.MemOk) :
    (s.signLanes g accs data).MemOk :=
  .foldl h fun _ _ h1 => .signStore h1

theorem MemOk.sendStores {g cap : Nat} {ok : List (Nat × List Loc)} {data : Nat → List Byte} (h : s.MemOk) :
    (s.sendStores g cap ok data).MemOk :=
  .foldl h fun _ _ h1 => .sendTagged h1

theorem MemOk.signOnce {g : Nat} {x : Ctx} {all : List LaneAcc} {data : Nat → List Byte} (h : s.MemOk) :
    (s.signOnce g x all data).1.MemOk :=
  .iteFst h (.signLanes h)

theorem MemOk.storeLanes {s0 : State} {c : Issue} {i : Instr} {x : Ctx} {all accs : List LaneAcc} {n : Nat}
    {scope : Scope} {queue : Nat} {data : Nat → List Byte} (hs0 : s0.MemOk) (h : s.MemOk) :
    (s0.storeLanes s c i x all accs n scope queue data).MemOk := by
  unfold State.storeLanes
  extract_lets +onlyGivenNames g wide forced twin free holds r x__src r1
  have hr : r.1.MemOk := .checkLanes h
  have hr1 : r1.1.MemOk := .iteFst hr hr
  refine .ite (.trapLanes hr1) ?_
  split
  · exact .blockOn hs0
  · extract_lets +onlyGivenNames more
    refine .ite (.comparePoint hs0) ?_
    extract_lets +onlyGivenNames s1 q held counts q1 t kept s2 q2 s3 s4 remote s5 k s6
    have hs1 : s1.MemOk := .ite hr1 (.chargeHost hr1)
    have hq : q.1.MemOk := .iteFst (.signOnce hs1) hs1
    have hs2 : s2.MemOk := .foldl (.iteFst hq (.tick hq)) fun _ _ h1 => .ite (.holdLane h1) (.storeLane h1)
    have hq2 : q2.1.MemOk := .clearCovered hs2
    have hs4 : s4.MemOk := .modCaught (.ite hq2 (.parkLanes hq2))
    have hs6 : s6.MemOk := .ite hs4 (.sendStores (.captureRemote (.ite hs4 (.drainWhere hs4))))
    exact .ite (.countStore hs6) hs6

theorem MemOk.readLocs {g a : Nat} {ls : List Loc} (h : s.MemOk) : (s.readLocs g a ls).1.MemOk := by
  unfold State.readLocs
  extract_lets +onlyGivenNames o
  split
  · exact h
  · extract_lets +onlyGivenNames near q
    have hq : q.1.MemOk := .loadBytes h
    exact .iteFst hq hq

theorem MemOk.sendPeeks {g : Nat} {ks : List (Nat × Nat)} (h : s.MemOk) : (s.sendPeeks g ks).MemOk :=
  .foldl h fun _ _ h1 => .ite h1 (.sendTagged h1)

theorem MemOk.peekOn {c : Issue} {ks : List (Nat × Nat)} (h : s.MemOk) : (s.peekOn c ks).MemOk :=
  .blockOn (.sendPeeks h)

theorem MemOk.readElem {g : Nat} {p : Pattern} {elem lane : Nat} (h : s.MemOk) :
    (s.readElem g p elem lane).1.MemOk := by
  unfold State.readElem
  extract_lets +onlyGivenNames a r
  have hr : r.1.MemOk := .access h
  split
  · exact hr
  · exact .readLocs hr

theorem MemOk.engineTake {g q : Nat} (h : s.MemOk) : (s.engineTake g q).MemOk := by
  unfold State.engineTake
  split
  · exact h
  · extract_lets +onlyGivenNames have_ f
    refine .ite h ?_
    extract_lets +onlyGivenNames r
    have hr : r.1.MemOk := by
      unfold r
      refine .foldlFst h (fun _ _ h1 => ?_)
      extract_lets +onlyGivenNames x
      have hx : x.1.MemOk := .readElem h1
      split
      · exact hx
      · exact .iteFst hx hx
    exact .onGroup (.chargeHost hr)

theorem MemOk.engineFetch {g q : Nat} (h : s.MemOk) : (s.engineFetch g q).MemOk := by
  unfold State.engineFetch
  split
  · exact h
  · exact .ite h (.ite h (.engineTake h))

theorem MemOk.popQueue {g q : Nat} (h : s.MemOk) : (s.popQueue g q).1.MemOk := by
  unfold State.popQueue
  extract_lets +onlyGivenNames s1
  have hs1 : s1.MemOk := .ite (.engineTake h) h
  split
  · exact hs1
  · exact .onGroup hs1

theorem MemOk.takePush {g q : Nat} (h : s.MemOk) : (s.takePush g q).1.MemOk := by
  unfold State.takePush
  split
  · exact h
  · exact .onGroup h

/-! ### Operands -/

theorem MemOk.rereadQueues {g : Nat} {srcs : List Src} {lanes : List Nat} {vals : Map Nat} (h : s.MemOk) :
    (s.rereadQueues g srcs lanes vals).1.MemOk := by
  unfold State.rereadQueues
  refine .foldlFst h (fun _ _ h1 => ?_)
  split
  · split
    · exact h1
    · extract_lets +onlyGivenNames elem due r
      refine .foldlFst (.chargeHost h1) (fun _ _ h2 => ?_)
      refine .iteFst h2 ?_
      extract_lets +onlyGivenNames q
      have hq : q.1.MemOk := .readElem h2
      split
      · exact hq
      · exact hq
      · exact hq
  · exact h1

theorem SomeOk.elemsWait {c : Issue} {es : List (Pattern × Nat × List Nat)} (h : s.MemOk) :
    SomeOk (s.elemsWait c es) :=
  .ite (.peekOn h) (.ite (.blockOn h) trivial)

theorem MemOk.popAll {g : Nat} {qs : List Nat} (h : s.MemOk) : (s.popAll g qs).1.MemOk := by
  unfold State.popAll
  refine .foldlFst h (fun _ _ h1 => ?_)
  extract_lets +onlyGivenNames p
  have hp : p.1.MemOk := .popQueue h1
  split
  · exact hp
  · exact hp

theorem MemOk.latchHold {g : Nat} {hold : Bool} {vals : Map Nat} (h : s.MemOk) : (s.latchHold g hold vals).MemOk :=
  .ite (.modRegs (.ite h h)) h

theorem MemOk.latchLate {g : Nat} {hold : Bool} {old vals : Map Nat} {lanes : List Nat} (h : s.MemOk) :
    (s.latchLate g hold old vals lanes).MemOk :=
  .ite (.modRegs h) h

theorem MemOk.pushAll {g : Nat} {qs : List Nat} {vals : Map Nat} (h : s.MemOk) : (s.pushAll g qs vals).1.MemOk :=
  .foldlFst h fun _ _ h1 => .takePush h1

theorem MemOk.trapHere {c : Issue} {x : Ctx} {cause : BitVec 8} (h : s.MemOk) : (s.trapHere c x cause).MemOk :=
  .trapNow h

theorem EnterOk.enterReplay {a : Ask} {c : Issue} {cap : Capture} (h : s.MemOk) :
    EnterOk (s.enterReplay a c cap) := by
  unfold State.enterReplay
  extract_lets +onlyGivenNames g helper opnds
  refine .ite (.trapNow h) ?_
  split
  next e =>
    exact SomeOk.of_some (.elemsWait h) e
  · extract_lets +onlyGivenNames r errs bad
    have hr : r.1.MemOk := .rereadQueues h
    refine .ite (.trapLanes hr) ?_
    split
    · exact .consumePoison hr
    · extract_lets +onlyGivenNames s1
      have hs1 : s1.MemOk := .latchLate hr
      exact .ite (.parkWhole hs1) (MemOk.ite hs1 (.parkLanes hs1))

theorem EnterOk.enterFirst {a : Ask} {c : Issue} {lanes : Lanes} (h : s.MemOk) :
    EnterOk (s.enterFirst a c lanes) := by
  unfold State.enterFirst
  extract_lets +onlyGivenNames g helper pops popped pushed r errs bad s1 now x
  have hs1 : s1.MemOk := .latchHold (.rereadQueues (.pushAll (.popAll h)))
  split
  · exact .trapHere hs1
  · refine .ite (.trapLanes hs1) ?_
    split
    · exact .consumePoison hs1
    · exact .ite (.parkWhole hs1) (MemOk.ite hs1 (.parkLanes hs1))

theorem EnterOk.enter {a : Ask} (h : s.MemOk) : EnterOk (s.enter a) := by
  unfold State.enter
  split
  · exact h
  · extract_lets +onlyGivenNames g
    split
    · exact .enterReplay h
    · refine .ite (.trapNow h) ?_
      extract_lets +onlyGivenNames lanes
      split
      · exact .trapNow h
      · refine .ite (.trapNow h) ?_
        split
        · exact .consumePoison h
        · split
          next e =>
            exact SomeOk.of_some (.elemsWait h) e
          · exact .enterFirst h

theorem MemOk.pushStore {s0 : State} {c : Issue} {i : Instr} {x : Ctx} {q : Nat} {f : Nat → Nat} (hs0 : s0.MemOk)
    (h : s.MemOk) : (s0.pushStore s c i x q f).MemOk := by
  unfold State.pushStore
  split
  · exact h
  · exact .ite (.blockOn hs0) (.storeLanes hs0 h)

theorem MemOk.putReg {g : Nat} {x : Ctx} {o : Opnd} {n : Nat} {f : Nat → Nat} (h : s.MemOk) :
    (s.putReg g x o n f).MemOk := by
  unfold State.putReg
  split
  · exact .ite (.writeNow h) h
  · exact .writeNow h

theorem MemOk.putFixed {s0 : State} {c : Issue} {i : Instr} {x : Ctx} {o : Opnd} {n : Nat} {f : Nat → Nat}
    (hs0 : s0.MemOk) (h : s.MemOk) : (s0.putFixed s c i x o n f).MemOk := by
  unfold State.putFixed
  split
  · exact .pushStore hs0 h
  · exact .putReg h

theorem MemOk.putLater {s0 : State} {c : Issue} {i : Instr} {x : Ctx} {kind : Machine.Kind} {o : Opnd} {n : Nat}
    {f : Nat → Nat} (hs0 : s0.MemOk) (h : s.MemOk) : (s0.putLater s c i x kind o n f).MemOk := by
  unfold State.putLater
  split
  · exact .pushStore hs0 h
  · exact .result h

theorem MemOk.moved (h : s.MemOk) : s.moved.MemOk := h
theorem MemOk.staysHeld (h : s.MemOk) : s.staysHeld.MemOk := h
theorem MemOk.stayed (h : s.MemOk) : s.stayed.MemOk := h

theorem Kept.run {a : Ask} {body : State → Issue → Ctx → State} (h : s.MemOk)
    (hbody : ∀ t c x, t.MemOk → (body t c x).MemOk) : Kept (run s a body) := by
  have he := EnterOk.enter (a := a) h
  unfold Machine.run
  split
  next e => rw [e] at he; exact he
  next e => rw [e] at he; exact hbody _ _ _ he

theorem Kept.fixedOp {a : Ask} {o : Opnd} {n : Nat} {f : Ctx → Nat → Nat} (h : s.MemOk) : Kept (fixedOp s a o n f) :=
  .run h fun _ _ _ h1 => .putFixed h h1

theorem Kept.laterOp {a : Ask} {kind : Machine.Kind} {o : Opnd} {n : Nat} {f : Ctx → Nat → Nat} (h : s.MemOk) :
    Kept (laterOp s a kind o n f) :=
  .run h fun _ _ _ h1 => .putLater h h1

/-! ### Fetch -/

theorem MemOk.stopGroup {g cause : Nat} (h : s.MemOk) : (s.stopGroup g cause).MemOk := by
  unfold State.stopGroup
  extract_lets +onlyGivenNames x p lanes pc idx s1 halt s2
  have hhalt : ∀ s a, s.MemOk → (halt s a).MemOk := fun _ _ h1 => .modIss h1
  have hs2 : s2.MemOk := hhalt _ _ (.oweGroup h)
  refine .ite ?_ hs2
  split
  · exact hs2
  · exact .foldl hs2 fun _ _ h2 => hhalt _ _ h2

theorem MemOk.passBreak {g : Nat} {p : Part} (h : s.MemOk) : (s.passBreak g p).MemOk := .modIss h

theorem MemOk.readable {t u : State} {g : Nat} {ls : List Loc} (h : t.MemOk) (e : s.readable t g ls = .ok u) :
    u.MemOk := by
  unfold State.readable at e
  extract_lets k n at e
  split at e
  · cases e
  · split at e
    · cases e; exact h
    · split at e
      · cases e
      · cases e; exact .chargeUnits h

theorem MemOk.readPieces {g unit fuel a n : Nat} (h : s.MemOk) : (s.readPieces g unit fuel a n).1.MemOk := by
  induction fuel generalizing s a n with
  | zero => exact h
  | succ fuel ih =>
    rw [State.readPieces]
    refine .iteFst h ?_
    extract_lets m r
    have hr : r.1.MemOk := .access h
    split
    · exact hr
    · split
      · exact h
      next e =>
        extract_lets q
        have hq : q.1.MemOk := .readLocs (.readable hr e)
        split
        · exact hq
        · exact ih hq

theorem MemOk.readDesc {g a n : Nat} (h : s.MemOk) : (s.readDesc g a n).1.MemOk := .readPieces h

theorem MemOk.fetchWord {g a : Nat} (h : s.MemOk) : (s.fetchWord g a).1.MemOk := by
  unfold State.fetchWord
  refine .iteFst h ?_
  extract_lets +onlyGivenNames r
  have hr : r.1.MemOk := .access h
  split
  · exact hr
  · split
    · exact h
    next e =>
      have ht := hr.readable e
      split
      · exact ht
      · extract_lets q p u
        have hq : q.1.MemOk := .readLocs ht
        have hu : u.1.MemOk := .engineBytes (.recallLine ht)
        clear_value q u
        exact .iteFst hq hu

theorem MemOk.fetchWords {g a n : Nat} (h : s.MemOk) : (s.fetchWords g a n).1.MemOk := by
  induction n generalizing s a with
  | zero => exact h
  | succ n ih =>
    rw [State.fetchWords]
    extract_lets r
    split
    · exact .fetchWord h
    · exact ih (.fetchWord h)

theorem MemOk.trapStart {g : Nat} {quads : BitVec 16} {t : State.Trap} {remote : Bool} (h : s.MemOk) :
    (s.trapStart g quads t remote).MemOk := by
  unfold State.trapStart
  refine .ite ?_ (.raiseFrom h)
  split
  · exact h
  · exact .commitFlow (.modRegs h)

theorem MemOk.faultStep {g : Nat} (h : s.MemOk) : (s.faultStep g).MemOk := .ite (.parkSwitch (.modIss h)) h

theorem MemOk.fetchFault {g : Nat} {quads : BitVec 16} {lanes : Lanes} {clause idx : Nat}
    {again : Option (Instr × Map Nat)} {e : Hitch} (h : s.MemOk) :
    (s.fetchFault g quads lanes clause idx again e).MemOk := by
  unfold State.fetchFault
  split
  · exact .ite (.trapStart h) (.consumePoison h)
  · exact .onGroup (.sendPeeks h)
  · exact .onGroup h
  · exact .ite (.faultStep (.modOps (.tick (.oweGroup h)))) (.faultStep (.trapStart h))

theorem MemOk.sliceHitch {g : Nat} {x0 : Hitch} (h : s.MemOk) : (s.sliceHitch g x0).1.MemOk := by
  unfold State.sliceHitch
  split
  · exact .sendPeeks h
  · exact h
  · exact .onGroup h
  · exact .onGroup h

theorem MemOk.readSlice {g : Nat} (h : s.MemOk) : (s.readSlice g).1.MemOk := by
  unfold State.readSlice
  extract_lets +onlyGivenNames x malformed
  have hmalformed : ∀ s, s.MemOk → (malformed s).MemOk := fun _ h1 => .onGroup h1
  split
  · exact h
  · refine .iteFst h ?_
    extract_lets +onlyGivenNames xh
    have hxh : xh.1.MemOk := .readPieces h
    split
    · exact .sliceHitch hxh
    · extract_lets +onlyGivenNames n
      refine .iteFst (hmalformed _ hxh) ?_
      extract_lets +onlyGivenNames r
      have hr : r.1.MemOk := .readPieces hxh
      split
      · exact .sliceHitch hr
      · exact .onGroup hr

theorem SomeOk.takeSliceFault {g : Nat} {p : Part} {lanes : Lanes} (h : s.MemOk) :
    SomeOk (s.takeSliceFault g p lanes) := by
  unfold State.takeSliceFault
  extract_lets +onlyGivenNames x
  split
  · exact .fetchFault (.onGroup h)
  · exact .fetchFault h
  · exact trivial

theorem MemOk.dropKinds {g : Nat} {w : BitVec 6} (h : s.MemOk) : (s.dropKinds g w).MemOk := .modOps h

theorem MemOk.illegal {g : Nat} {p : Part} {lanes : Lanes} {idx : Nat} (h : s.MemOk) :
    (s.illegal g p lanes idx).MemOk :=
  .faultStep (.trapStart h)

theorem MemOk.takeClause {g : Nat} {p : Part} {hd : Header} {is : List Instr} (h : s.MemOk) :
    (s.takeClause g p hd is).MemOk :=
  .onGroup h

theorem MemOk.waitKinds {g : Nat} {w : BitVec 6} (h : s.MemOk) : (s.waitKinds g w).MemOk := by
  unfold State.waitKinds
  refine .ite h ?_
  extract_lets +onlyGivenNames s1
  have hs1 : s1.MemOk := .dropKinds (.flushPend h)
  exact .ite (.onGroup hs1) hs1

theorem MemOk.fetchBody {g : Nat} {p : Part} {lanes : Lanes} {hd : Header} (h : s.MemOk) :
    (s.fetchBody g p lanes hd).MemOk := by
  unfold State.fetchBody
  extract_lets +onlyGivenNames q
  have hq : q.1.MemOk := .fetchWords h
  split
  · exact .fetchFault hq
  · split
    · exact .illegal hq
    · exact .waitKinds (.takeClause hq)

theorem MemOk.startClause {g : Nat} {p : Part} (h : s.MemOk) : (s.startClause g p).MemOk := by
  unfold State.startClause
  extract_lets +onlyGivenNames x d lanes breaks k
  have hk : k.1.MemOk := .readSlice h
  refine .ite (.stopGroup h) ?_
  refine .ite (.stopGroup (.passBreak h)) ?_
  refine .ite (.onGroup hk) ?_
  extract_lets +onlyGivenNames s1 r stops
  have hr : r.1.MemOk := .fetchWord hk
  refine .ite (.stopGroup (.passBreak hr)) ?_
  split
  next e =>
    exact SomeOk.of_some (.takeSliceFault hk) e
  · split
    · exact .fetchFault hr
    · split
      · exact .illegal hr
      · exact .fetchBody hr

theorem MemOk.holdWaits {g : Nat} (h : s.MemOk) : (s.holdWaits g).MemOk := .ite (.waitKinds h) h

/-! ### Start -/

theorem MemOk.startPart {c worker : Nat} (h : s.MemOk) : (s.startPart c worker).MemOk := by
  unfold State.startPart
  split
  · exact h
  · extract_lets +onlyGivenNames k r x__src s1 s2 t key n hi s3 s4 a first s5 s6
    have hs5 : s5.MemOk := by
      unfold s5
      refine .foldl (.giveAccs (.giveTiles (.giveSpad (.setBlock (.tick h))))) (fun _ _ h1 => ?_)
      split
      · exact h1
      · exact .modBlock (.setGroup (.tick h1))
    have hs6 : s6.MemOk := .foldl (.invalidate hs5) fun _ _ h2 => .readSlice h2
    exact .ite (.modEvent hs6) hs6

/-! ### Ready -/

theorem MemOk.reportErrs {g : Nat} {sel : Capture → Bool} (h : s.MemOk) : (s.reportErrs g sel).MemOk :=
  .foldl h fun _ _ h1 => .ite (.modOps (.oweLanes h1)) h1

theorem MemOk.reportCopies {g : Nat} {sel : Copy → Bool} (h : s.MemOk) : (s.reportCopies g sel).MemOk := by
  unfold State.reportCopies
  split
  · exact h
  · exact .raiseFrom (.modCore h)

theorem MemOk.switchDue {g : Nat} (h : s.MemOk) : (s.switchDue g).MemOk := .ite (.onGroup (.modIss h)) h

theorem MemOk.endWait {g : Nat} {w : Wait} (h : s.MemOk) : (s.endWait g w).MemOk := by
  unfold State.endWait
  extract_lets +onlyGivenNames s1
  have hs1 : s1.MemOk := .onGroup h
  split
  · exact .dropDone hs1
  · exact .dropKinds hs1
  · exact .acquire hs1
  · exact hs1

theorem MemOk.tryResume {g : Nat} (h : s.MemOk) : (s.tryResume g).MemOk := by
  unfold State.tryResume
  extract_lets +onlyGivenNames s1
  have hs1 : s1.MemOk := by
    unfold s1
    split
    · extract_lets +onlyGivenNames s2 s3
      have hs2 : s2.MemOk := .reportCopies (.reportErrs h)
      have hs3 : s3.MemOk := by
        unfold s3
        split
        · exact .flushPend hs2
        · exact .flushPend hs2
        · exact .flushPend hs2
        · exact .flushPend hs2
        · exact hs2
      exact .ite (.endWait hs3) hs3
    · exact .onGroup h
    · exact .reportCopies (.reportErrs h)
    · exact h
  exact .switchDue hs1

theorem MemOk.wakeCore {c : Nat} (h : s.MemOk) : (s.wakeCore c).MemOk := .foldl h fun _ _ h1 => .onGroup h1

/-! ### Chervil -/

theorem MemOk.signForced {c : Issue} {x : Ctx} (h : s.MemOk) : (s.signForced c x).MemOk := .modIss h

theorem MemOk.force {s0 : State} {c : Issue} {x : Ctx} {mode : Nat} {sign k : State → State} (hs0 : s0.MemOk)
    (h : s.MemOk) (hsign : ∀ t, t.MemOk → (sign t).MemOk) (hk : ∀ t, t.MemOk → (k t).MemOk) :
    (s0.force s c x mode sign k).MemOk := by
  unfold State.force
  extract_lets +onlyGivenNames g again
  have hagain : ∀ t, t.MemOk → (again t).MemOk := fun _ h1 => h1
  exact .ite (hk _ h) (.ite (hagain _ (.comparePoint (.modIss (hsign _ (.signForced hs0)))))
    (.ite (hagain _ hs0) (.ite h (hk _ h))))

theorem MemOk.endForced {g : Nat} (h : s.MemOk) : (s.endForced g).MemOk := by
  unfold State.endForced
  refine .ite h ?_
  extract_lets +onlyGivenNames s1
  have hs1 : s1.MemOk := .modIss h
  refine .ite hs1 ?_
  split
  · exact hs1
  · exact .modIss hs1

/-! ### Engine -/

theorem MemOk.checkRange {g lane a n : Nat} {write : Bool} (h : s.MemOk) :
    (s.checkRange g lane a n write).1.MemOk := by
  unfold State.checkRange
  refine .iteFst h ?_
  extract_lets +onlyGivenNames w
  split
  · exact h
  · extract_lets +onlyGivenNames r
    refine .foldlFst (.rangePages h) (fun _ _ h1 => ?_)
    split
    · exact h1
    · exact h1

theorem MemOk.takeLines {g : Nat} {lines : List Nat} (h : s.MemOk) : (s.takeLines g lines).MemOk := by
  refine .foldl h fun t line ht => ?_
  extract_lets u v
  have hv : v.MemOk := .dropLine (.recallLine (.writeBack (.drainLine ht)))
  clear_value v
  exact hv

theorem MemOk.drainVault {g : Nat} {segs : List CopySeg} (h : s.MemOk) : (s.drainVault g segs).MemOk :=
  .foldl h fun _ _ h1 => .drainLine h1

theorem MemOk.startCopy {g : Nat} {kind : Machine.Kind} {segs : List CopySeg} {barrier : Option Nat}
    {slots : List Nat} {lanes : Lanes} (h : s.MemOk) : (s.startCopy g kind segs barrier slots lanes).MemOk := by
  unfold State.startCopy
  extract_lets +onlyGivenNames at_ lines r k s1
  have hs1 : s1.MemOk := .modCore (.tick (.takeLines (.drainVault h)))
  exact .ite (.modOps hs1) hs1

theorem MemOk.failCopy {c id : Nat} (h : s.MemOk) : (s.failCopy c id).MemOk := by
  unfold State.failCopy
  split
  · exact h
  · exact .ite h h

theorem MemOk.chargeSegs {g : Nat} {segs : List CopySeg} (h : s.MemOk) : (s.chargeSegs g segs).MemOk :=
  .ite h (.chargeUnits h)

theorem MemOk.extentBytes {g : Nat} {e : Extent} (h : s.MemOk) : (s.extentBytes g e).1.MemOk :=
  .foldlFst h fun _ _ h1 => .engineBytes h1

/-! ### Integer -/

theorem Kept.intBinary {i : Instr} {o : Alu} {f : Ty → Int → Int → Nat} (h : s.MemOk) : Kept (intBinary i o f s) :=
  .fixedOp h

theorem Kept.bitBinary {i : Instr} {o : Alu} {nb : Nat} {f : Nat → Nat → Nat → Nat} (h : s.MemOk) :
    Kept (bitBinary i o nb f s) :=
  .fixedOp h

theorem Kept.execIadd {o : Alu} (h : s.MemOk) : Kept (execIadd o s) := .intBinary h
theorem Kept.execIsub {o : Alu} (h : s.MemOk) : Kept (execIsub o s) := .intBinary h
theorem Kept.execImul {o : Alu} (h : s.MemOk) : Kept (execImul o s) := .intBinary h
theorem Kept.execImulh {o : Alu} (h : s.MemOk) : Kept (execImulh o s) := .intBinary h
theorem Kept.execImad {o : Alu} (h : s.MemOk) : Kept (execImad o s) := .fixedOp h
theorem Kept.execIabs {o : Alu} (h : s.MemOk) : Kept (execIabs o s) := .fixedOp h
theorem Kept.execImin {o : Alu} (h : s.MemOk) : Kept (execImin o s) := .intBinary h
theorem Kept.execImax {o : Alu} (h : s.MemOk) : Kept (execImax o s) := .intBinary h
theorem Kept.execAnd {o : Alu} (h : s.MemOk) : Kept (execAnd o s) := .bitBinary h
theorem Kept.execOr {o : Alu} (h : s.MemOk) : Kept (execOr o s) := .bitBinary h
theorem Kept.execXor {o : Alu} (h : s.MemOk) : Kept (execXor o s) := .bitBinary h
theorem Kept.execAndn {o : Alu} (h : s.MemOk) : Kept (execAndn o s) := .bitBinary h
theorem Kept.execShl {o : Alu} (h : s.MemOk) : Kept (execShl o s) := .bitBinary h
theorem Kept.execShr {o : Alu} (h : s.MemOk) : Kept (execShr o s) := .bitBinary h
theorem Kept.execSar {o : Alu} (h : s.MemOk) : Kept (execSar o s) := .bitBinary h
theorem Kept.execRot {o : Alu} (h : s.MemOk) : Kept (execRot o s) := .bitBinary h

theorem Kept.bitCount {i : Instr} {o : Alu} {f : Nat → Nat → Nat} (h : s.MemOk) : Kept (bitCount i o f s) :=
  .fixedOp h

theorem Kept.execPopc {o : Alu} (h : s.MemOk) : Kept (execPopc o s) := .bitCount h
theorem Kept.execClz {o : Alu} (h : s.MemOk) : Kept (execClz o s) := .bitCount h
theorem Kept.execBrev {o : Alu} (h : s.MemOk) : Kept (execBrev o s) := .fixedOp h
theorem Kept.execBfx {o : Alu} (h : s.MemOk) : Kept (execBfx o s) := .fixedOp h
theorem Kept.execBfi {o : Alu} (h : s.MemOk) : Kept (execBfi o s) := .fixedOp h
theorem Kept.execIcmp {o : Alu} (h : s.MemOk) : Kept (execIcmp o s) := .fixedOp h
theorem Kept.execIsel {o : Alu} (h : s.MemOk) : Kept (execIsel o s) := .fixedOp h
theorem Kept.execMov {o : Alu} (h : s.MemOk) : Kept (execMov o s) := .fixedOp h
theorem Kept.execMovi {o : MovImm} (h : s.MemOk) : Kept (execMovi o s) := .fixedOp h
theorem Kept.execLea {o : Alu} (h : s.MemOk) : Kept (execLea o s) := .fixedOp h
theorem Kept.execCvti {o : Alu} (h : s.MemOk) : Kept (execCvti o s) := .fixedOp h

theorem Kept.predOp {i : Instr} {o : Reg3} {srcs : List (Nat × Opnd × Nat)} {f : Bool → Bool → Bool} (h : s.MemOk) :
    Kept (predOp i o srcs f s) :=
  .fixedOp h

theorem Kept.execPand {o : Reg3} (h : s.MemOk) : Kept (execPand o s) := .predOp h
theorem Kept.execPor {o : Reg3} (h : s.MemOk) : Kept (execPor o s) := .predOp h
theorem Kept.execPxor {o : Reg3} (h : s.MemOk) : Kept (execPxor o s) := .predOp h
theorem Kept.execPnot {o : Reg3} (h : s.MemOk) : Kept (execPnot o s) := .predOp h

/-! ### Floating -/

theorem Kept.fltBinary {i : Instr} {o : Alu} {f : Fp → Fp → Fp} (h : s.MemOk) : Kept (fltBinary i o f s) := .fixedOp h
theorem Kept.execFadd {o : Alu} (h : s.MemOk) : Kept (execFadd o s) := .fltBinary h
theorem Kept.execFsub {o : Alu} (h : s.MemOk) : Kept (execFsub o s) := .fltBinary h
theorem Kept.execFmul {o : Alu} (h : s.MemOk) : Kept (execFmul o s) := .fltBinary h
theorem Kept.execFfma {o : Alu} (h : s.MemOk) : Kept (execFfma o s) := .fixedOp h
theorem Kept.execFfma2 {o : Alu} (h : s.MemOk) : Kept (execFfma2 o s) := .fixedOp h
theorem Kept.execHfma2 {o : Alu} (h : s.MemOk) : Kept (execHfma2 o s) := .fixedOp h
theorem Kept.execFdot2 {o : Alu} (h : s.MemOk) : Kept (execFdot2 o s) := .fixedOp h
theorem Kept.execFmin {o : Alu} (h : s.MemOk) : Kept (execFmin o s) := .fltBinary h
theorem Kept.execFmax {o : Alu} (h : s.MemOk) : Kept (execFmax o s) := .fltBinary h
theorem Kept.execFcmp {o : Alu} (h : s.MemOk) : Kept (execFcmp o s) := .fixedOp h
theorem Kept.execFsel {o : Alu} (h : s.MemOk) : Kept (execFsel o s) := .fixedOp h
theorem Kept.fltUnary {i : Instr} {o : Alu} {f : Fp → Fp} (h : s.MemOk) : Kept (fltUnary i o f s) := .fixedOp h
theorem Kept.execFrnd {o : Alu} (h : s.MemOk) : Kept (execFrnd o s) := .fltUnary h
theorem MemOk.drawOnce {g : Nat} {x : Ctx} (h : s.MemOk) : (drawOnce s g x).1.MemOk := .modRegs h

theorem Kept.execFcvt {o : Alu} (h : s.MemOk) : Kept (execFcvt o s) :=
  .run h fun _ _ _ h1 => .putFixed h (.iteFst (.drawOnce h1) h1)

theorem Kept.specialUnary {i : Instr} {o : Alu} {f : Nat → Nat} (h : s.MemOk) : Kept (specialUnary i o f s) :=
  .laterOp h

theorem Kept.execFrcp {o : Alu} (h : s.MemOk) : Kept (execFrcp o s) := .specialUnary h
theorem Kept.execFrsq {o : Alu} (h : s.MemOk) : Kept (execFrsq o s) := .specialUnary h
theorem Kept.execFsqrt {o : Alu} (h : s.MemOk) : Kept (execFsqrt o s) := .specialUnary h
theorem Kept.execFexp2 {o : Alu} (h : s.MemOk) : Kept (execFexp2 o s) := .specialUnary h
theorem Kept.execFlog2 {o : Alu} (h : s.MemOk) : Kept (execFlog2 o s) := .specialUnary h
theorem Kept.execFsin {o : Alu} (h : s.MemOk) : Kept (execFsin o s) := .specialUnary h
theorem Kept.execFcos {o : Alu} (h : s.MemOk) : Kept (execFcos o s) := .specialUnary h
theorem Kept.execFtanh {o : Alu} (h : s.MemOk) : Kept (execFtanh o s) := .specialUnary h
theorem Kept.execFscl {o : Alu} (h : s.MemOk) : Kept (execFscl o s) := .fixedOp h

theorem Kept.execFfrx {o : Alu} (h : s.MemOk) : Kept (execFfrx o s) := by
  unfold Machine.execFfrx
  extract_lets +onlyGivenNames m
  refine .run h (fun _ _ _ h1 => ?_)
  extract_lets +onlyGivenNames v t
  have ht : t.MemOk := .putFixed h h1
  exact .ite ht (.putReg ht)

theorem Kept.execFcls {o : Alu} (h : s.MemOk) : Kept (execFcls o s) := .fixedOp h

/-! ### Cross -/

theorem Kept.crossOp {a : Ask} {o : Opnd} {n : Nat} {f : Issue → Nat → Ctx → Nat → Nat} (h : s.MemOk) :
    Kept (crossOp s a o n f) :=
  .run h fun _ _ _ h1 => .putLater h h1

theorem Kept.execShfl {o : Alu} (h : s.MemOk) : Kept (execShfl o s) := by
  unfold Machine.execShfl
  exact .crossOp h

theorem Kept.execQxch {o : Alu} (h : s.MemOk) : Kept (execQxch o s) := .fixedOp h
theorem Kept.execBallot {o : Reg3} (h : s.MemOk) : Kept (execBallot o s) := .crossOp h
theorem Kept.execVote {o : Alu} (h : s.MemOk) : Kept (execVote o s) := .crossOp h

theorem Kept.execMatch {o : Alu} (h : s.MemOk) : Kept (execMatch o s) := by
  unfold Machine.execMatch
  exact .crossOp h

theorem Kept.execFirstl {o : Reg3} (h : s.MemOk) : Kept (execFirstl o s) := .crossOp h

theorem Kept.execRedux {o : Alu} (h : s.MemOk) : Kept (execRedux o s) := by
  unfold Machine.execRedux
  exact .crossOp h

theorem Kept.execScan {o : Alu} (h : s.MemOk) : Kept (execScan o s) := by
  unfold Machine.execScan
  exact .crossOp h

theorem Kept.tileOp {i : Instr} {o : TileRow} {col : Bool} {srcs : List (Nat × Opnd × Nat)} {dsts : List (Opnd × Nat)}
    {body : State → Issue → Ctx → (Nat → Nat) → State} (hbody : ∀ t c x y, t.MemOk → (body t c x y).MemOk)
    (h : s.MemOk) : Kept (tileOp i o col srcs dsts body s) :=
  .run h fun _ _ _ h1 => .ite (.ite h1 (.trapHere h1)) (hbody _ _ _ _ h1)

theorem Kept.tileRead {i : Instr} {o : TileRow} {col : Bool} (h : s.MemOk) : Kept (tileRead i o col s) := by
  unfold Machine.tileRead
  refine .tileOp (fun _ _ _ _ h1 => ?_) h
  extract_lets +onlyGivenNames ps v t bad
  have hv : BothOk v := BothOk.viewFor (.raceAt h1)
  clear_value bad
  split
  · exact .consumePoison hv.1
  · exact .putLater h hv.1

theorem MemOk.clearWritten {isAcc : Bool} {places : List Nat} (h : s.MemOk) : (clearWritten s isAcc places).MemOk :=
  .ite (.foldl h fun _ _ h1 => .clearPoison h1) (.foldl h fun _ _ h2 => .ite (.clearPoison h2) h2)

theorem Kept.tileWrite {i : Instr} {o : TileRow} {col : Bool} (h : s.MemOk) : Kept (tileWrite i o col s) :=
  .tileOp (fun _ _ _ _ h1 => .clearWritten (.foldl (.raceAt h1) fun _ _ h2 => .setNum (.noteWrite h2))) h

theorem Kept.execTrdrow {o : TileRow} (h : s.MemOk) : Kept (execTrdrow o s) := .tileRead h
theorem Kept.execTwrrow {o : TileRow} (h : s.MemOk) : Kept (execTwrrow o s) := .tileWrite h
theorem Kept.execTrdcol {o : TileRow} (h : s.MemOk) : Kept (execTrdcol o s) := .tileRead h
theorem Kept.execTwrcol {o : TileRow} (h : s.MemOk) : Kept (execTwrcol o s) := .tileWrite h

/-! ### Inbound -/

theorem MemOk.answerWrite {p : Packet} {typ : Nat} (h : s.MemOk) : (s.answerWrite p typ).MemOk := .ite h (.respond h)

theorem MemOk.inboundWrite {p : Packet} {typ a : Nat} {bs : List (Option Byte)} (h : s.MemOk) :
    (s.inboundWrite p typ a bs).MemOk := by
  unfold State.inboundWrite
  extract_lets +onlyGivenNames t s1
  have hs1 : s1.MemOk := .recallLine h
  split
  · exact .guardedStore hs1
  · exact .homeWrite hs1

theorem MemOk.takeWrite {p : Packet} {ack : Nat} (h : s.MemOk) : (s.takeWrite p ack).MemOk := by
  unfold State.takeWrite
  split
  · exact .refuse h
  · exact .refuse h
  · exact .answerWrite (.inboundWrite h)

/-! ### Service -/

theorem MemOk.promote {g : Nat} (h : s.MemOk) : (s.promote g).MemOk := .modIss (.tick h)

theorem MemOk.resolveRecord {t : Nat} {seq : Word} {kill : Bool} (h : s.MemOk) :
    (s.resolveRecord t seq kill).1.MemOk := by
  unfold State.resolveRecord
  split
  · exact h
  · extract_lets +onlyGivenNames s1 s2
    have hs2 : s2.MemOk := .modOps (.modFq h)
    exact .iteFst hs2 (.promote hs2)

theorem MemOk.resolveFault {t : Nat} {v : DWord} (h : s.MemOk) : (s.resolveFault t v).MemOk :=
  .ite h (.modTenant (.iteFst h (.resolveRecord h)))

theorem MemOk.setServiceFlag {t : Nat} (h : s.MemOk) : (s.setServiceFlag t).MemOk :=
  .foldl h fun _ _ h1 => .wakeCore (.modCore h1)

theorem MemOk.clearServiceFlag {t : Nat} (h : s.MemOk) : (s.clearServiceFlag t).MemOk := h
theorem MemOk.startTlbinv {t : Nat} {v : DWord} (h : s.MemOk) : (s.startTlbinv t v).MemOk := .ite h (.modTenant h)
theorem MemOk.requestBoundary {t : Nat} (h : s.MemOk) : (s.requestBoundary t).MemOk := .ite h h

theorem MemOk.appendRecord {g t q : Nat} {l : Loc} {bs : List Byte} (h : s.MemOk) :
    (s.appendRecord g t q l bs).MemOk :=
  .modQueue (.performHome (.ite (.chargeHost h) h))

theorem MemOk.signalHost {t : Nat} {v : Word} (h : s.MemOk) : (s.signalHost t v).MemOk := by
  unfold State.signalHost
  extract_lets +onlyGivenNames before s1
  have hs1 : s1.MemOk := .modTenant h
  exact .ite hs1 (.signal hs1)

theorem MemOk.laneHitch {s0 : State} {c : Issue} {i : Instr} {x : Ctx} {write : Bool} {e : Hitch} (hs0 : s0.MemOk)
    (h : s.MemOk) : (s0.laneHitch s c i x write e).MemOk := by
  unfold State.laneHitch
  split
  · exact .peekOn hs0
  · exact .blockOn hs0
  · exact .consumePoison h
  · exact .ite (.trapLanes h) (.parkWhole h)

theorem MemOk.descHitch {s0 : State} {c : Issue} {i : Instr} {x : Ctx} {e : Hitch} (hs0 : s0.MemOk) (h : s.MemOk) :
    (s0.descHitch s c i x e).MemOk :=
  .laneHitch hs0 h

theorem MemOk.objectFault {c : Issue} {x : Ctx} {a : Nat} {cause : BitVec 8} (h : s.MemOk) :
    (s.objectFault c x a cause).MemOk :=
  .ite (.trapLanes h) (.trapHere h)

theorem MemOk.releaseEvery {s0 : State} {c : Issue} {x : Ctx} {sc : Scope} {every : Bool} {k : State → State}
    (hs0 : s0.MemOk) (h : s.MemOk) (hk : ∀ t, t.MemOk → (k t).MemOk) : (s0.releaseEvery s c x sc every k).MemOk := by
  unfold State.releaseEvery
  split
  · exact .blockOn (.releaseLocal hs0)
  · exact hk _ (.releaseLocal h)

theorem MemOk.releaseThen {s0 : State} {c : Issue} {x : Ctx} {sc : Scope} {k : State → State} (hs0 : s0.MemOk)
    (h : s.MemOk) (hk : ∀ t, t.MemOk → (k t).MemOk) : (s0.releaseThen s c x sc k).MemOk :=
  .releaseEvery hs0 h hk

/-! ### LoadStore -/

theorem MemOk.strongThen {s0 : State} {c : Issue} {x : Ctx} {rel : Bool} {sc : Scope} {must : Bool} {mode : Nat}
    {sign k : State → State} (hs0 : s0.MemOk) (h : s.MemOk) (hsign : ∀ t, t.MemOk → (sign t).MemOk)
    (hk : ∀ t, t.MemOk → (k t).MemOk) : (s0.strongThen s c x rel sc must mode sign k).MemOk := by
  unfold State.strongThen
  extract_lets +onlyGivenNames body
  have hbody : ∀ t, t.MemOk → (body t).MemOk := fun _ h1 => .ite (.releaseThen hs0 h1 hk) (hk _ h1)
  exact .ite (.force hs0 h hsign hbody) (hbody _ h)

theorem Kept.loadOp {i : Instr} {o : MemOp} {n : Nat} {ea : Issue → Nat → Nat} (h : s.MemOk) :
    Kept (loadOp i o n ea s) :=
  .run h fun _ _ _ h1 => .loadLanes h h1

theorem Kept.execLd {o : MemOp} (h : s.MemOk) : Kept (execLd o s) := .loadOp h
theorem Kept.execLds {o : MemOp} (h : s.MemOk) : Kept (execLds o s) := .loadOp h
theorem Kept.execLdv {o : MemOp} (h : s.MemOk) : Kept (execLdv o s) := .loadOp h

theorem Kept.storeOp {i : Instr} {o : MemOp} {n : Nat} {ea : Issue → Nat → Nat} (h : s.MemOk) :
    Kept (storeOp i o n ea s) :=
  .run h fun _ _ _ h1 => .strongThen h h1 (fun _ h2 => .modIss (.signLanes h2)) fun _ h3 => .storeLanes h h3

theorem Kept.execSt {o : MemOp} (h : s.MemOk) : Kept (execSt o s) := .storeOp h
theorem Kept.execSts {o : MemOp} (h : s.MemOk) : Kept (execSts o s) := .storeOp h
theorem Kept.execStv {o : MemOp} (h : s.MemOk) : Kept (execStv o s) := .storeOp h

theorem MemOk.atomicSteps {g : Nat} {op : AtomOp} {t : Ty} {wide : Bool} {x : Ctx} {ok : List (Nat × List Loc)}
    (h : s.MemOk) : (s.atomicSteps g op t wide x ok).1.MemOk :=
  .foldlFst h fun _ _ h1 => .atomicWrite (.atomicRead h1)

theorem MemOk.sendParts {g typ peer addr : Nat} {parts : List (List Byte)} {errand : Errand} (h : s.MemOk) :
    (s.sendParts g typ peer addr parts errand).MemOk := by
  unfold State.sendParts
  extract_lets +onlyGivenNames t tag s1
  have hs1 : s1.MemOk := .sendTagged h
  exact .ite (.foldl hs1 fun _ _ h1 => .request h1) hs1

theorem MemOk.sendAtomics {g pend cap : Nat} {op : AtomOp} {t : Ty} {x : Ctx} {ok : List (Nat × List Loc)}
    (h : s.MemOk) : (s.sendAtomics g pend cap op t x ok).MemOk :=
  .foldl h fun _ _ h1 => .sendParts h1

theorem MemOk.atomicLanes {s0 : State} {c : Issue} {i : Instr} {x : Ctx} {o : AtomicOp} {dst : Option Opnd}
    (hs0 : s0.MemOk) (h : s.MemOk) : (s0.atomicLanes s c i x o dst).MemOk := by
  unfold State.atomicLanes
  extract_lets +onlyGivenNames g t wide r errs
  have hr : r.1.MemOk := .checkLanes h
  refine .ite (.trapLanes hr) ?_
  split
  · exact .blockOn hs0
  · extract_lets +onlyGivenNames local_ bad near far
    refine .strongThen hs0 hr (fun _ h1 => h1) (fun _ h2 => ?_)
    extract_lets +onlyGivenNames q missing p s1 acq k s2 s3
    have hq : q.1.MemOk := .atomicSteps h2
    have hp : p.1.MemOk := by
      unfold p
      split
      · exact hq
      · exact .result hq
    have hs1 : s1.MemOk := .ite hp (.parkLanes hp)
    have hs2 : s2.MemOk := .sendAtomics (.captureRemote hs1)
    have hs3 : s3.MemOk := .ite (.ite (.acquire hs1) hs1) (.ite (.onGroup hs2) hs2)
    clear_value bad
    split
    · exact hs3
    · exact .consumePoison hs3

theorem Kept.execAtom {o : AtomicOp} (h : s.MemOk) : Kept (execAtom o s) := .run h fun _ _ _ h1 => .atomicLanes h h1
theorem Kept.execRed {o : AtomicOp} (h : s.MemOk) : Kept (execRed o s) := .run h fun _ _ _ h1 => .atomicLanes h h1

theorem Kept.execFence {o : SyncOp} (h : s.MemOk) : Kept (execFence o s) := by
  unfold Machine.execFence
  refine .run h (fun _ _ _ h1 => ?_)
  extract_lets +onlyGivenNames acq rel after go
  have hafter : ∀ u, u.MemOk → (after u).MemOk := fun _ h2 => .ite (.acquire h2) h2
  have hgo : ∀ u, u.MemOk → (go u).MemOk := fun _ h3 => .ite (.releaseEvery h h3 hafter)
    (.ite (.blockOn h) (hafter _ h3))
  exact .ite (.force h h1 (fun _ h4 => h4) hgo) (hgo _ h1)

theorem Kept.execSfence {o : SyncOp} (h : s.MemOk) : Kept (execSfence o s) := by
  unfold Machine.execSfence
  refine .run h (fun _ _ _ h1 => ?_)
  refine .force h h1 (fun _ h2 => h2) (fun _ h3 => ?_)
  extract_lets +onlyGivenNames g drain t
  have hdrain : ∀ u, u.MemOk → (drain u).MemOk := fun _ h4 => .drainWhere h4
  refine .ite (.blockOn (hdrain _ h)) ?_
  extract_lets +onlyGivenNames lost v t1 t2
  have ht1 : t1.MemOk := .modOps (hdrain _ h3)
  have ht2 : t2.MemOk := by
    unfold t2
    split
    · exact .writeNow ht1
    · exact ht1
  exact .putFixed h ht2

theorem Kept.execPbar {o : SyncOp} (h : s.MemOk) : Kept (execPbar o s) := by
  unfold Machine.execPbar
  refine .run h (fun _ _ _ h1 => ?_)
  refine .force h h1 (fun _ h2 => h2) (fun _ h3 => ?_)
  extract_lets +onlyGivenNames drain
  have hdrain : ∀ u, u.MemOk → (drain u).MemOk := fun _ h4 => .drainWhere h4
  exact .ite (.blockOn (hdrain _ h)) (hdrain _ h3)

theorem MemOk.lineOp {s0 : State} {c : Issue} {i : Instr} {x : Ctx} {f : State → Nat → State} (hs0 : s0.MemOk)
    (h : s.MemOk) (hf : ∀ t a, t.MemOk → (f t a).MemOk) : (s0.lineOp s c i x f).MemOk := by
  unfold State.lineOp
  extract_lets +onlyGivenNames g helper r
  have hr : r.1.MemOk := by
    unfold r
    refine .foldlFst h (fun _ _ h1 => ?_)
    extract_lets +onlyGivenNames q
    have hq : q.1.MemOk := .lineLoc h1
    split
    · exact hq
    · exact hq
  refine .ite (.trapLanes hr) ?_
  split
  · exact .blockOn hs0
  · extract_lets +onlyGivenNames s1
    have hs1 : s1.MemOk := .foldl hr fun _ _ h2 => hf _ _ h2
    exact .ite hs1 (.parkLanes hs1)

theorem MemOk.dropClean {c line : Nat} (h : s.MemOk) : (s.dropClean c line).MemOk := by
  unfold State.dropClean
  split
  · exact h
  · exact .ite (.dropLine h) (.modCore h)

theorem Kept.execCflush {o : MemOp} (h : s.MemOk) : Kept (execCflush o s) :=
  .run h fun _ _ _ h1 => .lineOp h h1 fun _ _ h2 => .dropLine (.writeBack (.drainLine h2))

theorem Kept.execCinv {o : MemOp} (h : s.MemOk) : Kept (execCinv o s) :=
  .run h fun _ _ _ h1 => .lineOp h h1 fun _ _ h2 => .dropClean h2

theorem Kept.execPref {o : MemOp} (h : s.MemOk) : Kept (execPref o s) := .run h fun _ _ _ h1 => h1

theorem MemOk.readMembers {g a : Nat} (h : s.MemOk) : (s.readMembers g a).1.MemOk := by
  unfold State.readMembers
  extract_lets +onlyGivenNames xh
  have hxh : xh.1.MemOk := .readDesc h
  split
  · exact hxh
  · exact .iteFst hxh (.readDesc hxh)

theorem MemOk.sendColumn {g addr : Nat} {data : List Byte} {x : Nat} {members : List (Nat × Errand)} (h : s.MemOk) :
    (s.sendColumn g addr data x members).MemOk :=
  .inject (.coverRow (.foldlFst h fun _ _ h1 => .modOps (.takeTag h1)))

theorem MemOk.sendOwn {g addr : Nat} {data : List Byte} {errand : Errand} (h : s.MemOk) :
    (s.sendOwn g addr data errand).MemOk := by
  unfold State.sendOwn
  extract_lets +onlyGivenNames t s1 r s2
  have hs2 : s2.MemOk := .coverRow (.modOps (.takeTag (.dropLine (.settleLine h))))
  exact .ite (.request hs2) (.takeWrite hs2)

theorem MemOk.sendMulticast {g pend : Nat} {members : List (BitVec 12)} {addr : Nat} {data : List Byte}
    (h : s.MemOk) : (s.sendMulticast g pend members addr data).MemOk := by
  unfold State.sendMulticast
  extract_lets +onlyGivenNames t r m s1 all room grouped alone s2
  have hs2 : s2.MemOk := .foldl (.modSvc (.tick h)) fun _ _ h1 => .ite (.sendOwn h1) (.sendTagged h1)
  refine .foldl hs2 (fun _ _ h2 => ?_)
  split
  · exact h2
  · exact .sendColumn h2

theorem MemOk.multicast {s0 : State} {c : Issue} {x : Ctx} {o : MemOp} {members : List (BitVec 12)} (hs0 : s0.MemOk)
    (h : s.MemOk) : (s0.multicast s c x o members).MemOk := by
  unfold State.multicast
  extract_lets +onlyGivenNames g i t rel accs r errs
  have hr : r.1.MemOk := .checkLanes h
  refine .ite (.trapLanes hr) ?_
  refine .ite (.parkWhole hr) ?_
  split
  · exact .blockOn hs0
  · exact .strongThen hs0 hr (fun _ h1 => h1) fun _ h2 => .sendMulticast (.result h2)

theorem Kept.execMcast {o : MemOp} (h : s.MemOk) : Kept (execMcast o s) := by
  unfold Machine.execMcast
  extract_lets +onlyGivenNames i n
  refine .run h (fun _ _ _ h1 => ?_)
  refine .ite (.putLater h h1) ?_
  refine .ite (.trapHere h1) ?_
  extract_lets +onlyGivenNames r
  have hr : r.1.MemOk := .readMembers h1
  split
  · exact .descHitch h hr
  · exact .trapHere hr
  · exact .multicast h hr

/-! ### Resource -/

theorem ReturnOk.relVreg {g n : Nat} (h : s.MemOk) : ReturnOk (s.relVreg g n) :=
  .ite trivial (.ite trivial (.onGroup (.flushPend h)))

theorem ReturnOk.relSpad {g n : Nat} (h : s.MemOk) : ReturnOk (s.relSpad g n) := by
  unfold State.relSpad
  extract_lets +onlyGivenNames key
  split
  · exact .ite h trivial
  · exact .ite trivial (.ite trivial (.setBlock h))

theorem ReturnOk.relTile {g n : Nat} (h : s.MemOk) : ReturnOk (s.relTile g n) := by
  unfold State.relTile
  extract_lets +onlyGivenNames key qs
  split
  · exact .ite h trivial
  · exact .ite trivial (.ite trivial (.setBlock h))

theorem ReturnOk.relAcc {g n first : Nat} (h : s.MemOk) : ReturnOk (s.relAcc g n first) := by
  unfold State.relAcc
  extract_lets +onlyGivenNames key names bound held
  refine .ite trivial ?_
  refine .ite trivial ?_
  extract_lets +onlyGivenNames qs
  split
  · exact h
  · exact .ite trivial (.setBlock (.foldl h fun _ _ h1 => .modRegs h1))

theorem ReturnOk.returnUnits {g : Nat} {cls : ResClass} {n first : Nat} (h : s.MemOk) :
    ReturnOk (s.returnUnits g cls n first) := by
  unfold State.returnUnits
  split
  · exact .relVreg h
  · exact .relSpad h
  · exact .relTile h
  · exact .relAcc h

theorem MemOk.claimWord {g : Nat} {cls : ResClass} (h : s.MemOk) : (s.claimWord g cls).1.MemOk := by
  unfold State.claimWord
  extract_lets +onlyGivenNames x u free
  split
  · exact h
  · exact .free h

theorem Kept.execAcq {o : SageOp} (h : s.MemOk) : Kept (execAcq o s) := by
  unfold Machine.execAcq
  extract_lets +onlyGivenNames i
  refine .run h (fun _ _ _ h1 => ?_)
  extract_lets +onlyGivenNames n first
  refine .ite (.putFixed h h1) ?_
  split
  · exact .trapHere h1
  · exact .ite (.ite (.blockOn h) (.putFixed h (.giveUnits h1))) (.sagePass (.staysHeld (.modCore (.onGroup h1))))

theorem Kept.execTryacq {o : SageOp} (h : s.MemOk) : Kept (execTryacq o s) := by
  unfold Machine.execTryacq
  extract_lets +onlyGivenNames i
  refine .run h (fun _ _ _ h1 => ?_)
  extract_lets +onlyGivenNames n status
  have hstatus : ∀ t k, t.MemOk → (status t k).MemOk := fun _ _ h2 => .putFixed h h2
  refine .ite (hstatus _ _ h1) ?_
  split
  · exact .trapHere h1
  · refine .sagePassThen h1 (fun _ h3 => ?_)
    refine .ite (hstatus _ _ h3) ?_
    split
    · exact hstatus _ _ (.giveUnits h3)
    · exact hstatus _ _ h3
    · exact hstatus _ _ h3

theorem Kept.execRel {o : SageOp} (h : s.MemOk) : Kept (execRel o s) := by
  unfold Machine.execRel
  refine .run h (fun _ _ _ h1 => ?_)
  split
  · exact .trapHere h1
  · exact .blockOn h
  next e =>
    exact .sagePass (ReturnOk.of_done (.returnUnits h1) e)

theorem Kept.execClaimq {o : SageOp} (h : s.MemOk) : Kept (execClaimq o s) :=
  .run h fun _ _ _ h1 => .putFixed h (.claimWord h1)

/-! ### Matrix -/

theorem MemOk.trapRows {c : Issue} {x : Ctx} {cause : BitVec 8} (h : s.MemOk) : (s.trapRows c x cause).MemOk :=
  .ite h (.trapHere h)

theorem MemOk.startArray {g : Nat} (h : s.MemOk) : (s.startArray g).MemOk := .modOps (.modCore h)

theorem MemOk.multiply {v : State} {c : Issue} {x : Ctx} {o : MtxMul} {sparse : Bool} {q sa sb : Nat}
    {taken rows own : List Nat} (h : s.MemOk) : (s.multiply v c x o sparse q sa sb taken rows own).MemOk := by
  unfold State.multiply
  extract_lets +onlyGivenNames core da db zero
  refine .ite (.trapRows h) ?_
  split
  · exact .trapRows h
  · refine .ite (.trapRows h) ?_
    extract_lets +onlyGivenNames bad
    clear_value bad
    split
    · exact .consumePoison h
    · extract_lets +onlyGivenNames bs t
      refine .foldl (.startArray h) (fun _ _ h1 => ?_)
      extract_lets +onlyGivenNames a t1
      refine .foldl (.noteWrite h1) (fun _ _ h2 => ?_)
      extract_lets +onlyGivenNames p t2
      have ht2 : t2.MemOk := .setNum h2
      exact .ite (.clearPoison ht2) ht2

theorem Kept.matrixOp {i : Instr} {o : MtxMul} {sparse : Bool} (h : s.MemOk) : Kept (matrixOp i o sparse s) :=
  .run h fun _ _ _ h1 => .multiply (BothOk.viewFor (.raceSlot (.raceSlot h1))).1

theorem Kept.execMma {o : MtxMul} (h : s.MemOk) : Kept (execMma o s) := .matrixOp h
theorem Kept.execMmas {o : MtxMul} (h : s.MemOk) : Kept (execMmas o s) := .matrixOp h

theorem Kept.execMclaim {o : MtxName} (h : s.MemOk) : Kept (execMclaim o s) := by
  unfold Machine.execMclaim
  extract_lets +onlyGivenNames reg
  refine .run h (fun _ _ _ h1 => ?_)
  split
  · exact .trapHere h1
  · exact .ite (.trapHere h1) (.modRegs h1)

theorem Kept.execMrel {o : MtxName} (h : s.MemOk) : Kept (execMrel o s) := .run h fun _ _ _ h1 => .modRegs h1

theorem Kept.execAzero {o : MtxName} (h : s.MemOk) : Kept (execAzero o s) :=
  .run h fun _ _ _ h1 => .foldl h1 fun _ _ h2 => .wipeRange (.noteWrite h2)

theorem MemOk.storeRows {g l a step w : Nat} (h : s.MemOk) : (s.storeRows g l a step w).1.MemOk := by
  unfold State.storeRows
  split
  · exact h
  · exact .iteFst h (.foldlFst h fun _ _ h1 => .checkRange h1)

theorem MemOk.storeTile {s0 sIn v : State} {c : Issue} {x : Ctx} {o : MtxStore} {q : Nat} (hs0 : s0.MemOk)
    (hsIn : sIn.MemOk) : (s0.storeTile sIn v c x o q).MemOk := by
  unfold State.storeTile
  extract_lets +onlyGivenNames s1 g w core step r
  have hr : r.1.MemOk := by
    unfold r
    refine .foldlFst hsIn (fun _ _ h1 => ?_)
    extract_lets +onlyGivenNames k
    have hk : k.1.MemOk := .storeRows h1
    exact .iteFst hk hk
  refine .ite (.trapLanes hr) ?_
  extract_lets +onlyGivenNames s2 segsOf owned
  split
  · exact .blockOn hs0
  · extract_lets +onlyGivenNames sign go
    have hsign : ∀ t, t.MemOk → (sign t).MemOk := fun _ h2 => .foldl h2 fun _ _ h3 => .foldl h3 fun _ _ h4 =>
      .signStore h4
    have hgo : ∀ t, t.MemOk → (go t).MemOk := fun _ h5 => by
      unfold go
      extract_lets +onlyGivenNames t
      have ht : t.MemOk := .foldl h5 fun _ _ h6 => .startCopy (.chargeSegs h6)
      exact .ite ht (.parkLanes ht)
    exact .ite (.force hs0 hr hsign hgo) (.ite (hgo _ (hsign _ hr)) (hgo _ hr))

theorem Kept.execAst {o : MtxStore} (h : s.MemOk) : Kept (execAst o s) :=
  .run h fun _ _ _ h1 => .storeTile h (BothOk.viewFor h1).1

theorem MemOk.acvtRow {v : State} {g core slot q c0 : Nat} {d : DWord} {r : Nat} (h : s.MemOk) :
    (v.acvtRow s g core slot q c0 d r).MemOk := by
  unfold State.acvtRow
  extract_lets +onlyGivenNames f w n raw vals b groups codes qs out elems s1 s2 s3
  have hs2 : s2.MemOk := .clearPoison (.setBytes (.noteWrite h))
  have hs3 : s3.MemOk := .ite (.modRegs hs2) hs2
  exact .ite hs3 (.setBytes (.noteWrite hs3))

theorem MemOk.convertTile {v : State} {c : Issue} {x : Ctx} {o : MtxCvt} {slot q : Nat} (h : s.MemOk) :
    (s.convertTile v c x o slot q).MemOk := by
  unfold State.convertTile
  extract_lets +onlyGivenNames core w d
  refine .ite (.trapRows h) ?_
  extract_lets +onlyGivenNames n bad
  clear_value bad
  split
  · exact .consumePoison h
  · exact .foldl h fun _ _ h1 => .acvtRow h1

theorem Kept.execAcvt {o : MtxCvt} (h : s.MemOk) : Kept (execAcvt o s) :=
  .run h fun _ _ _ h1 => .convertTile (BothOk.viewFor (.raceSlot h1)).1

theorem Kept.execMburst {o : Reg3} (h : s.MemOk) : Kept (execMburst o s) := by
  unfold Machine.execMburst
  refine .run h (fun _ _ _ h1 => ?_)
  extract_lets +onlyGivenNames n
  refine .ite h1 ?_
  extract_lets +onlyGivenNames t
  have ht : t.MemOk := .modOps h1
  exact .ite ht (.modCore ht)

theorem Kept.narrowOp {i : Instr} {o : MtxReg} {srcs : List (Nat × Opnd × Nat)} {needBlk : Bool}
    {body : State → Issue → Ctx → DWord → Nat → State × (Nat → Nat)}
    (hbody : ∀ t c x y z, t.MemOk → (body t c x y z).1.MemOk) (h : s.MemOk) :
    Kept (narrowOp i o srcs needBlk body s) :=
  .run h fun _ _ _ h1 => .ite (.trapRows h1) (.putLater h (hbody _ _ _ _ _ h1))

theorem Kept.execCvtn {o : MtxReg} (h : s.MemOk) : Kept (execCvtn o s) :=
  .narrowOp (fun _ _ _ _ _ h1 => .ite (.modRegs h1) h1) h

theorem Kept.execCvtw {o : MtxReg} (h : s.MemOk) : Kept (execCvtw o s) := .narrowOp (fun _ _ _ _ _ h1 => h1) h
theorem Kept.execSclx {o : MtxReg} (h : s.MemOk) : Kept (execSclx o s) := .narrowOp (fun _ _ _ _ _ h1 => h1) h
theorem Kept.execPackn {o : MtxReg} (h : s.MemOk) : Kept (execPackn o s) := .narrowOp (fun _ _ _ _ _ h1 => h1) h
theorem Kept.execUnpkn {o : MtxReg} (h : s.MemOk) : Kept (execUnpkn o s) := .narrowOp (fun _ _ _ _ _ h1 => h1) h

/-! ### Async -/

theorem MemOk.checkCopy {g e : Nat} {k : LaneCopy} (h : s.MemOk) : (s.checkCopy g e k).1.MemOk := by
  unfold State.checkCopy
  extract_lets +onlyGivenNames w away odd
  split
  · exact h
  · exact .checkRange (.checkRange h)

theorem MemOk.startLanes {g : Nat} {ks : List (LaneCopy × List CopySeg)} {bar : Option Nat} (h : s.MemOk) :
    (s.startLanes g ks bar).MemOk :=
  .ite (.startCopy (.chargeSegs h)) (.foldl h fun _ _ h1 => .ite h1 (.startCopy (.chargeSegs h1)))

theorem MemOk.copyLanes {s0 : State} {c : Issue} {x : Ctx} {o : SyncOp} (hs0 : s0.MemOk) (h : s.MemOk) :
    (s0.copyLanes s c x o).MemOk := by
  unfold State.copyLanes
  extract_lets +onlyGivenNames g i ks e b
  refine .ite (.trapRows h) ?_
  clear_value b
  split
  · exact .ite h (.objectFault h)
  · extract_lets +onlyGivenNames r
    have hr : r.1.MemOk := by
      unfold r
      refine .foldlFst h (fun _ _ h1 => ?_)
      extract_lets +onlyGivenNames q
      have hq : q.1.MemOk := .checkCopy h1
      exact .iteFst hq hq
    refine .ite (.trapLanes hr) ?_
    extract_lets +onlyGivenNames segs
    split
    · exact .blockOn hs0
    · extract_lets +onlyGivenNames sign go
      have hsign : ∀ t, t.MemOk → (sign t).MemOk := fun _ h2 => .foldl h2 fun _ _ h3 => .signStore (.extentBytes h3)
      have hgo : ∀ t, t.MemOk → (go t).MemOk := fun _ h4 => by
        unfold go
        extract_lets +onlyGivenNames t
        have ht : t.MemOk := .startLanes h4
        exact .ite ht (.parkLanes ht)
      exact .ite (.force hs0 hr hsign hgo) (.ite (hgo _ (hsign _ hr)) (hgo _ hr))

theorem Kept.execAcpy {o : SyncOp} (h : s.MemOk) : Kept (execAcpy o s) := .run h fun _ _ _ h1 => .copyLanes h h1

theorem Kept.execAbatch {o : Reg3} (h : s.MemOk) : Kept (execAbatch o s) :=
  .run h fun _ _ _ h1 => .putFixed h (.modOps h1)

theorem Kept.execAwait {o : Reg3} (h : s.MemOk) : Kept (execAwait o s) := .run h fun _ _ _ h1 => .ite h1 (.blockOn h)

theorem MemOk.checkRows {g l core slot : Nat} {d : TensorDesc} (h : s.MemOk) :
    (s.checkRows g l core slot d).1.MemOk :=
  .foldlFst h fun _ _ h1 => .checkRange h1

theorem Kept.execTcpy {o : SyncTile} (h : s.MemOk) : Kept (execTcpy o s) := by
  unfold Machine.execTcpy
  extract_lets +onlyGivenNames i slot bar
  refine .run h (fun _ _ _ h1 => ?_)
  extract_lets +onlyGivenNames g l b
  refine .ite (.trapHere h1) ?_
  extract_lets +onlyGivenNames r
  have hr : r.1.MemOk := .readDesc h1
  split
  · exact .descHitch h hr
  · clear_value b
    split
    · exact .trapHere hr
    · exact .objectFault hr
    · extract_lets +onlyGivenNames q
      have hq : q.1.MemOk := .checkRows hr
      refine .ite (.trapLanes hq) ?_
      refine .ite (.parkWhole hq) ?_
      split
      · exact .blockOn h
      · exact .startCopy (.chargeSegs hq)

theorem Kept.barrierOp {i : Instr} {o : SyncOp} {init rel : Bool} {badB : Nat → Bool}
    {body : State → Issue → Ctx → Nat → Nat → State} (hbody : ∀ t c x y z, t.MemOk → (body t c x y z).MemOk)
    (h : s.MemOk) : Kept (barrierOp i o init rel badB body s) := by
  unfold Machine.barrierOp
  extract_lets +onlyGivenNames early
  refine .run h (fun _ _ _ h1 => ?_)
  refine .ite (.trapHere h1) ?_
  split
  · exact .objectFault h1
  · refine .ite (.consumePoison h1) ?_
    refine .ite (.trapHere h1) ?_
    extract_lets +onlyGivenNames go
    have hgo : ∀ t, t.MemOk → (go t).MemOk := fun _ h2 => hbody _ _ _ _ _ h2
    exact .ite (.force h h1 (fun _ h3 => h3) hgo) (hgo _ h1)

theorem Kept.execBari {o : SyncOp} (h : s.MemOk) : Kept (execBari o s) :=
  .barrierOp (fun _ _ _ _ _ h1 => .putLater h (.setNum (.setNum (.setNum (.setNum h1))))) h

theorem Kept.execBarx {o : SyncOp} (h : s.MemOk) : Kept (execBarx o s) :=
  .barrierOp (fun _ _ _ _ _ h1 => .putLater h (.barAdd h1)) h

theorem Kept.execBara {o : SyncOp} (h : s.MemOk) : Kept (execBara o s) :=
  .barrierOp (fun _ _ _ _ _ h1 => .ite (.trapHere h1) (.releaseThen h h1 fun _ h2 => .putLater h
    (.barCheck (.setNum h2)))) h

theorem Kept.execBarw {o : SyncOp} (h : s.MemOk) : Kept (execBarw o s) :=
  .barrierOp (fun _ _ _ _ _ h1 => .ite (.putLater h (.acquire h1)) (.ite (.putLater h h1) (.blockOn h))) h

theorem MemOk.arrive {s0 : State} {c : Issue} {x : Ctx} {sc : Scope} {hd : Hold} (hs0 : s0.MemOk) (h : s.MemOk) :
    (s0.arrive s c x sc hd).MemOk :=
  .ite (.blockOn (.flushPend hs0)) (.releaseThen hs0 (.flushPend h) fun _ h1 => .staysHeld (.modFlow h1))

theorem Kept.execBsync {o : SyncOp} (h : s.MemOk) : Kept (execBsync o s) := by
  unfold Machine.execBsync
  refine .run h (fun _ _ _ h1 => ?_)
  extract_lets +onlyGivenNames n
  refine .ite (.trapHere h1) ?_
  extract_lets +onlyGivenNames go
  have hgo : ∀ t, t.MemOk → (go t).MemOk := fun _ h2 => .arrive h h2
  exact .ite (.force h h1 (fun _ h3 => h3) hgo) (hgo _ h1)

theorem Kept.execCsync {o : SyncOp} (h : s.MemOk) : Kept (execCsync o s) :=
  .run h fun _ _ _ h1 => .ite (.trapHere h1) (.force h h1 (fun _ h2 => h2) fun _ h3 => .arrive h h3)

theorem MemOk.joinQueue {g obj : Nat} {push : Bool} (h : s.MemOk) : (s.joinQueue g obj push).MemOk :=
  .ite h (.modCore h)

theorem MemOk.leaveQueue {g obj : Nat} {push : Bool} (h : s.MemOk) : (s.leaveQueue g obj push).MemOk := .modCore h
theorem MemOk.pushEntry {p e v : Nat} (h : s.MemOk) : (s.pushEntry p e v).MemOk := .setNum (.setNum (.setNum h))
theorem MemOk.popEntry {p : Nat} (h : s.MemOk) : (s.popEntry p).MemOk := .setNum (.setNum h)

theorem Kept.queueOp {i : Instr} {o : SyncOp} {srcs : List (Nat × Opnd × Nat)} {dsts : List (Opnd × Nat)}
    {init rel : Bool} {body : State → Issue → Ctx → Nat → State} (hbody : ∀ t c x y, t.MemOk → (body t c x y).MemOk)
    (h : s.MemOk) : Kept (queueOp i o srcs dsts init rel body s) := by
  unfold Machine.queueOp
  extract_lets +onlyGivenNames badB early
  refine .run h (fun _ _ _ h1 => ?_)
  refine .ite (.trapHere h1) ?_
  split
  · exact .objectFault h1
  · exact .ite (.consumePoison h1) (.ite (.trapHere h1) (.ite (.force h h1 (fun _ h2 => h2)
      fun _ h3 => hbody _ _ _ _ h3) (hbody _ _ _ _ h1)))

theorem Kept.execQinit {o : SyncOp} (h : s.MemOk) : Kept (execQinit o s) :=
  .queueOp (fun _ _ _ _ h1 => .setNum (.setNum (.setNum (.setNum h1)))) h

theorem MemOk.pushAfter {s0 t : State} {c : Issue} {x : Ctx} {o : SyncOp} {p : Nat} {k : State → State}
    (hs0 : s0.MemOk) (ht : t.MemOk) (hk : ∀ t, t.MemOk → (k t).MemOk) : (pushAfter s0 t c x o p k).MemOk := by
  unfold Machine.pushAfter
  split
  · exact .objectFault ht
  · exact .releaseThen hs0 ht fun _ h1 => hk _ (.leaveQueue (.pushEntry h1))

theorem MemOk.popAfter {t : State} {c : Issue} {x : Ctx} {o : SyncOp} {p : Nat} {k : State → Nat → State}
    (ht : t.MemOk) (hk : ∀ t a, t.MemOk → (k t a).MemOk) : (popAfter t c x o p k).MemOk := by
  unfold Machine.popAfter
  split
  · exact .objectFault ht
  · exact .ite (.consumePoison ht) (hk _ _ (.acquire (.leaveQueue (.popEntry ht))))

theorem Kept.execQpush {o : SyncOp} (h : s.MemOk) : Kept (execQpush o s) :=
  .queueOp (fun _ _ _ _ h1 => .ite (.pushAfter h h1 fun _ h2 => h2) (.blockOn (.joinQueue h))) h

theorem Kept.execQpop {o : SyncOp} (h : s.MemOk) : Kept (execQpop o s) :=
  .queueOp (fun _ _ _ _ h1 => .ite (.popAfter h1 fun _ _ h2 => .putLater h h2) (.blockOn (.joinQueue h))) h

theorem Kept.execQtry {o : SyncOp} (h : s.MemOk) : Kept (execQtry o s) :=
  .ite (.queueOp (fun _ _ _ _ h1 => .ite (.pushAfter h h1 fun _ h2 => .putLater h h2) (.putLater h h1)) h)
    (.queueOp (fun _ _ _ _ h3 => .ite (.popAfter h3 fun _ _ h4 => .putLater h h4) (.putLater h h3)) h)

/-! ### Collective -/

theorem MemOk.sendFabric {g typ pod ddev addr : Nat} {payload : List Byte} {errand : Errand} (h : s.MemOk) :
    (s.sendFabric g typ pod ddev addr payload errand).MemOk := by
  unfold State.sendFabric
  extract_lets +onlyGivenNames t r s1
  have hs1 : s1.MemOk := .modOps (.takeTag h)
  exact .ite (.request hs1) (.requestOff hs1)

theorem MemOk.writeRow {op core slot row : Nat} {bs : List Byte} (h : s.MemOk) :
    (s.writeRow op core slot row bs).MemOk :=
  .homeWrite (.noteEngine h)

theorem MemOk.finishCopy {k : RemoteCopy} (h : s.MemOk) : (s.finishCopy k).MemOk := by
  unfold State.finishCopy
  exact .fillPend (.forgetOp (.modSvc h))

theorem MemOk.endRows {k : RemoteCopy} (h : s.MemOk) : (s.endRows k).MemOk := by
  unfold State.endRows
  split
  · exact .finishCopy h
  · exact .ite (.finishCopy h) (.sendFabric h)

theorem MemOk.rowAnswer {rc r : Nat} {a : Except (BitVec 4) (Nat × List Byte)} (h : s.MemOk) :
    (s.rowAnswer rc r a).MemOk := by
  unfold State.rowAnswer
  split
  · exact h
  · extract_lets +onlyGivenNames k due k1 s1 s2
    have hs1 : s1.MemOk := .modSvc h
    have hs2 : s2.MemOk := .ite (.foldl hs1 fun _ _ h1 => .writeRow h1) hs1
    exact .ite (.endRows hs2) hs2

theorem MemOk.flagAnswer {rc : Nat} {code : Option (BitVec 4)} (h : s.MemOk) : (s.flagAnswer rc code).MemOk := by
  unfold State.flagAnswer
  split
  · exact h
  · exact .finishCopy h

theorem MemOk.sendRow {v : State} {g rc : Nat} {put : Bool} {core slot : Nat} {d : CopyDesc} {r : Nat} (h : s.MemOk) :
    (v.sendRow s g rc put core slot d r).MemOk :=
  .ite (.rowAnswer h) (.ite (.ite (.rowAnswer h) (.sendFabric h)) (.foldl h fun _ _ h1 => .sendFabric h1))

theorem MemOk.startRemote {c : Issue} {x : Ctx} {o : SyncTile} {put : Bool} {d : CopyDesc} (h : s.MemOk) :
    (s.startRemote c x o put d).MemOk :=
  .foldl (BothOk.slotView (.modSvc (.tick (.result h)))).1 fun _ _ h1 => .sendRow h1

theorem Kept.execRcpy {o : SyncTile} (h : s.MemOk) : Kept (execRcpy o s) := by
  unfold Machine.execRcpy
  extract_lets +onlyGivenNames i put
  refine .run h (fun _ _ _ h1 => ?_)
  refine .ite (.trapHere h1) ?_
  extract_lets +onlyGivenNames r
  have hr : r.1.MemOk := .readDesc h1
  split
  · exact .descHitch h hr
  · split
    · exact .trapHere hr
    · exact .force h hr (fun _ h2 => h2) fun _ h3 => .startRemote h3

theorem MemOk.closeColl {k : Coll} {n : Nat} (h : s.MemOk) : (s.closeColl k n).MemOk :=
  .modSvc (.forgetOp (.foldl h fun _ _ h1 => .barBytes h1))

theorem MemOk.writeStatus {k : Coll} {n : Nat} (h : s.MemOk) : (s.writeStatus k n).MemOk := by
  unfold State.writeStatus
  extract_lets +onlyGivenNames g bs far near s1
  have hs1 : s1.MemOk := .foldl h fun _ _ h1 => .ite (.setBytes h1) (.updateCopy (.performHome (.settleLine h1)))
  clear_value far
  split
  · exact .closeColl hs1
  · split
    · exact .sendFabric hs1
    · exact .closeColl hs1

theorem MemOk.chunkDone {id c : Nat} {r : Except (BitVec 4) (Option (List Byte))} (h : s.MemOk) :
    (s.chunkDone id c r).MemOk := by
  unfold State.chunkDone
  split
  · exact h
  · split
    · exact h
    · refine .ite h ?_
      extract_lets +onlyGivenNames k s1 s2
      have hs1 : s1.MemOk := .modSvc h
      have hs2 : s2.MemOk := by
        unfold s2
        split
        · exact .foldl hs1 fun _ _ h1 => .writeRow h1
        · exact hs1
      exact .ite (.foldl hs2 fun _ _ h2 => .barBytes h2) (.writeStatus hs2)

theorem MemOk.sendResult {p : Packet} {r : Option (List Byte)} {bitmap : List Byte} (h : s.MemOk) :
    (s.sendResult p r bitmap).MemOk := by
  unfold State.sendResult
  split
  · exact .respond h
  · exact .respond h

theorem MemOk.answerChunk {k : Reduction} {r : Option (List Byte)} (h : s.MemOk) : (s.answerChunk k r).MemOk := by
  unfold State.answerChunk
  extract_lets +onlyGivenNames key s1
  refine .foldl (.modSvc h) (fun _ _ h1 => ?_)
  split
  · exact .sendResult h1
  · exact .chunkDone h1
  · exact h1

theorem MemOk.tryChunk {vcn collid c : Nat} (h : s.MemOk) : (s.tryChunk vcn collid c).MemOk := by
  unfold State.tryChunk
  split
  · exact h
  · split
    · exact h
    · split
      · exact h
      · exact .ite (.answerChunk h) (.ite (.answerChunk h) h)

theorem MemOk.failChunk {p : Packet} (h : s.MemOk) : (s.failChunk p).MemOk := by
  unfold State.failChunk
  extract_lets +onlyGivenNames key
  split
  · exact h
  · exact .answerChunk h

theorem MemOk.contribute {vcn collid c : Nat} {coll : Option Nat} {p : Contribution} (h : s.MemOk) :
    (s.contribute vcn collid c coll p).MemOk :=
  .tryChunk (.modSvc h)

theorem MemOk.takeContribution {p : Packet} (h : s.MemOk) : (s.takeContribution p).MemOk :=
  .ite (.sendResult h) (.contribute h)

theorem MemOk.chunkRow {k : Coll} {m : Comm} {c : Nat} (h : s.MemOk) : (s.chunkRow k m c).1.MemOk := by
  unfold State.chunkRow
  split
  · exact h
  · exact (BothOk.slotView h).1

theorem MemOk.castAnswer {id c : Nat} {code : Option (BitVec 4)} (h : s.MemOk) : (s.castAnswer id c code).MemOk := by
  unfold State.castAnswer
  split
  · exact h
  · split
    · exact h
    · extract_lets +onlyGivenNames new s1
      have hs1 : s1.MemOk := .modSvc h
      exact .ite hs1 (.chunkDone hs1)

theorem SomeOk.takeCast {p : Packet} (h : s.MemOk) : SomeOk (s.takeCast p) := by
  unfold State.takeCast
  extract_lets +onlyGivenNames key
  split
  · exact trivial
  · exact .respond (.chunkDone h)

theorem MemOk.startChunk {id c : Nat} (h : s.MemOk) : (s.startChunk id c).MemOk := by
  unfold State.startChunk
  split
  · exact h
  · split
    · exact h
    · extract_lets +onlyGivenNames g key r s1 row
      have hr : r.1.MemOk := .chunkRow h
      refine .ite ?_ ?_
      · refine .ite hr ?_
        extract_lets +onlyGivenNames others
        clear_value row
        split
        · exact .chunkDone hr
        · exact .ite (.chunkDone hr) (.foldl (.modSvc hr) fun _ _ h1 => .sendFabric h1)
      · extract_lets +onlyGivenNames root
        clear_value row
        split
        · exact .chunkDone hr
        · exact .ite (.ite (.chunkDone hr) (.contribute hr)) (.sendFabric hr)

theorem MemOk.replayEarly (h : s.MemOk) : s.replayEarly.MemOk := by
  unfold State.replayEarly
  extract_lets +onlyGivenNames ps
  refine .foldl (.modSvc h) (fun _ _ h1 => ?_)
  split
  next e =>
    exact SomeOk.of_some (.takeCast h1) e
  · exact .modSvc h1

theorem MemOk.beginColl {k : Coll} (h : s.MemOk) : (s.beginColl k).MemOk := by
  unfold State.beginColl
  extract_lets +onlyGivenNames g x pc drop
  have hdrop : ∀ s, s.MemOk → (drop s).MemOk := fun _ h1 => .modSvc h1
  refine .ite (.trapNow (hdrop _ h)) ?_
  split
  · exact .replayEarly (.foldl (.modSvc h) fun _ _ h2 => .startChunk h2)
  · exact .trapNow (hdrop _ h)

theorem MemOk.startColls (h : s.MemOk) : s.startColls.MemOk := by
  unfold State.startColls
  refine .foldl h (fun _ _ h1 => ?_)
  split
  · exact .ite (.beginColl h1) h1
  · exact h1

theorem MemOk.countColl {g tile : Nat} {d : Option (List Byte × List CollDest)} (h : s.MemOk) :
    (s.countColl g tile d).MemOk := by
  unfold State.countColl
  split
  · exact h
  · extract_lets +onlyGivenNames n s1
    have hs1 : s1.MemOk := .modOps h
    exact .startColls (.modSvc (.ite hs1 (.modSvc (.tick hs1))))

theorem MemOk.readComm {g a bar tile : Nat} (h : s.MemOk) : (s.readComm g a bar tile).1.MemOk := by
  unfold State.readComm
  refine .iteFst h ?_
  split
  · exact h
  · extract_lets +onlyGivenNames xh
    have hxh : xh.1.MemOk := .readDesc h
    split
    · exact hxh
    · split
      · exact hxh
      · extract_lets +onlyGivenNames r
        have hr : r.1.MemOk := .readDesc hxh
        split
        · exact hr
        · split
          · exact hr
          · extract_lets +onlyGivenNames w
            have hw : w.1.MemOk := .access hr
            split
            · exact hw
            · exact hw

theorem Kept.execColl {o : SyncTile} (h : s.MemOk) : Kept (execColl o s) := by
  unfold Machine.execColl
  extract_lets +onlyGivenNames i drv tile
  refine .run h (fun _ _ _ h1 => ?_)
  extract_lets +onlyGivenNames t
  have ht : t.MemOk := .flushPend h1
  refine .ite (.blockOn (.flushPend h)) ?_
  refine .ite (.trapHere ht) ?_
  extract_lets +onlyGivenNames go
  have hgo : ∀ t d, t.MemOk → (go t d).MemOk := fun _ _ h2 => .force h h2 (fun _ h3 => h3) fun _ h4 =>
    .releaseThen h h4 fun _ h5 => .countColl h5
  refine .ite (hgo _ _ ht) ?_
  extract_lets +onlyGivenNames r
  have hr : r.1.MemOk := .readComm ht
  split
  · exact .laneHitch h hr
  · exact .objectFault hr
  · exact hgo _ _ hr

/-! ### Control -/

theorem MemOk.branchTo {c : Issue} {x : Ctx} {tgt : Nat → Option Nat} (h : s.MemOk) : (s.branchTo c x tgt).MemOk := by
  unfold State.branchTo
  extract_lets +onlyGivenNames f out
  refine .ite (.trapNow h) ?_
  split
  · exact h
  · exact .moved (.commitFlow h)

theorem MemOk.loopWalk {g fuel a last n : Nat} (h : s.MemOk) : (s.loopWalk g fuel a last n).1.MemOk := by
  induction fuel generalizing s a n with
  | zero => exact h
  | succ fuel ih =>
    rw [State.loopWalk]
    refine .iteFst h ?_
    extract_lets r
    have hr : r.1.MemOk := .fetchWord h
    split
    · exact hr
    · exact .iteFst hr (.iteFst hr (ih hr))

theorem MemOk.loopStart {s0 : State} {c : Issue} {x : Ctx} {o : LoopOp} (hs0 : s0.MemOk) (h : s.MemOk) :
    (s0.loopStart s c x o).MemOk := by
  unfold State.loopStart
  extract_lets +onlyGivenNames g loops act last
  refine .ite (.trapHere h) ?_
  extract_lets +onlyGivenNames ready r
  have hready : ∀ s, s.MemOk → (ready s).MemOk := fun _ h1 => .modFlow h1
  have hr : r.1.MemOk := .loopWalk h
  split
  · exact .peekOn (hready _ hs0)
  · exact .blockOn (hready _ hs0)
  · exact .moved (.fetchFault (hready _ hr))
  · exact .trapHere hr
  · exact .moved (.commitFlow hr)

theorem MemOk.loopMeet {s0 : State} {c : Issue} {x : Ctx} {o : LoopOp} (hs0 : s0.MemOk) (h : s.MemOk) :
    (s0.loopMeet s c x o).MemOk := by
  unfold State.loopMeet
  extract_lets +onlyGivenNames g holdOf
  refine .ite (.loopStart hs0 h) ?_
  extract_lets +onlyGivenNames park
  have hpark : ∀ t, t.MemOk → (park t).MemOk := fun _ h1 => .commitFlow h1
  exact .ite (.loopStart hs0 (hpark _ h)) (.stayed (hpark _ hs0))

theorem MemOk.exitLanes {c : Issue} {x : Ctx} {lanes : Lanes} (h : s.MemOk) : (s.exitLanes c x lanes).MemOk := by
  unfold State.exitLanes
  extract_lets +onlyGivenNames g
  split
  · exact h
  · extract_lets +onlyGivenNames r f
    refine .ite (.trapHere h) ?_
    extract_lets +onlyGivenNames stay s1 s2
    have hs1 : s1.MemOk := .commitFlow (.modRegs h)
    have hs2 : s2.MemOk := .ite (.moved hs1) hs1
    exact .ite (.endResident hs2) hs2

theorem Kept.execNop {o : Bare} (h : s.MemOk) : Kept (execNop o s) := .run h fun _ _ _ h1 => h1
theorem Kept.execBra {o : Branch} (h : s.MemOk) : Kept (execBra o s) := .run h fun _ _ _ h1 => .branchTo h1
theorem Kept.execBrd {o : Imm} (h : s.MemOk) : Kept (execBrd o s) := .run h fun _ _ _ h1 => .branchTo h1
theorem Kept.execBri {o : Reg3} (h : s.MemOk) : Kept (execBri o s) := .run h fun _ _ _ h1 => .branchTo h1

theorem Kept.execCall {o : Branch} (h : s.MemOk) : Kept (execCall o s) :=
  .run h fun _ _ _ h1 => .branchTo (.writeNow h1)

theorem Kept.execRet {o : Reg3} (h : s.MemOk) : Kept (execRet o s) := .run h fun _ _ _ h1 => .branchTo h1
theorem Kept.execLoop {o : LoopOp} (h : s.MemOk) : Kept (execLoop o s) := .run h fun _ _ _ h1 => .loopMeet h h1

theorem Kept.execLbrk {o : LoopOp} (h : s.MemOk) : Kept (execLbrk o s) := by
  unfold Machine.execLbrk
  refine .run h (fun _ _ _ h1 => ?_)
  split
  · exact .trapHere h1
  · extract_lets +onlyGivenNames t
    have ht : t.MemOk := .modFlow h1
    split
    · exact ht
    · exact .moved (.commitFlow ht)

theorem Kept.execEnrol {o : JoinOp} (h : s.MemOk) : Kept (execEnrol o s) := .run h fun _ _ _ h1 => .modRegs h1
theorem Kept.execStrike {o : JoinOp} (h : s.MemOk) : Kept (execStrike o s) := .run h fun _ _ _ h1 => .onGroup h1

theorem Kept.execPark {o : JoinOp} (h : s.MemOk) : Kept (execPark o s) := by
  unfold Machine.execPark
  refine .run h (fun _ _ _ h1 => ?_)
  split
  · exact h1
  · exact .moved (.commitFlow (.modRegs h1))

theorem Kept.execRegang {o : Bare} (h : s.MemOk) : Kept (execRegang o s) :=
  .run h fun _ _ _ h1 => .moved (.commitFlow h1)

theorem Kept.execYield {o : Bare} (h : s.MemOk) : Kept (execYield o s) := .run h fun _ _ _ h1 => .onGroup h1
theorem Kept.execExit {o : Bare} (h : s.MemOk) : Kept (execExit o s) := .run h fun _ _ _ h1 => .exitLanes h1
theorem Kept.execJobend {o : Bare} (h : s.MemOk) : Kept (execJobend o s) := .run h fun _ _ _ h1 => .exitLanes h1
theorem Kept.execTrap {o : Imm} (h : s.MemOk) : Kept (execTrap o s) := .run h fun _ _ _ h1 => .ite h1 (.raise h1)
theorem Kept.execBkpt {o : Bare} (h : s.MemOk) : Kept (execBkpt o s) := .run h fun _ _ _ h1 => .ite (.stopGroup h1) h1
theorem Kept.execSleep {o : Bare} (h : s.MemOk) : Kept (execSleep o s) := .run h fun _ _ _ h1 => .onGroup h1

/-! ### System -/

theorem MemOk.readCycles {c : Nat} (h : s.MemOk) : (s.readCycles c).1.MemOk := .modCore (.free h)

theorem MemOk.readReg {g n : Nat} (h : s.MemOk) : (s.readReg g n).1.MemOk := by
  unfold State.readReg
  extract_lets +onlyGivenNames x t job
  split
  · exact .readCycles h
  · exact h
  · split
    · exact h
    · exact .free h
  · exact h
  · exact h
  · exact h
  · exact h
  · exact h
  · exact h
  · exact h
  · exact h
  · exact h
  · exact h
  · exact h
  · exact h
  · exact h
  · exact h
  · exact h

theorem MemOk.sharedReg {c : Issue} {n : Nat} (h : s.MemOk) : (s.sharedReg c n).1.MemOk := by
  unfold State.sharedReg
  split
  · exact .readReg h
  · refine .iteFst (.readReg h) ?_
    extract_lets +onlyGivenNames same
    split
    · exact .modEvent h
    · exact .modEvent (.readReg h)

theorem MemOk.seedLanes {g : Nat} {lanes : Lanes} {v : Word} (h : s.MemOk) : (s.seedLanes g lanes v).MemOk :=
  .modRegs h

theorem Kept.execGets {o : Imm} (h : s.MemOk) : Kept (execGets o s) := by
  unfold Machine.execGets
  extract_lets n regs priv
  refine .run h fun t c x ht => ?_
  extract_lets read
  have hread : ∀ t twin, t.MemOk → (read t twin).MemOk := fun t twin ht => by
    unfold read
    extract_lets r u
    have hu : u.MemOk := .writeNow (.iteFst (.readReg ht) (.sharedReg ht))
    split
    · exact .writeNow hu
    · exact hu
  exact .ite (.force h ht (fun _ h1 => h1) fun _ h1 => hread _ true h1) (hread _ false ht)

theorem Kept.execSetsSrseed {o : Imm} (h : s.MemOk) : Kept (execSetsSrseed o s) :=
  .run h fun _ _ _ h1 => .seedLanes h1

theorem Kept.execSetsSorbnd {o : Imm} (h : s.MemOk) : Kept (execSetsSorbnd o s) :=
  .run h fun _ _ _ h1 => .force h h1 (fun _ h2 => h2) fun _ h3 => .releaseThen h h3 fun _ h4 => .ite h4
    (.onGroup (.requestBoundary h4))

theorem Kept.execSetsHostsig {o : Imm} (h : s.MemOk) : Kept (execSetsHostsig o s) :=
  .run h fun _ _ _ h1 => .force h h1 (fun _ h2 => h2) fun _ h3 => .releaseThen h h3 fun _ h4 => .signalHost h4

theorem Kept.execSetsBankrole {o : Imm} (h : s.MemOk) : Kept (execSetsBankrole o s) :=
  .run h fun _ _ _ h1 => .ite h1 (.onGroup (.modCore h1))

theorem Kept.execSetsTlbinv {o : Imm} (h : s.MemOk) : Kept (execSetsTlbinv o s) :=
  .run h fun _ _ _ h1 => .ite h1 (.ite (.blockOn h) (.onGroup (.startTlbinv h1)))

theorem Kept.execSetsFltres {o : Imm} (h : s.MemOk) : Kept (execSetsFltres o s) :=
  .run h fun _ _ _ h1 => .resolveFault h1

theorem Kept.execMbxpop {o : Bare} (h : s.MemOk) : Kept (execMbxpop o s) := by
  unfold Machine.execMbxpop
  refine .run h (fun _ _ _ h1 => ?_)
  extract_lets +onlyGivenNames core t
  have ht : t.MemOk := .drainGroup (.flushPend h1)
  refine .ite (.blockOn ht) ?_
  refine .ite (.blockOn ht) ?_
  split
  · exact .ite (.blockOn ht) (.moved (.modFlow (.onGroup (.clearServiceFlag ht))))
  · exact .ite (.startPart ht) (.blockOn ht)

theorem Kept.execEnqop {o : Imm} (h : s.MemOk) : Kept (execEnqop o s) := by
  unfold Machine.execEnqop
  extract_lets +onlyGivenNames i
  refine .run h (fun _ _ _ h1 => ?_)
  extract_lets +onlyGivenNames k r
  have hr : r.1.MemOk := .readDesc h1
  split
  · exact .descHitch h hr
  · refine .force h hr (fun _ h2 => h2) (fun _ h3 => ?_)
    refine .releaseThen h h3 (fun _ h4 => ?_)
    extract_lets +onlyGivenNames status
    have hstatus : ∀ t n, t.MemOk → (status t n).MemOk := fun _ _ h5 => .putLater h h5
    split
    · exact hstatus _ _ h4
    · refine .ite (.blockOn h) ?_
      refine .ite (.blockOn h) ?_
      split
      · exact hstatus _ _ (.appendRecord h4)
      · exact .sendTagged (.result h4)

theorem Kept.execEvsig {o : Reg3} (h : s.MemOk) : Kept (execEvsig o s) := by
  unfold Machine.execEvsig
  extract_lets +onlyGivenNames i
  refine .run h (fun _ _ _ h1 => ?_)
  refine .force h h1 (fun _ h2 => h2) (fun _ h3 => ?_)
  extract_lets +onlyGivenNames name n status
  have hstatus : ∀ t k, t.MemOk → (status t k).MemOk := fun _ _ h4 => .putLater h h4
  exact .ite (hstatus _ _ h3) (.ite (hstatus _ _ h3) (.releaseThen h h3 fun _ h5 => hstatus _ _ (.decFlag h5)))

/-! ### Packets -/

theorem MemOk.receive {p : Packet} (h : s.MemOk) : (s.receive p).MemOk :=
  .ite (.toInbox h) (.ite h (.advanceRx (.setRx h)))

theorem SomeOk.replicate {p : Packet} (h : s.MemOk) : SomeOk (s.replicate p) :=
  .map (.foldlM h fun _ _ h1 => .place h1) fun _ h2 => .receive h2

theorem SomeOk.accept {inPort : Option Nat} {p : Packet} (h : s.MemOk) : SomeOk (s.accept inPort p) := by
  unfold State.accept
  extract_lets +onlyGivenNames stop
  have hstop : ∀ c, (stop c).MemOk := fun _ => by
    unfold stop
    extract_lets +onlyGivenNames t
    have ht : t.MemOk := .endPacket h
    exact .ite (.failChunk ht) ht
  refine .ite (hstop _) ?_
  split
  · exact hstop _
  · exact .ite (.place h) (.ite (.replicate h) (.receive h))

theorem MemOk.arrivePacket {inPort : Option Nat} {p : Packet} (h : s.MemOk) : (s.arrivePacket inPort p).MemOk := by
  unfold State.arrivePacket
  refine .ite h ?_
  split
  · exact h
  next e =>
    have h1 : State.MemOk _ := SomeOk.of_some (.accept h) e
    split
    · exact h1
    · exact .modFab h1

theorem MemOk.takeRead {p : Packet} {rsp : Nat} (h : s.MemOk) : (s.takeRead p rsp).MemOk := by
  unfold State.takeRead
  split
  · exact .refuse h
  · extract_lets +onlyGivenNames s1
    have hs1 : s1.MemOk := .recallLine h
    exact .ite (.refuse hs1) (.respond (.homeLine hs1))

theorem MemOk.takeAtomic {p : Packet} (h : s.MemOk) : (s.takeAtomic p).MemOk := by
  unfold State.takeAtomic
  extract_lets +onlyGivenNames others
  have hothers : ∀ s, s.MemOk → (others s).MemOk := fun _ h1 => .modSvc h1
  refine .ite (.modSvc (.ite (hothers _ h) h)) ?_
  split
  · exact .refuse (hothers _ h)
  · exact .refuse (hothers _ h)
  · extract_lets +onlyGivenNames s1
    have hs1 : s1.MemOk := .recallLine (hothers _ h)
    exact .ite (.refuse hs1) (.answerWrite (.inboundWrite (.homeLine hs1)))

theorem MemOk.takeMulticast {p : Packet} (h : s.MemOk) : (s.takeMulticast p).MemOk := .ite h (.takeWrite h)

theorem MemOk.takeCopy {p : Packet} (h : s.MemOk) : (s.takeCopy p).MemOk := by
  unfold State.takeCopy
  extract_lets +onlyGivenNames a
  refine .ite ?_ ?_
  · split
    next e =>
      exact SomeOk.of_some (.takeCast h) e
    · exact .modSvc h
  · split
    · exact .refuse h
    · exact .answerWrite (.foldl h fun _ _ h1 => .inboundWrite h1)

theorem MemOk.takeDelta {p : Packet} (h : s.MemOk) : (s.takeDelta p).MemOk := by
  unfold State.takeDelta
  extract_lets +onlyGivenNames t a
  refine .ite (.refuse h) ?_
  split
  · exact .refuse h
  · exact .ite (.refuse h) (.ite (.refuse h) (.respond (.setBytes (.homeLine (.recallLine h)))))

theorem MemOk.takeEvsub {p : Packet} (h : s.MemOk) : (s.takeEvsub p).MemOk :=
  .ite (.sendSignal h) (.ite (.sendSignal h) (.ite (.sendEvsig h) h))

theorem MemOk.takeEvsig {p : Packet} (h : s.MemOk) : (s.takeEvsig p).MemOk := by
  unfold State.takeEvsig
  extract_lets +onlyGivenNames t name
  split
  · exact h
  · exact .ite (.loseSub h) (.foldl h fun _ _ h1 => .decJob h1)

theorem MemOk.resendEvsig {t : Nat} {name : Word} (h : s.MemOk) : (s.resendEvsig t name).MemOk :=
  .foldl (.foldl h fun _ _ h1 => .ite h1 (.sendEvsig h1)) fun _ _ h2 => .ite (.modSvc h2) (.sendSignal h2)

theorem MemOk.closeTag {tag : Nat} {gid : Option Nat} (h : s.MemOk) : (s.closeTag tag gid).MemOk := by
  unfold State.closeTag
  extract_lets +onlyGivenNames s1
  have hs1 : s1.MemOk := .dropTag h
  split
  · exact .modOps hs1
  · exact hs1

theorem MemOk.capDone {g cap : Nat} (h : s.MemOk) : (s.capDone g cap).MemOk := .modOps h
theorem MemOk.noteFence {g : Nat} {bit : BitVec 4} (h : s.MemOk) : (s.noteFence g bit).MemOk := .modOps h

theorem MemOk.loadAnswer {g pend cap : Nat} {bytes : List (Nat × Nat × Nat)} {data : List Byte} (h : s.MemOk) :
    (s.loadAnswer g pend cap bytes data).MemOk :=
  .closePend (.foldl h fun _ _ h1 => .orPend h1)

theorem MemOk.deltaAnswer {t i g : Nat} {reply : Option (Packet × Nat)} {ok : Bool} (h : s.MemOk) :
    (s.deltaAnswer t i g reply ok).MemOk := by
  unfold State.deltaAnswer
  extract_lets +onlyGivenNames s1
  have hs1 : s1.MemOk := .ite h (.modStripe h)
  split
  · extract_lets +onlyGivenNames s2
    have hs2 : s2.MemOk := .modOps hs1
    exact .ite hs2 (.noteFence hs2)
  · exact .ite (.ite hs1 (.modFab hs1)) (.respond hs1)

theorem MemOk.noteMember {id : Nat} {bit : BitVec 4} (h : s.MemOk) : (s.noteMember id bit).MemOk := by
  unfold State.noteMember
  split
  · exact h
  · exact .noteFence h

theorem MemOk.memberAnswer {id idx : Nat} {ok : Bool} (h : s.MemOk) : (s.memberAnswer id idx ok).MemOk := by
  unfold State.memberAnswer
  split
  · exact h
  · extract_lets +onlyGivenNames m s1
    have hs1 : s1.MemOk := .modSvc h
    refine .ite hs1 ?_
    extract_lets +onlyGivenNames good bits s2
    have hs2 : s2.MemOk := .modSvc hs1
    exact .fillPend (.ite (.noteFence hs2) hs2)

theorem MemOk.rebuildAnswer {t i row : Nat} {data : Option (List Byte)} (h : s.MemOk) :
    (s.rebuildAnswer t i row data).MemOk :=
  .modStripe h

theorem MemOk.peekAnswer {g place : Nat} {data : List Byte} (h : s.MemOk) : (s.peekAnswer g place data).MemOk :=
  .modOps h

theorem MemOk.appendAnswer {g pend t q : Nat} {ok : Bool} (h : s.MemOk) : (s.appendAnswer g pend t q ok).MemOk :=
  .fillPend (.ite (.modQueue h) h)

theorem MemOk.succeed {e : Errand} {p : Packet} (h : s.MemOk) : (s.succeed e p).MemOk := by
  unfold State.succeed
  split
  · exact .capDone (.loadAnswer h)
  · exact .capDone (.ite (.noteFence h) h)
  · exact .capDone (.foldl (.ite (.noteFence h) h) fun _ _ h1 => .fillPend h1)
  · exact .memberAnswer (.ite (.noteMember h) h)
  · exact .rowAnswer h
  · exact .flagAnswer h
  · exact .ite (.chunkDone h) (.chunkDone h)
  · exact .castAnswer h
  · split
    · exact h
    · exact .closeColl h
  · exact .deltaAnswer h
  · exact .rebuildAnswer h
  · exact .peekAnswer h
  · exact .modTenant h
  · exact h
  · exact .appendAnswer h

theorem MemOk.lanesFail {g cap : Nat} {lanes : List (Nat × Nat)} {write : Bool} {code : BitVec 4} {detail : DWord}
    (h : s.MemOk) : (s.lanesFail g cap lanes write code detail).MemOk := by
  unfold State.lanesFail
  split
  · exact h
  · exact .ite (.modOps h) (.raiseFrom h)

theorem MemOk.notePewter {g cap : Nat} (h : s.MemOk) : (s.notePewter g cap).MemOk := .modOps h

theorem MemOk.fail {e : Errand} {code : BitVec 4} {detail : DWord} (h : s.MemOk) : (s.fail e code detail).MemOk := by
  unfold State.fail
  split
  · exact .lanesFail h
  · exact .lanesFail (.ite (.notePewter h) h)
  · exact .lanesFail h
  · exact .memberAnswer h
  · exact .rowAnswer h
  · exact .flagAnswer h
  · exact .chunkDone h
  · exact .castAnswer h
  · split
    · exact h
    · exact .closeColl h
  · exact .deltaAnswer h
  · exact .rebuildAnswer h
  · exact .modOps h
  · exact .modTenant h
  · exact .modTenant h
  · exact .appendAnswer h

theorem MemOk.takeResponse {p : Packet} (h : s.MemOk) : (s.takeResponse p).MemOk := by
  unfold State.takeResponse
  split
  · exact h
  · exact .succeed (.closeTag h)

theorem MemOk.takeNotice {p : Packet} (h : s.MemOk) : (s.takeNotice p).MemOk := by
  unfold State.takeNotice
  extract_lets +onlyGivenNames d typ code
  refine .ite (.loseSub h) ?_
  refine .ite (.resendEvsig h) ?_
  split
  · exact h
  · exact .ite h (.fail (.closeTag h))

theorem MemOk.endCustody {sel : Packet → Bool} {code : BitVec 4} (h : s.MemOk) : (s.endCustody sel code).MemOk :=
  .foldl (.modFab h) fun _ _ h1 => .endPacket h1

theorem MemOk.endPart {p : Packet} {code : BitVec 4} (h : s.MemOk) : (s.endPart p code).MemOk :=
  .failChunk (.refuse (.modSvc h))

theorem MemOk.takeRestart {p : Packet} (h : s.MemOk) : (s.takeRestart p).MemOk :=
  .inject (.foldl (.foldl (.modSvc (.modFab (.endCustody h))) fun _ _ h1 => .refuse h1) fun _ _ h2 => .endPart h2)

theorem MemOk.markDead (h : s.MemOk) : s.markDead.MemOk :=
  .foldl (.modSvc (.foldl (.endCustody h) fun _ _ h1 => .loseSub h1)) fun _ _ h2 => .tryChunk h2

theorem MemOk.writeDead {clear : Bool} (h : s.MemOk) : (s.writeDead clear).MemOk := by
  unfold State.writeDead
  split
  · exact h
  · exact .modFab h

theorem MemOk.takeHead {typ : Nat} {p : Packet} (h : s.MemOk) (e : s.takeHead typ = some (p, t)) : t.MemOk := by
  unfold State.takeHead at e
  split at e
  · split at e
    · cases e; exact .modFab h
    · cases e
  · cases e

theorem Kept.onHead {typ : Nat} {f : State → Packet → State} (h : s.MemOk) (hf : ∀ t p, t.MemOk → (f t p).MemOk) :
    Kept (s.onHead typ f) := by
  unfold State.onHead
  split
  · exact h
  next e =>
    have ht := h.takeHead e
    exact .giveTags (.ite (.refuse ht) (hf _ _ ht))

theorem Kept.onMgmt {ok : Nat → Bool} {f : State → Packet → State} (h : s.MemOk)
    (hf : ∀ t p, t.MemOk → (f t p).MemOk) : Kept (s.onMgmt ok f) := by
  unfold State.onMgmt
  split
  · exact h
  next e => exact Kept.ite (hf _ _ (h.takeHead e)) h

theorem Kept.execRd (h : s.MemOk) : Kept (execRd s) := .onHead h fun _ _ h1 => .takeRead h1
theorem Kept.execRdrsp (h : s.MemOk) : Kept (execRdrsp s) := .onHead h fun _ _ h1 => .takeResponse h1
theorem Kept.execWr (h : s.MemOk) : Kept (execWr s) := .onHead h fun _ _ h1 => .takeWrite h1
theorem Kept.execWrack (h : s.MemOk) : Kept (execWrack s) := .onHead h fun _ _ h1 => .takeResponse h1
theorem Kept.execAtReq (h : s.MemOk) : Kept (execAtReq s) := .onHead h fun _ _ h1 => .takeAtomic h1
theorem Kept.execAtrsp (h : s.MemOk) : Kept (execAtrsp s) := .onHead h fun _ _ h1 => .takeResponse h1
theorem Kept.execMc (h : s.MemOk) : Kept (execMc s) := .onHead h fun _ _ h1 => .takeMulticast h1
theorem Kept.execMcack (h : s.MemOk) : Kept (execMcack s) := .onHead h fun _ _ h1 => .takeResponse h1
theorem Kept.execRcp (h : s.MemOk) : Kept (execRcp s) := .onHead h fun _ _ h1 => .takeCopy h1
theorem Kept.execRcpack (h : s.MemOk) : Kept (execRcpack s) := .onHead h fun _ _ h1 => .takeResponse h1
theorem Kept.execRedPkt (h : s.MemOk) : Kept (execRedPkt s) := .onHead h fun _ _ h1 => .takeContribution h1
theorem Kept.execRedres (h : s.MemOk) : Kept (execRedres s) := .onHead h fun _ _ h1 => .takeResponse h1
theorem Kept.execEvsub (h : s.MemOk) : Kept (execEvsub s) := .onHead h fun _ _ h1 => .takeEvsub h1
theorem Kept.execEvsigPkt (h : s.MemOk) : Kept (execEvsigPkt s) := .onHead h fun _ _ h1 => .takeEvsig h1
theorem Kept.execSdelta (h : s.MemOk) : Kept (execSdelta s) := .onHead h fun _ _ h1 => .takeDelta h1
theorem Kept.execSdack (h : s.MemOk) : Kept (execSdack s) := .onHead h fun _ _ h1 => .takeResponse h1
theorem Kept.execSrbld (h : s.MemOk) : Kept (execSrbld s) := .onHead h fun _ _ h1 => .takeRead h1
theorem Kept.execSrbldrsp (h : s.MemOk) : Kept (execSrbldrsp s) := .onHead h fun _ _ h1 => .takeResponse h1
theorem Kept.execErrNotice (h : s.MemOk) : Kept (execErrNotice s) := .onHead h fun _ _ h1 => .takeNotice h1
theorem Kept.execGap (h : s.MemOk) : Kept (execGap s) := .onHead h fun _ _ h1 => .skipSeq h1
theorem Kept.execRestart (h : s.MemOk) : Kept (execRestart s) := .onMgmt h fun _ _ h1 => .takeRestart h1

theorem Kept.execRestartAck (h : s.MemOk) : Kept (execRestartAck s) :=
  .onMgmt h fun _ _ h1 => .releaseAll (.modFab h1)

theorem Kept.execMgmt (h : s.MemOk) : Kept (execMgmt s) := .onMgmt h fun _ _ h1 => .modFab h1

theorem Kept.execPacketForward {inPort : Option Nat} {p : Packet} (h : s.MemOk) :
    Kept (execPacketForward inPort p s) :=
  .arrivePacket h

theorem Kept.execCustodyAck {held : Nat} (h : s.MemOk) : Kept (execCustodyAck held s) := .releaseAll (.modFab h)

theorem Kept.execCustodyTimeout {held : Nat} (h : s.MemOk) : Kept (execCustodyTimeout held s) := by
  unfold Machine.execCustodyTimeout
  split
  · exact .releaseAll (.endPacket (.modFab h))
  · extract_lets +onlyGivenNames i
    split
    · exact .refuse (.modSvc h)
    · split
      · exact .endPart h
      · exact h

theorem Kept.execLocaltmo {tag : BitVec 16} (h : s.MemOk) : Kept (execLocaltmo tag s) := by
  unfold Machine.execLocaltmo
  split
  · exact h
  · exact .fail (.retireTag (.closeTag h))

theorem Kept.execTagReuseTimeout {tag : BitVec 16} (h : s.MemOk) : Kept (execTagReuseTimeout tag s) :=
  .giveTags (.modFab h)

theorem Kept.execGapSkipTimeout {stream : StreamKey} (h : s.MemOk) : Kept (execGapSkipTimeout stream s) :=
  MemOk.ite h (.skipSeq h)

theorem Kept.execReductionTimeout {collid : Word} {chunk : Nat} (h : s.MemOk) :
    Kept (execReductionTimeout collid chunk s) :=
  .foldl h fun _ _ h1 => .answerChunk h1

theorem Kept.execReductionForget {collid : Word} {chunk : Nat} (h : s.MemOk) :
    Kept (execReductionForget collid chunk s) :=
  .modSvc h

theorem Kept.execEvsigResendStop {flag : Nat} {peer : BitVec 12} (h : s.MemOk) :
    Kept (execEvsigResendStop flag peer s) :=
  .modSvc h

theorem Kept.execCollChunkTimeout {core : Nat} {collid : Word} {chunk : Nat} (h : s.MemOk) :
    Kept (execCollChunkTimeout core collid chunk s) := by
  unfold Machine.execCollChunkTimeout
  split
  · exact h
  · exact .chunkDone h

theorem Kept.execDeadmapSet (h : s.MemOk) : Kept (execDeadmapSet s) := .markDead (.writeDead h)
theorem Kept.execDeadmapClear (h : s.MemOk) : Kept (execDeadmapClear s) := .writeDead h
theorem Kept.execCapRefill (h : s.MemOk) : Kept (execCapRefill s) := .releaseAll (.modFab h)

/-! ### Package -/

theorem MemOk.noteAlarm (h : s.MemOk) : s.noteAlarm.MemOk := .level (.level h)
theorem MemOk.volatileReset (h : s.MemOk) : s.volatileReset.MemOk := h

theorem MemOk.phaseOne (h : s.MemOk) : s.phaseOne.MemOk := by
  unfold State.phaseOne
  extract_lets +onlyGivenNames held t
  have ht : t.MemOk := .volatileReset (.foldl (.modFab h) fun _ _ h1 => .endPacketBy h1)
  exact .ite (.modPkg ht) ht

theorem MemOk.resetTrigger (h : s.MemOk) : s.resetTrigger.MemOk := by
  unfold State.resetTrigger
  split
  · exact .phaseOne h
  · exact .phaseOne h
  · exact .phaseOne h
  · exact h

theorem MemOk.wipeAll (h : s.MemOk) : s.wipeAll.MemOk := memOk_wipeAll h
theorem MemOk.powerDown (h : s.MemOk) : s.powerDown.MemOk := .modPwr (.modPkg (.wipeAll (.volatileReset h)))
theorem MemOk.trip (h : s.MemOk) : s.trip.MemOk := .powerDown (.modPwr h)
theorem MemOk.extendSlot {i : Nat} {d : BitVec 256} (h : s.MemOk) : (s.extendSlot i d).MemOk := .modHost h

theorem MemOk.policyWrite {w : Nat × DWord} (h : s.MemOk) : (s.policyWrite w).MemOk :=
  .ite (.modFab h) (.ite (((.modHost h))) (.ite (((.modHost h))) (.ite (((.modHost h)))
    (.ite (((.modHost h))) (.ite (.ite h (.modFab h)) (.ite (.modFab h) h))))))

theorem MemOk.rotateKey {t : Nat} (h : s.MemOk) : (s.rotateKey t).MemOk := .modTenant h

theorem MemOk.applyRepair (h : s.MemOk) : s.applyRepair.MemOk := by
  unfold State.applyRepair
  split
  · exact .modPkg h
  · exact .foldl (.modPkg h) fun _ _ h1 => .modPort h1

theorem MemOk.writeRepair {c : RepairCopy} (h : s.MemOk) : (s.writeRepair c).MemOk := .ite (.modPkg h) h
theorem MemOk.readRepair {off n : Nat} (h : s.MemOk) : (s.readRepair off n).MemOk := .ite (.modPkg h) h
theorem MemOk.finishRotation (h : s.MemOk) : s.finishRotation.MemOk := .modPkg (.foldl h fun _ _ h1 => .rotateKey h1)

theorem MemOk.boot (h : s.MemOk) : s.boot.MemOk := by
  unfold State.boot
  extract_lets +onlyGivenNames s1 s2 s3 lc fw s4 rh s5 po s6 s7 s8 s9 s10
  have hs3 : s3.MemOk := .extendSlot (.modHost (.finishRotation (.applyRepair h)))
  have hs4 : s4.MemOk := .ite (.extendSlot hs3) hs3
  have hs5 : s5.MemOk := .ite (.extendSlot hs4) hs4
  have hs6 : s6.MemOk := by
    unfold s6
    clear_value po
    split
    · exact hs5
    · exact .foldl hs5 fun _ _ h1 => .policyWrite h1
  have hs9 : s9.MemOk := .extendSlot (.extendSlot (.extendSlot hs6))
  have hs10 : s10.MemOk := by
    unfold s10
    clear_value rh
    split
    · exact hs9
    · exact .setBytes hs9
  exact .modPkg (.modFab (.modHost hs10))

theorem MemOk.portEvent (h : s.MemOk) : s.portEvent.MemOk := .signal h
theorem MemOk.checkPort {n : Nat} (h : s.MemOk) : (s.checkPort n).MemOk := .ite (.portEvent (.modPort h)) h

theorem MemOk.failLane {n lane : Nat} (h : s.MemOk) : (s.failLane n lane).MemOk := by
  unfold State.failLane
  extract_lets +onlyGivenNames k
  refine .ite (.checkPort (.modPort h)) ?_
  refine .ite h ?_
  extract_lets +onlyGivenNames free s1
  have hs1 : s1.MemOk := .modPort h
  exact .checkPort (.ite (.portEvent hs1) hs1)

theorem MemOk.predict {n lane : Nat} (h : s.MemOk) : (s.predict n lane).MemOk := by
  unfold State.predict
  extract_lets +onlyGivenNames k s1
  have hs1 : s1.MemOk := .portEvent h
  exact .ite hs1 (.ite (.portEvent (.modPort hs1)) (.failLane hs1))

theorem MemOk.resend {k : Custody} (h : s.MemOk) : (s.resend k).MemOk := by
  unfold State.resend
  refine .ite (.modFab h) ?_
  extract_lets +onlyGivenNames x__src p
  split
  next e =>
    exact SomeOk.of_some (.place h) e
  · exact .modFab h

theorem MemOk.endSpare {r : BitVec 3} (h : s.MemOk) : (s.endSpare r).MemOk := .signal (.modPkg h)

theorem MemOk.startSpare {instant : Option (BitVec 3)} (h : s.MemOk) : (s.startSpare instant).MemOk := by
  unfold State.startSpare
  extract_lets +onlyGivenNames v
  refine .ite (.modPkg h) ?_
  extract_lets +onlyGivenNames s1
  have hs1 : s1.MemOk := .modPkg h
  refine .ite (.endSpare hs1) ?_
  split
  · exact .endSpare hs1
  · exact .modPkg hs1

theorem MemOk.finishSpare (h : s.MemOk) : s.finishSpare.MemOk := by
  unfold State.finishSpare
  split
  · exact h
  · extract_lets +onlyGivenNames key
    split
    next e =>
      have h1 : State.MemOk _ := MemOk.of_fst (.free h) e
      exact .ite (.endSpare h1) (.ite (.ite (.endSpare h1) (.ite (.endSpare h1) (.endSpare (.modPkg h1))))
        (.ite (.endSpare h1) (.endSpare (.modPkg h1))))

theorem MemOk.unmail {e : Nat} (h : s.MemOk) : (s.unmail e).MemOk := .enterPool (.modEvent h)

theorem MemOk.retireCore {c : Nat} (h : s.MemOk) : (s.retireCore c).MemOk :=
  .ite h (.foldl (.modPkg h) fun _ _ h1 => .ite (.unmail h1) h1)

theorem MemOk.powerCoreDown {c : Nat} (h : s.MemOk) : (s.powerCoreDown c).MemOk := .ite h (.modPkg (.modCore h))
theorem MemOk.sbView (h : s.MemOk) : s.sbView.MemOk := .ite h h

theorem MemOk.onSideband {addr : BitVec 7} {f : Power → Power} (h : s.MemOk) : (s.onSideband addr f).MemOk :=
  .ite h (.modPwr h)

theorem Kept.execInputVoltageChange {mv : Nat} (h : s.MemOk) : Kept (execInputVoltageChange mv s) := by
  unfold Machine.execInputVoltageChange
  extract_lets +onlyGivenNames gone t
  have ht : t.MemOk := .modPwr h
  exact MemOk.ite (.ite (.powerDown ht) ht) (.ite (.noteAlarm ht) ht)

theorem Kept.execPowerInputLost (h : s.MemOk) : Kept (execPowerInputLost s) := .modPwr (.ite (.powerDown h) h)

theorem Kept.execPowerOnReset {holdupOk : Bool} (h : s.MemOk) : Kept (execPowerOnReset holdupOk s) :=
  .ite h (.phaseOne (.modPkg (.modPwr h)))

theorem Kept.execPerstNAssert (h : s.MemOk) : Kept (execPerstNAssert s) := .resetTrigger (.modPwr h)

theorem Kept.execPerstNRelease (h : s.MemOk) : Kept (execPerstNRelease s) := by
  unfold Machine.execPerstNRelease
  extract_lets +onlyGivenNames t
  have ht : t.MemOk := .modPwr h
  exact MemOk.ite (.modPkg ht) ht

theorem Kept.execPcieHotReset (h : s.MemOk) : Kept (execPcieHotReset s) := .resetTrigger h
theorem Kept.execDevrst (h : s.MemOk) : Kept (execDevrst s) := .resetTrigger h
theorem Kept.execPersistDrain (h : s.MemOk) : Kept (execPersistDrain s) := MemOk.ite (.modPkg h) h
theorem Kept.execWipe (h : s.MemOk) : Kept (execWipe s) := MemOk.ite (.modPkg (.wipeAll h)) h
theorem Kept.execMeasuredBoot (h : s.MemOk) : Kept (execMeasuredBoot s) := MemOk.ite h (.ite (.modPkg h) (.boot h))

theorem Kept.execModReady (h : s.MemOk) : Kept (execModReady s) :=
  MemOk.ite h (.foldl (.modPkg h) fun _ _ h1 => .startWorkers h1)

theorem Kept.execThermalTrip (h : s.MemOk) : Kept (execThermalTrip s) := MemOk.ite (.trip h) h

theorem Kept.execThermSample {celsius : BitVec 7} (h : s.MemOk) : Kept (execThermSample celsius s) :=
  .ite h (.ite (.trip h) (.noteAlarm (.modPwr h)))

theorem Kept.execPowerWindow {watts : BitVec 12} (h : s.MemOk) : Kept (execPowerWindow watts s) :=
  .ite h (.noteAlarm (.modPwr h))

theorem Kept.execPwrAlertChange (h : s.MemOk) : Kept (execPwrAlertChange s) := .noteAlarm (.modPwr h)

theorem Kept.execSbDynamicAddress {addr : BitVec 7} (h : s.MemOk) : Kept (execSbDynamicAddress addr s) :=
  MemOk.ite (.modPwr h) h

theorem Kept.execSbIndexWrite {data : SbWrite} (h : s.MemOk) : Kept (execSbIndexWrite data s) := .onSideband h
theorem Kept.execSbRead {count : SbRead} (h : s.MemOk) : Kept (execSbRead count s) := .onSideband h
theorem Kept.execSpareNop (h : s.MemOk) : Kept (execSpareNop s) := .startSpare h
theorem Kept.execSoftSpare (h : s.MemOk) : Kept (execSoftSpare s) := .startSpare h
theorem Kept.execHardSpare (h : s.MemOk) : Kept (execHardSpare s) := .startSpare h
theorem Kept.execSpareReserved (h : s.MemOk) : Kept (execSpareReserved s) := .startSpare h
theorem Kept.execSpareDone (h : s.MemOk) : Kept (execSpareDone s) := .finishSpare h

theorem Kept.execCoreRetire {mask : DWord} (h : s.MemOk) : Kept (execCoreRetire mask s) :=
  .foldl (.foldl h fun _ _ h1 => .retireCore h1) fun _ _ h2 => .noteRoles h2

theorem Kept.execCorePowerDown {core : Nat} (h : s.MemOk) : Kept (execCorePowerDown core s) := .powerCoreDown h

theorem Kept.execPortRetrain {port : Nat} {margin : BitVec 2} (h : s.MemOk) : Kept (execPortRetrain port margin s) :=
  MemOk.ite (.modPort h) h

theorem Kept.execPortDisable {port : Nat} (h : s.MemOk) : Kept (execPortDisable port s) := by
  unfold Machine.execPortDisable
  refine .ite h ?_
  extract_lets +onlyGivenNames t
  have ht : t.MemOk := .modPort h
  exact MemOk.ite (.portEvent ht) ht

theorem Kept.execEyeMeasurement {port lane : Nat} {margin : BitVec 8} {fec : FecCount} (h : s.MemOk) :
    Kept (execEyeMeasurement port lane margin fec s) := by
  unfold Machine.execEyeMeasurement
  refine .ite h ?_
  extract_lets +onlyGivenNames cfg thr poor n hit t
  have ht : t.MemOk := .modPort h
  exact MemOk.ite (.predict ht) (.ite (.portEvent ht) ht)

theorem Kept.execLaneFailure {port lane : Nat} (h : s.MemOk) : Kept (execLaneFailure port lane s) :=
  MemOk.ite h (.failLane h)

theorem Kept.execPortResume {port : Nat} (h : s.MemOk) : Kept (execPortResume port s) :=
  .foldl (.modFab h) fun _ _ h1 => .resend h1

theorem Kept.execPortTrained {port : Nat} (h : s.MemOk) : Kept (execPortTrained port s) :=
  .ite h (.foldl (.modPort h) fun _ _ h1 => .inject h1)

theorem Kept.execPortDown {port : Nat} (h : s.MemOk) : Kept (execPortDown port s) :=
  MemOk.ite (.portEvent (.modPort h)) h

theorem Kept.execMatrixIdleGap {core : Nat} (h : s.MemOk) : Kept (execMatrixIdleGap core s) := .modCore h
theorem Kept.execLinkTraining {flit : Bool} (h : s.MemOk) : Kept (execLinkTraining flit s) := .modPkg h

/-! ### Tenants -/

theorem MemOk.setTenState {t : Nat} {st : TenState} (h : s.MemOk) : (s.setTenState t st).MemOk :=
  .signal (.modTenant h)

theorem MemOk.setErr {t : Nat} {e : BitVec 4} (h : s.MemOk) : (s.setErr t e).MemOk := .modTenant h

theorem MemOk.clearResidents {c : Nat} (h : s.MemOk) : (s.clearResidents c).MemOk := by
  refine .foldl h fun t g ht => .ite ht ?_
  extract_lets u
  have hu : u.MemOk := .unissue (.drainGroup ht)
  clear_value u
  exact hu

theorem MemOk.restartWorkers {t : Nat} (h : s.MemOk) : (s.restartWorkers t).MemOk :=
  .foldl (.noteRoles h) fun _ _ h1 => .ite h1 (.startWorkers (.clearResidents h1))

theorem MemOk.dropInjected {t : Nat} (h : s.MemOk) : (s.dropInjected t).MemOk := .modFab h

theorem MemOk.loseSubscribers {t : Nat} (h : s.MemOk) : (s.loseSubscribers t).MemOk :=
  .foldl (.modSvc h) fun _ _ h1 => .sendEvsig h1

theorem MemOk.endHeld {t : Nat} (h : s.MemOk) : (s.endHeld t).MemOk := .foldl h fun _ _ h1 => .refuse h1

theorem MemOk.killTenant {t : Nat} (h : s.MemOk) : (s.killTenant t).MemOk :=
  .dropInjected (.modSvc (.foldl (.foldl (.endHeld h) fun _ _ h1 => .unissue h1) fun _ _ h2 => .retireTag h2))

theorem MemOk.wipeShare {t : Nat} (h : s.MemOk) : (s.wipeShare t).MemOk := by
  unfold State.wipeShare
  extract_lets +onlyGivenNames cs s1
  have hs1 : s1.MemOk := .foldl h fun _ _ h1 => .modCore (.wipeRange (.wipeRange (.wipeRange (.wipeRange h1))))
  exact .foldl hs1 fun _ _ h2 => .wipeRange h2

theorem MemOk.resetTenantRows {t : Nat} (h : s.MemOk) : (s.resetTenantRows t).MemOk := .modTenant (.loseSubscribers h)

theorem MemOk.startTenantReset {t : Nat} {disable : Bool} (h : s.MemOk) : (s.startTenantReset t disable).MemOk :=
  .resetTenantRows (.wipeShare (.killTenant (.setTenState (.modTenant h))))

theorem MemOk.tenantTrigger {t : Nat} {disable : Bool} (h : s.MemOk) : (s.tenantTrigger t disable).MemOk := by
  unfold State.tenantTrigger
  split
  · exact h
  · exact .startTenantReset h
  · exact .modTenant h

theorem MemOk.enableNow {t : Nat} (h : s.MemOk) : (s.enableNow t).MemOk :=
  .ite (.setErr h) (.restartWorkers (.setTenState (.modTenant h)))

theorem MemOk.enableTenant {t : Nat} (h : s.MemOk) : (s.enableTenant t).MemOk :=
  .ite (.setErr h) (.ite (.modTenant h) (.enableNow h))

theorem MemOk.writeTenCfg {t : Nat} {v : DWord} (h : s.MemOk) : (s.writeTenCfg t v).MemOk :=
  .ite (.setErr h) (.modTenant h)

theorem MemOk.writeTenPch {t : Nat} {v : DWord} (h : s.MemOk) : (s.writeTenPch t v).MemOk :=
  .ite (.setErr h) (.modTenant h)

theorem MemOk.eraseTenant {t : Nat} (h : s.MemOk) : (s.eraseTenant t).MemOk := .ite (.setErr h) (.modTenant h)

theorem MemOk.endRotation {t : Nat} (h : s.MemOk) : (s.endRotation t).MemOk := by
  unfold State.endRotation
  refine .ite h ?_
  extract_lets +onlyGivenNames wait s1 s2
  have hs1 : s1.MemOk := .modTenant (.rotateKey h)
  have hs2 : s2.MemOk := .ite (.enableNow hs1) hs1
  exact .ite (.resetTrigger (.modPkg hs2)) hs2

theorem MemOk.streamError {t q : Nat} {e : BitVec 4} {stop : Bool} (h : s.MemOk) : (s.streamError t q e stop).MemOk :=
  .signal (.modQueue h)

theorem MemOk.writeQcfg {t q : Nat} {v : DWord} (h : s.MemOk) : (s.writeQcfg t q v).MemOk := by
  unfold State.writeQcfg
  extract_lets +onlyGivenNames k
  refine .ite (.ite h (.modQueue h)) ?_
  extract_lets +onlyGivenNames n s1
  have hs1 : s1.MemOk := .modQueue h
  exact .ite hs1 (.ite (.streamError hs1) (.modQueue hs1))

theorem MemOk.writeQtail {t q : Nat} {v : Word} (h : s.MemOk) : (s.writeQtail t q v).MemOk :=
  .ite (.streamError h) (.ite (.streamError h) (.ite (.streamError h) (.modQueue h)))

theorem MemOk.writeFqhead {t : Nat} {v : Word} (h : s.MemOk) : (s.writeFqhead t v).MemOk := .ite h (.modFq h)

theorem Kept.execNumvfsWrite {n : Nat} (h : s.MemOk) : Kept (execNumvfsWrite n s) :=
  .ite h (.foldl (.modHost h) fun _ _ h1 => .tenantTrigger h1)

theorem Kept.execVfEnable (h : s.MemOk) : Kept (execVfEnable s) := MemOk.ite (.modHost h) h

theorem Kept.execVfEnableClear (h : s.MemOk) : Kept (execVfEnableClear s) :=
  MemOk.ite (.foldl (.modHost h) fun _ _ h1 => .tenantTrigger h1) h

theorem Kept.execFunctionLevelReset {vf : Nat} (h : s.MemOk) : Kept (execFunctionLevelReset vf s) :=
  MemOk.ite (.tenantTrigger h) h

theorem Kept.execVectorUnmask {fn vec : Nat} (h : s.MemOk) : Kept (execVectorUnmask fn vec s) := by
  unfold Machine.execVectorUnmask
  extract_lets +onlyGivenNames k
  refine .ite h ?_
  extract_lets +onlyGivenNames pend t
  have ht : t.MemOk := .modHost h
  exact MemOk.ite (.signal ht) ht

theorem Kept.onTenant {t : Nat} {f : State → State} (h : s.MemOk) (hf : ∀ t, t.MemOk → (f t).MemOk) :
    Kept (s.onTenant t f) :=
  MemOk.ite (hf _ h) h

theorem Kept.execTenCfgWrite {tenant : Nat} {value : DWord} (h : s.MemOk) : Kept (execTenCfgWrite tenant value s) :=
  .onTenant h fun _ h1 => .writeTenCfg h1

theorem Kept.execTenantResetRequest {tenant : Nat} (h : s.MemOk) : Kept (execTenantResetRequest tenant s) :=
  .onTenant h fun _ h1 => .tenantTrigger (.setErr h1)

theorem Kept.execPewerase {tenant : Nat} (h : s.MemOk) : Kept (execPewerase tenant s) :=
  .onTenant h fun _ h1 => .eraseTenant h1

theorem Kept.execTenantEnable {tenant : Nat} (h : s.MemOk) : Kept (execTenantEnable tenant s) :=
  .onTenant h fun _ h1 => .enableTenant h1

theorem Kept.execTenantDisable {tenant : Nat} (h : s.MemOk) : Kept (execTenantDisable tenant s) :=
  .onTenant h fun _ h1 => .tenantTrigger (.setErr h1)

theorem Kept.execTenantResetEnd {tenant : Nat} (h : s.MemOk) : Kept (execTenantResetEnd tenant s) :=
  MemOk.ite (.restartWorkers (.modTenant (.setTenState h))) h

theorem Kept.execKeyRotationDone {tenant : Nat} (h : s.MemOk) : Kept (execKeyRotationDone tenant s) :=
  MemOk.ite (.endRotation h) h

theorem Kept.onVf {t : Nat} {f : State → State} (h : s.MemOk) (hf : ∀ t, t.MemOk → (f t).MemOk) : Kept (s.onVf t f) :=
  MemOk.ite (hf _ h) h

theorem Kept.execQueueEnable {tenant queue : Nat} {value : DWord} (h : s.MemOk) :
    Kept (execQueueEnable tenant queue value s) :=
  .onVf h fun _ h1 => .ite (.writeQcfg h1) h1

theorem Kept.execQueueDisable {tenant queue : Nat} (h : s.MemOk) : Kept (execQueueDisable tenant queue s) :=
  .onVf h fun _ h1 => .ite (.modQueue h1) h1

theorem Kept.execQtailWrite {tenant queue : Nat} {value : Word} (h : s.MemOk) :
    Kept (execQtailWrite tenant queue value s) :=
  .onVf h fun _ h1 => .ite (.writeQtail h1) h1

theorem Kept.execFqheadWrite {tenant : Nat} {value : Word} (h : s.MemOk) : Kept (execFqheadWrite tenant value s) :=
  .onVf h fun _ h1 => .writeFqhead h1

theorem Kept.execHostsigRead {tenant : Nat} (h : s.MemOk) : Kept (execHostsigRead tenant s) :=
  .onVf h fun _ h1 => .modTenant h1

/-! ### Tarragon -/

theorem MemOk.homeBytes {t p n : Nat} (h : s.MemOk) : (s.homeBytes t p n).1.MemOk := by
  unfold State.homeBytes
  extract_lets +onlyGivenNames s1
  have hs1 : s1.MemOk := .recallLine h
  exact .iteFst hs1 (.freeBytes hs1)

theorem MemOk.sendFar {t typ peer addr : Nat} {payload : List Byte} {errand : Errand} (h : s.MemOk) :
    (s.sendFar t typ peer addr payload errand).MemOk :=
  .request (.takeTag h)

theorem MemOk.askFar {t : Nat} {ps : List (Loc × Nat × Nat)} (h : s.MemOk) : (s.askFar t ps).MemOk := by
  unfold State.askFar
  refine .foldl h (fun _ _ h1 => ?_)
  split
  · exact h1
  · exact .ite h1 (.sendFar h1)

theorem MemOk.dropFar {t : Nat} {ps : List (Loc × Nat × Nat)} (h : s.MemOk) : (s.dropFar t ps).MemOk :=
  .ite h (.modTenant h)

theorem MemOk.takePieces {t : Nat} {ps : List (Loc × Nat × Nat)} (h : s.MemOk) : (s.takePieces t ps).1.MemOk := by
  unfold State.takePieces
  refine .foldlFst h (fun _ _ h1 => ?_)
  split
  · exact h1
  · exact .homeBytes h1

theorem MemOk.awaitFar {t : Nat} {ps : List (Loc × Nat × Nat)} {units : Nat} (h : s.MemOk) :
    (s.awaitFar t ps units).1.MemOk :=
  .iteFst (.dropFar h) (.iteFst (.askFar h) (.iteFst h h))

theorem MemOk.tarragonReads {t : Nat} {ranges : List (Nat × Nat)} (h : s.MemOk) :
    (s.tarragonReads t ranges).1.MemOk := by
  unfold State.tarragonReads
  split
  · exact h
  · extract_lets +onlyGivenNames ps units w
    have hw : w.1.MemOk := .awaitFar h
    split
    · exact hw
    · extract_lets +onlyGivenNames r
      have hr : r.1.MemOk := .foldlFst (.chargeUnits hw) fun _ _ h1 => .takePieces h1
      exact .dropFar hr

theorem MemOk.tarragonRead {t a n : Nat} (h : s.MemOk) : (s.tarragonRead t a n).1.MemOk := .tarragonReads h

theorem MemOk.putPiece {t use : Nat} {l : Loc} {bs : List Byte} (h : s.MemOk) : (s.putPiece t use l bs).MemOk := by
  unfold State.putPiece
  split
  · exact .performHome h
  · exact .sendFar h

theorem MemOk.tarragonWrite {t use a : Nat} {bs : List Byte} (h : s.MemOk) :
    (s.tarragonWrite t use a bs).1.MemOk := by
  unfold State.tarragonWrite
  refine .foldlFst h (fun _ _ h1 => ?_)
  refine .iteFst h1 ?_
  split
  · exact h1
  · exact .putPiece (.chargeUnits h1)

theorem MemOk.farFailed {t use : Nat} (h : s.MemOk) : (s.farFailed t use).1.MemOk := .modTenant h

theorem MemOk.decodeHead {t q : Nat} (h : s.MemOk) : (s.decodeHead t q).1.MemOk := by
  unfold State.decodeHead
  extract_lets +onlyGivenNames k
  refine .iteFst h ?_
  refine .iteFst h ?_
  split
  · exact h
  · extract_lets +onlyGivenNames r
    have hr : r.1.MemOk := .tarragonRead h
    split
    · exact hr
    · exact hr
    · split
      · extract_lets +onlyGivenNames j
        have hj : j.1.MemOk := .tarragonReads h
        split
        · exact hj
        · exact hj
        · exact hr
      · exact .iteFst hr hr
      · exact .iteFst hr hr
      · exact hr
      · exact hr

theorem MemOk.registerJob {t e : Nat} {w : Word} (h : s.MemOk) : (s.registerJob t e w).MemOk :=
  .ite (.ite h (.modEvent (.modEvent h))) (.subscribe (.modEvent h))

theorem MemOk.createJob {t e : Nat} {k : EvEntry} (h : s.MemOk) : (s.createJob t e k).MemOk := by
  unfold State.createJob
  extract_lets +onlyGivenNames s1
  have hs1 : s1.MemOk := .foldl (.setEvent h) fun _ _ h1 => .registerJob h1
  exact .ite (.makeReady hs1) hs1

theorem MemOk.expandGrid {t q fuel : Nat} (h : s.MemOk) : (State.expandGrid t q fuel s).MemOk := by
  induction fuel generalizing s with
  | zero => exact h
  | succ fuel ih =>
    rw [State.expandGrid]
    split
    · exact h
    · refine .ite (.modQueue h) ?_
      extract_lets k
      split
      · exact h
      · exact .ite h (ih (.modQueue (.createJob h)))

theorem MemOk.goOnGrid {t q : Nat} (h : s.MemOk) : (s.goOnGrid t q).MemOk := by
  unfold State.goOnGrid
  split
  · exact h
  · exact .expandGrid h

theorem MemOk.advanceHead {t q : Nat} (h : s.MemOk) : (s.advanceHead t q).MemOk := .modSched (.modQueue h)

theorem MemOk.actOn {t q : Nat} {d : State.Decoded} (h : s.MemOk) : (s.actOn t q d).MemOk := by
  unfold State.actOn
  split
  · exact h
  · exact h
  · exact .streamError h
  · exact .streamError h
  · exact .goOnGrid (.modQueue (.advanceHead h))
  · exact .armFlag (.advanceHead h)
  · exact .decFlag (.advanceHead h)
  · exact .advanceHead h

theorem MemOk.decodeAs {t q : Nat} {ok : State.Decoded → Bool} (h : s.MemOk) : (s.decodeAs t q ok).MemOk := by
  unfold State.decodeAs
  extract_lets +onlyGivenNames r
  have hr : r.1.MemOk := .decodeHead h
  exact .ite hr (.ite (.actOn hr) h)

theorem MemOk.decodeTurn {t : Nat} (h : s.MemOk) : (s.decodeTurn t).MemOk := by
  unfold State.decodeTurn
  split
  · exact h
  · refine .ite (.modSched (.goOnGrid h)) ?_
    extract_lets +onlyGivenNames r
    have hr : r.1.MemOk := .decodeHead h
    exact .ite (.modSched hr) (.actOn hr)

theorem MemOk.evalReserve {t : Nat} (h : s.MemOk) : (s.evalReserve t).MemOk := .noteRoles (.modSched h)

theorem MemOk.mailJob {e : Nat} {rec : List Byte} {runs : List (List Nat)} (h : s.MemOk) :
    (s.mailJob e rec runs).MemOk :=
  .foldl h fun _ _ h1 => .foldl h1 fun _ _ h2 => .wakeCore (.modCore h2)

theorem MemOk.ageJobs {t : Nat} {comm : Bool} (h : s.MemOk) : (s.ageJobs t comm).MemOk :=
  .foldl h fun _ _ h1 => .modEvent h1

theorem MemOk.failBadJob {e : Nat} (h : s.MemOk) : (s.failBadJob e).MemOk := .owe (.modEvent (.leavePool h))

theorem SomeOk.deliver {t e : Nat} (h : s.MemOk) : SomeOk (s.deliver t e) := by
  unfold State.deliver
  extract_lets +onlyGivenNames r
  have hr : r.1.MemOk := .tarragonRead h
  split
  · exact hr
  · exact .failBadJob hr
  · refine .ite (.failBadJob hr) ?_
    extract_lets +onlyGivenNames twin
    split
    · exact trivial
    · exact .ite (.failBadJob hr) (.evalReserve (.refillPool (.ageJobs (.mailJob (.modEvent hr)))))

theorem MemOk.holdMinimum {t : Nat} (h : s.MemOk) : (s.holdMinimum t).MemOk := .ite h (.noteRoles (.modSched h))

theorem SomeOk.deliverTurn {t : Nat} (h : s.MemOk) : SomeOk (s.deliverTurn t) :=
  .ite trivial (SomeOk.getD (.findSome? fun _ => .deliver (.holdMinimum h)) (.holdMinimum h))

theorem MemOk.rereadRecord {t : Nat} (h : s.MemOk) : (s.rereadRecord t).MemOk := by
  unfold State.rereadRecord
  split
  · exact h
  · extract_lets +onlyGivenNames r
    have hr : r.1.MemOk := .tarragonRead h
    split
    · exact .modEvent hr
    · exact hr

theorem MemOk.completeJob {k : EvEntry} (h : s.MemOk) : (s.completeJob k).MemOk := .ite h (.decFlag h)

theorem MemOk.retireJob {e : Nat} (h : s.MemOk) : (s.retireJob e).MemOk :=
  .completeJob (.foldl h fun _ _ h1 => .drainFifo h1)

theorem MemOk.evResult {t : Nat} {r : BitVec 4} (h : s.MemOk) : (s.evResult t r).MemOk := .modSched h

theorem MemOk.onFailed {t : Nat} {w : Word} {f : State → Nat → State} (h : s.MemOk)
    (hf : ∀ t a, t.MemOk → (f t a).MemOk) : (s.onFailed t w f).MemOk := by
  unfold State.onFailed
  split
  · exact .evResult h
  · exact .evResult (hf _ _ h)

theorem MemOk.relaunch {t e : Nat} (h : s.MemOk) : (s.relaunch t e).1.MemOk := by
  unfold State.relaunch
  extract_lets +onlyGivenNames r bad
  have hr : r.1.MemOk := .tarragonRead h
  have hbad : bad.MemOk := .evResult (.owe hr)
  split
  · exact hr
  · exact hbad
  · exact .iteFst hbad (.evResult (.makeReady (.modEvent hr)))

theorem MemOk.resub {t : Nat} {w : Word} (h : s.MemOk) : (s.resub t w).MemOk :=
  .ite (.evResult (.sendEvsub h)) (.evResult h)

theorem MemOk.evCommand {t op : Nat} {w : Word} (h : s.MemOk) : (s.evCommand t op w).1.MemOk := by
  unfold State.evCommand
  refine .iteFst (.evResult h) ?_
  split
  · exact .resub h
  · exact .onFailed h fun _ _ h1 => .completeJob h1
  · exact .onFailed h fun _ _ h2 => h2
  · split
    · exact .evResult h
    · exact .relaunch h
  · exact .ite (.evResult (.decFlag h)) (.evResult h)
  · exact .evResult h

theorem Kept.evctl {t op : Nat} {w : Word} (h : s.MemOk) : Kept (s.evctl t op w) := by
  unfold State.evctl
  refine .onVf h (fun _ h1 => ?_)
  extract_lets +onlyGivenNames later
  have hlater : ∀ s, s.MemOk → (later s).MemOk := fun _ h2 => .modSched h2
  refine .ite (hlater _ h1) ?_
  extract_lets +onlyGivenNames r
  have hr : r.1.MemOk := .evCommand h1
  exact .ite hr (hlater _ hr)

theorem MemOk.evctlTurn {t : Nat} (h : s.MemOk) : (s.evctlTurn t).MemOk := by
  unfold State.evctlTurn
  split
  · exact h
  · extract_lets +onlyGivenNames r
    have hr : r.1.MemOk := .evCommand h
    exact .ite (.modSched hr) hr

theorem Kept.execGrid {tenant queue : Nat} (h : s.MemOk) : Kept (execGrid tenant queue s) :=
  MemOk.ite (.goOnGrid h) (.decodeAs h)

theorem Kept.execArm {tenant queue : Nat} (h : s.MemOk) : Kept (execArm tenant queue s) := .decodeAs h
theorem Kept.execSignal {tenant queue : Nat} (h : s.MemOk) : Kept (execSignal tenant queue s) := .decodeAs h
theorem Kept.execNopOperator {tenant queue : Nat} (h : s.MemOk) : Kept (execNopOperator tenant queue s) := .decodeAs h

theorem Kept.execRecordRefused {tenant queue : Nat} (h : s.MemOk) : Kept (execRecordRefused tenant queue s) :=
  .decodeAs h

theorem Kept.execRingReadFault {tenant queue : Nat} (h : s.MemOk) : Kept (execRingReadFault tenant queue s) :=
  .decodeAs h

theorem Kept.execJobDelivery {tenant : Nat} (h : s.MemOk) : Kept (execJobDelivery tenant s) :=
  SomeOk.getD (.deliverTurn h) h

theorem Kept.execJobRetire {entry : Nat} (h : s.MemOk) : Kept (execJobRetire entry s) := MemOk.ite (.retireJob h) h

theorem Kept.execEvctlResub {tenant : Nat} {name : Word} (h : s.MemOk) : Kept (execEvctlResub tenant name s) :=
  .evctl h

theorem Kept.execEvctlRetire {tenant : Nat} {name : Word} (h : s.MemOk) : Kept (execEvctlRetire tenant name s) :=
  .evctl h

theorem Kept.execEvctlDiscard {tenant : Nat} {name : Word} (h : s.MemOk) : Kept (execEvctlDiscard tenant name s) :=
  .evctl h

theorem Kept.execEvctlRelaunch {tenant : Nat} {name : Word} (h : s.MemOk) : Kept (execEvctlRelaunch tenant name s) :=
  .evctl h

theorem Kept.execEvctlSignal {tenant : Nat} {name : Word} (h : s.MemOk) : Kept (execEvctlSignal tenant name s) :=
  .evctl h

theorem Kept.execEvctlInvalid {tenant : Nat} (h : s.MemOk) : Kept (execEvctlInvalid tenant s) := .evctl h

/-! ### Debug -/

theorem MemOk.dbgResult {t : Nat} {r : BitVec 4} (h : s.MemOk) : (s.dbgResult t r).MemOk := .modDbg h

theorem MemOk.onSelected {t : Nat} {resident stopped : Bool} {f : State → Nat → State} (h : s.MemOk)
    (hf : ∀ t a, t.MemOk → (f t a).MemOk) : (s.onSelected t resident stopped f).MemOk := by
  unfold State.onSelected
  split
  · exact .dbgResult h
  · exact .ite (.dbgResult h) (hf _ _ h)

theorem MemOk.dbgStopCmd {t : Nat} {resident : Bool} (h : s.MemOk) : (s.dbgStopCmd t resident).MemOk :=
  .onSelected h fun _ _ h1 => .dbgResult (.modIss h1)

theorem MemOk.dbgStepCmd {t : Nat} {resident : Bool} (h : s.MemOk) : (s.dbgStepCmd t resident).MemOk := by
  unfold State.dbgStepCmd
  refine .onSelected h (fun _ _ h1 => ?_)
  extract_lets +onlyGivenNames s1
  have hs1 : s1.MemOk := by
    unfold s1
    split
    · exact .ite (.passBreak h1) h1
    · exact h1
  exact .dbgResult (.modIss hs1)

theorem MemOk.dbgResumeCmd {t : Nat} {resident : Bool} (h : s.MemOk) : (s.dbgResumeCmd t resident).MemOk :=
  .onSelected h fun _ _ h1 => .dbgResult (.modIss h1)

theorem MemOk.dbgWait {t op : Nat} {resident : Bool} (h : s.MemOk) : (s.dbgWait t op resident).MemOk := .modDbg h

theorem MemOk.dbgReadCmd {t : Nat} {resident : Bool} (h : s.MemOk) : (s.dbgReadCmd t resident).MemOk := by
  unfold State.dbgReadCmd
  refine .onSelected h (fun _ _ h1 => ?_)
  extract_lets +onlyGivenNames a units
  refine .ite (.dbgWait h1) ?_
  extract_lets +onlyGivenNames w
  have hw : w.1.MemOk := .tarragonWrite h1
  exact .ite (.dbgWait (.dbgResult hw)) (.dbgResult hw)

theorem MemOk.dbgWriteCmd {t : Nat} {resident : Bool} (h : s.MemOk) : (s.dbgWriteCmd t resident).MemOk := by
  unfold State.dbgWriteCmd
  refine .onSelected h (fun _ _ h1 => ?_)
  extract_lets +onlyGivenNames r
  have hr : r.1.MemOk := .tarragonRead h1
  split
  · exact .dbgWait hr
  · exact .dbgResult hr
  · exact .dbgResult (.onGroup hr)

theorem MemOk.debugTurn {t : Nat} (h : s.MemOk) : (s.debugTurn t).MemOk := by
  unfold State.debugTurn
  extract_lets +onlyGivenNames calm
  have hcalm : ∀ s, s.MemOk → (calm s).MemOk := fun _ h1 => .modDbg h1
  split
  · exact h
  · exact .dbgReadCmd (hcalm _ h)
  · exact .dbgWriteCmd (hcalm _ h)
  · refine .ite h ?_
    extract_lets +onlyGivenNames r
    have hr : r.1.MemOk := .farFailed (hcalm _ h)
    exact .ite (.dbgResult hr) hr

theorem MemOk.debugCommand {t op : Nat} {resident : Bool} (h : s.MemOk) : (s.debugCommand t op resident).MemOk := by
  unfold State.debugCommand
  refine .ite h ?_
  split
  · exact .dbgStopCmd h
  · exact .dbgStepCmd h
  · exact .dbgResumeCmd h
  · exact .dbgReadCmd h
  · exact .dbgWriteCmd h
  · exact .dbgResult h

theorem MemOk.noteStep {g : Nat} (h : s.MemOk) : (s.noteStep g).MemOk := .ite (.parkSwitch (.modIss h)) h

theorem MemOk.endStep {g : Nat} (h : s.MemOk) : (s.endStep g).MemOk := by
  unfold State.endStep
  extract_lets +onlyGivenNames s1
  have hs1 : s1.MemOk := .noteStep h
  exact .ite (.stopGroup hs1) hs1

theorem Kept.execDbgStop {tenant : Nat} (h : s.MemOk) : Kept (execDbgStop tenant s) :=
  .onVf h fun _ h1 => .dbgStopCmd h1

theorem Kept.execDbgStep {tenant : Nat} (h : s.MemOk) : Kept (execDbgStep tenant s) :=
  .onVf h fun _ h1 => .dbgStepCmd h1

theorem Kept.execDbgResume {tenant : Nat} (h : s.MemOk) : Kept (execDbgResume tenant s) :=
  .onVf h fun _ h1 => .dbgResumeCmd h1

theorem Kept.execDbgReadimg {tenant : Nat} (h : s.MemOk) : Kept (execDbgReadimg tenant s) :=
  .onVf h fun _ h1 => .dbgReadCmd h1

theorem Kept.execDbgWriteimg {tenant : Nat} (h : s.MemOk) : Kept (execDbgWriteimg tenant s) :=
  .onVf h fun _ h1 => .dbgWriteCmd h1

theorem Kept.execDbgInvalid {tenant : Nat} (h : s.MemOk) : Kept (execDbgInvalid tenant s) :=
  .onVf h fun _ h1 => .dbgResult h1

/-! ### Regroup -/

theorem MemOk.repack {key : Nat} (h : s.MemOk) : (s.repack key).MemOk := by
  unfold State.repack
  split
  · exact h
  · split
    · exact h
    · extract_lets +onlyGivenNames gs s1
      have hs1 : s1.MemOk := .foldl h fun _ _ h1 => .reportCopies
        (.reportErrs (.dropDone (.flushPend (.drainGroup h1))))
      refine .ite hs1 ?_
      extract_lets +onlyGivenNames xs
      refine .ite (.trapNow hs1) ?_
      extract_lets +onlyGivenNames s2
      refine .foldl (.foldl hs1 fun _ _ h2 => .setGroup h2) (fun _ _ h3 => ?_)
      extract_lets +onlyGivenNames s3
      have hs3 : s3.MemOk := .noteExit h3
      exact .ite (.endDrain hs3) hs3

theorem Kept.execRegroupRepack {block : Nat} (h : s.MemOk) : Kept (execRegroupRepack block s) := .repack h

/-! ### Clauses -/

theorem MemOk.startNext {g : Nat} (h : s.MemOk) : (s.startNext g).MemOk := by
  unfold State.startNext
  split
  · exact h
  · exact .ite (.startClause h) h

theorem MemOk.beginReplay {g : Nat} (h : s.MemOk) : (s.beginReplay g).MemOk := by
  unfold State.beginReplay
  split
  · exact h
  · exact .ite (.trapNow (.dropCapture h)) (.ite (.dropCapture h) h)

theorem MemOk.tickGroup {who : Option Nat} {g : Nat} (h : s.MemOk) : (s.tickGroup who g).MemOk := by
  unfold State.tickGroup
  extract_lets +onlyGivenNames x s1 s2
  have hs1 : s1.MemOk := by
    unfold s1
    split
    · exact .onGroup h
    · exact h
  have hs2 : s2.MemOk := .ite (.modIss hs1) hs1
  refine .ite ?_ hs2
  extract_lets +onlyGivenNames s3
  have hs3 : s3.MemOk := .modIss hs2
  exact .ite (.promote hs3) hs3

theorem MemOk.applyRoles {c : Nat} (h : s.MemOk) : (s.applyRoles c).MemOk :=
  .ite (.modCore h) (.foldl (.setCore (.ite (.shedL1 h) h)) fun _ _ h1 => .wipeRange h1)

theorem MemOk.writeLines {c id n : Nat} (h : s.MemOk) : (s.writeLines c id n).MemOk := by
  induction n generalizing s with
  | zero => exact h
  | succ n ih =>
    rw [State.writeLines]
    split
    · exact h
    · exact ih (.writeLine h)

theorem Kept.execClauseStart {gid : Nat} (h : s.MemOk) : Kept (execClauseStart gid s) := MemOk.ite (.startNext h) h

theorem Kept.execGroupPromotion {gid : Nat} (h : s.MemOk) : Kept (execGroupPromotion gid s) :=
  MemOk.ite (.promote (.modIss h)) h

theorem Kept.execResultWriteback {gid k : Nat} {lanes : Lanes} (h : s.MemOk) :
    Kept (execResultWriteback gid k lanes s) := by
  unfold Machine.execResultWriteback
  show State.MemOk _
  split
  · exact h
  · exact .writePend h

theorem Kept.execYieldExpiry {gid : Nat} (h : s.MemOk) : Kept (execYieldExpiry gid s) := by
  unfold Machine.execYieldExpiry
  show State.MemOk _
  split
  · exact .onGroup h
  · exact h

theorem Kept.execSleepTimeout {gid : Nat} (h : s.MemOk) : Kept (execSleepTimeout gid s) := MemOk.ite (.onGroup h) h

theorem Kept.execGroupDrainEnd {gid : Nat} (h : s.MemOk) : Kept (execGroupDrainEnd gid s) := by
  unfold Machine.execGroupDrainEnd
  show State.MemOk _
  refine .ite ?_ h
  extract_lets +onlyGivenNames t
  have ht : t.MemOk := .reportCopies (.reportErrs h)
  exact .ite (.endDrain ht) ht

theorem Kept.execAccessEngineRead {gid : Nat} {queue : BitVec 2} (h : s.MemOk) :
    Kept (execAccessEngineRead gid queue s) :=
  MemOk.ite (.engineFetch h) h

theorem Kept.execAsyncCopyWrite {core k count : Nat} (h : s.MemOk) : Kept (execAsyncCopyWrite core k count s) := by
  unfold Machine.execAsyncCopyWrite
  show State.MemOk _
  split
  · exact h
  · exact .writeLines h

theorem Kept.execBankroleApply {core : Nat} (h : s.MemOk) : Kept (execBankroleApply core s) :=
  MemOk.ite (.applyRoles h) h

theorem Kept.execGroupReplay {gid : Nat} (h : s.MemOk) : Kept (execGroupReplay gid s) := MemOk.ite (.beginReplay h) h

/-! ### Sorrel -/

theorem MemOk.setSlot {n : Nat} {k : Slot} (h : s.MemOk) : (s.setSlot n k).MemOk := h

theorem MemOk.clearReport {t n : Nat} (h : s.MemOk) : (s.clearReport t n).MemOk := by
  unfold State.clearReport
  split
  · exact h
  · exact .foldl h fun _ _ h1 => .putPiece h1

theorem MemOk.readReport {t n : Nat} (h : s.MemOk) : (s.readReport t n).MemOk := by
  unfold State.readReport
  extract_lets +onlyGivenNames miss
  have hmiss : ∀ s, s.MemOk → (miss s).MemOk := fun _ h1 => .modSor h1
  split
  · exact hmiss _ h
  · refine .ite (hmiss _ h) ?_
    extract_lets +onlyGivenNames s1 r rep s2
    have hs2 : s2.MemOk := .foldl (.takePieces (.chargeUnits h)) fun _ _ h2 => .putPiece h2
    exact .ite (hmiss _ hs2) (.setSlot hs2)

theorem MemOk.takeVersion {t : Nat} {v : Nat × Image} (h : s.MemOk) : (s.takeVersion t v).MemOk := by
  unfold State.takeVersion
  split
  · exact .setSlot h
  · exact .modSor h

theorem MemOk.writeManifest {t a : Nat} {ws : List Nat} (h : s.MemOk) : (s.writeManifest t a ws).1.MemOk :=
  .foldlFst h fun _ _ h1 => .tarragonWrite h1

theorem MemOk.boundaryRun {t : Nat} {ps : List (Loc × Nat × Nat)} (h : s.MemOk) : (s.boundaryRun t ps).MemOk := by
  unfold State.boundaryRun
  extract_lets +onlyGivenNames k0 s1 s2 s3 iter s4
  have h1 : s1.MemOk := .dropFar (.foldl h fun _ _ ht => .readReport ht)
  have h3 : s3.MemOk := .foldl (.modTenant h1) fun _ _ ht => .takeVersion ht
  have h4 : s4.MemOk := .foldl h3 fun _ _ ht => .ite (.setSlot ht) ht
  exact .modSor (.writeManifest (.modSor h4))

theorem MemOk.boundaryClose {t : Nat} (h : s.MemOk) : (s.boundaryClose t).MemOk := by
  unfold State.boundaryClose
  extract_lets +onlyGivenNames r flt s1
  have hs1 : s1.MemOk := .modSor (.farFailed h)
  exact .ite (.signal hs1) hs1

theorem MemOk.sendClears {t : Nat} {ps : List (Loc × Nat × Nat)} (h : s.MemOk) : (s.sendClears t ps).MemOk :=
  .ite h (.modSor (.foldl h fun _ _ h1 => .clearReport h1))

theorem MemOk.boundaryEnd {t : Nat} (h : s.MemOk) : (s.boundaryEnd t).MemOk := by
  unfold State.boundaryEnd
  extract_lets +onlyGivenNames k ps done
  have hdone : ∀ s, s.MemOk → (done s).MemOk := fun _ h1 => .ite h1 (.boundaryClose h1)
  refine .ite (hdone _ h) ?_
  refine .ite (.askFar h) ?_
  extract_lets +onlyGivenNames s1
  have hs1 : s1.MemOk := .sendClears h
  exact .ite hs1 (hdone _ (.boundaryRun hs1))

theorem MemOk.commitSlot {t n : Nat} (h : s.MemOk) : (s.commitSlot t n).MemOk := .ite (.modSor h) (.modSor h)
theorem MemOk.writeOwner {v : Word} (h : s.MemOk) : (s.writeOwner v).MemOk := .ite h h

theorem Kept.execSorOwnerWrite {value : Word} (h : s.MemOk) : Kept (execSorOwnerWrite value s) :=
  MemOk.ite (.writeOwner h) h

theorem Kept.execSorWcmt {tenant : Nat} {slot : BitVec 12} (h : s.MemOk) : Kept (execSorWcmt tenant slot s) :=
  .onVf h fun _ h1 => .commitSlot h1

theorem Kept.execSorrelBoundary {tenant : Nat} (h : s.MemOk) : Kept (execSorrelBoundary tenant s) :=
  MemOk.ite (.boundaryEnd h) h

/-! ### Drain -/

theorem MemOk.setDstate {t d : Nat} (h : s.MemOk) : (s.setDstate t d).MemOk := .modSched h

theorem MemOk.startDrain {t : Nat} (h : s.MemOk) : (s.startDrain t).MemOk :=
  .foldl (.foldl (.modSched h) fun _ _ h1 => .unmail h1) fun _ _ h2 => .modCore h2

theorem MemOk.stopWatchdogs {t : Nat} (h : s.MemOk) : (s.stopWatchdogs t).MemOk := .foldl h fun _ _ h1 => .modCore h1

theorem MemOk.watchdogKill {b : Block} (h : s.MemOk) : (s.watchdogKill b).MemOk := by
  unfold State.watchdogKill
  extract_lets +onlyGivenNames s1 s2
  have hs1 : s1.MemOk := .modSched h
  have hs2 : s2.MemOk := by
    unfold s2
    split
    · exact hs1
    · exact .recordNow hs1
  exact .killCohort hs2

theorem MemOk.watchdogExpires {c : Nat} (h : s.MemOk) : (s.watchdogExpires c).MemOk := by
  unfold State.watchdogExpires
  refine .ite h ?_
  extract_lets +onlyGivenNames s1
  refine .foldl (.modCore h) (fun _ _ h1 => ?_)
  split
  · exact h1
  · exact .ite (.watchdogKill h1) h1

theorem MemOk.closeSave {t : Nat} (h : s.MemOk) : (s.closeSave t).MemOk := .ite h (.modSched (.farFailed h))

theorem MemOk.writeSave {t : Nat} (h : s.MemOk) : (s.writeSave t).MemOk := by
  unfold State.writeSave
  refine .ite (.closeSave h) (.ite h ?_)
  exact .closeSave (.modSched (.foldlFst h fun _ _ h1 => .iteFst (.tarragonWrite h1) h1))

theorem MemOk.readSave {t : Nat} (h : s.MemOk) : (s.readSave t).1.MemOk := .tarragonReads h

theorem MemOk.reregister {t e : Nat} (h : s.MemOk) : (s.reregister t e).MemOk :=
  .foldl h fun _ _ h1 => .ite (.ite h1 (.modEvent h1)) h1

theorem MemOk.rebuildTables {t : Nat} {outs ins slots : List Byte} {evs : List (Nat × EvEntry)} (h : s.MemOk) :
    (s.rebuildTables t outs ins slots evs).MemOk :=
  h

theorem MemOk.rebuildTenant {t : Nat} {regs outs ins slots entries : List Byte} (h : s.MemOk) :
    (s.rebuildTenant t regs outs ins slots entries).MemOk := by
  unfold State.rebuildTenant
  extract_lets +onlyGivenNames sor st evs s1 s2 order s3 s4
  have hs4 : s4.MemOk := by
    unfold s4
    refine .foldl (.modSor (.modTenant (.rebuildTables h))) (fun _ _ h1 => ?_)
    refine .ite h1 ?_
    extract_lets +onlyGivenNames r s5
    have hs5 : s5.MemOk := by
      unfold s5
      split
      · exact .modEvent (.tarragonRead h1)
      · exact h1
    exact .ite (.reregister hs5) (.ite (.enterPool hs5) hs5)
  exact .foldl hs4 fun _ _ h2 => .sendEvsub h2

theorem MemOk.restore {t : Nat} (h : s.MemOk) : (s.restore t).MemOk := by
  unfold State.restore
  extract_lets +onlyGivenNames r
  have hr : r.1.MemOk := .readSave h
  split
  · exact .modSched (.rebuildTenant hr)
  · exact hr
  · exact .modSched hr

theorem Kept.execDrain {tenant : Nat} (h : s.MemOk) : Kept (execDrain tenant s) :=
  .onTenant h fun _ h1 => .ite (.startDrain h1) h1

theorem Kept.execDrainResume {tenant : Nat} (h : s.MemOk) : Kept (execDrainResume tenant s) :=
  .onTenant h fun _ h1 => .ite (.stopWatchdogs (.setDstate h1)) h1

theorem Kept.execDrainRestore {tenant : Nat} (h : s.MemOk) : Kept (execDrainRestore tenant s) :=
  .onTenant h fun _ h1 => .ite (.setDstate h1) h1

theorem Kept.execDrainWatchdog {core : Nat} (h : s.MemOk) : Kept (execDrainWatchdog core s) := .watchdogExpires h

theorem Kept.execDrainSave {tenant : Nat} (h : s.MemOk) : Kept (execDrainSave tenant s) :=
  MemOk.ite (.stopWatchdogs (.setDstate h)) (.ite (.writeSave h) h)

theorem Kept.execRestoreDone {tenant : Nat} (h : s.MemOk) : Kept (execRestoreDone tenant s) :=
  MemOk.ite (.restore h) h

/-! ### Stripes -/

theorem MemOk.askRow {t i row : Nat} (h : s.MemOk) : (s.askRow t i row).MemOk :=
  .foldl (.setStripe h) fun _ _ h1 => .request (.takeTag h1)

theorem MemOk.thaw {t i : Nat} (h : s.MemOk) : (s.thaw t i).MemOk := .foldl h fun _ _ h1 => .resolveRecord h1

theorem MemOk.rebuiltRow {t i : Nat} (h : s.MemOk) : (s.rebuiltRow t i).MemOk := by
  unfold State.rebuiltRow
  extract_lets +onlyGivenNames k a s1 s2
  have hs1 : s1.MemOk := .homeWrite (.recallLine h)
  have hs2 : s2.MemOk := .ite (.modStripe (.addPoison hs1)) hs1
  exact .ite (.askRow hs2) (.thaw (.modStripe hs2))

theorem MemOk.dropRebuild {t i : Nat} (h : s.MemOk) : (s.dropRebuild t i).MemOk :=
  .foldl h fun _ _ h1 => .retireTag h1

theorem MemOk.clearRegion {k : Stripe} (h : s.MemOk) : (s.clearRegion k).MemOk :=
  .foldl (.foldl h fun _ _ h1 => .recallLine h1) fun _ _ h2 => .foldl (.drainWhere h2) fun _ _ h3 => .dropLine
    (.writeBack h3)

theorem MemOk.zeroRegion {t i : Nat} (h : s.MemOk) : (s.zeroRegion t i).MemOk := .modStripe (.wipeRange h)
theorem MemOk.sldErr {t i : Nat} {e : BitVec 4} (h : s.MemOk) : (s.sldErr t i e).MemOk := .modStripe h

theorem MemOk.openStripe {t i : Nat} {v : DWord} (h : s.MemOk) : (s.openStripe t i v).MemOk := by
  unfold State.openStripe
  extract_lets +onlyGivenNames old k s1 s2
  have hs1 : s1.MemOk := .setStripe h
  have hs2 : s2.MemOk := .ite (.thaw hs1) hs1
  refine .ite hs2 ?_
  extract_lets +onlyGivenNames e
  refine .ite (.sldErr hs2) ?_
  extract_lets +onlyGivenNames s3
  have hs3 : s3.MemOk := .setStripe (.clearRegion hs2)
  exact .ite (.askRow hs3) hs3

theorem MemOk.changeStripe {t i : Nat} {v : DWord} (h : s.MemOk) : (s.changeStripe t i v).MemOk := by
  unfold State.changeStripe
  extract_lets +onlyGivenNames k n fixed lossSame
  refine .ite (.sldErr h) ?_
  refine .ite ?_ (.ite (.setStripe h) (.sldErr h))
  extract_lets +onlyGivenNames s1
  have hs1 : s1.MemOk := .setStripe h
  exact .ite (.thaw hs1) hs1

theorem MemOk.writeSldCfg {t i : Nat} {v : DWord} (h : s.MemOk) : (s.writeSldCfg t i v).MemOk :=
  .ite (.openStripe h) (.ite (.changeStripe h) (.modStripe (.dropRebuild h)))

theorem MemOk.writeSldLen {t i : Nat} {v : DWord} (h : s.MemOk) : (s.writeSldLen t i v).MemOk :=
  .ite (.sldErr h) (.modStripe h)

theorem MemOk.writeSldMem {t i w : Nat} {v : DWord} (h : s.MemOk) : (s.writeSldMem t i w v).MemOk :=
  .ite (.setStripe h) (.ite (.setStripe h) (.sldErr h))

theorem Kept.execStripeEnable {tenant i : Nat} {value : DWord} (h : s.MemOk) :
    Kept (execStripeEnable tenant i value s) :=
  .onVf h fun _ h1 => .ite (.openStripe h1) h1

theorem Kept.execStripeDisable {tenant i : Nat} (h : s.MemOk) : Kept (execStripeDisable tenant i s) :=
  .onVf h fun _ h1 => .ite (.writeSldCfg h1) h1

theorem Kept.execStripeMarkLost {tenant i : Nat} {value : DWord} (h : s.MemOk) :
    Kept (execStripeMarkLost tenant i value s) :=
  .onVf h fun _ h1 => .ite (.changeStripe h1) h1

theorem Kept.execStripeRebuildEnd {tenant i : Nat} (h : s.MemOk) : Kept (execStripeRebuildEnd tenant i s) :=
  .onVf h fun _ h1 => .ite (.changeStripe h1) h1

theorem Kept.execStripeZeroDone {tenant i : Nat} (h : s.MemOk) : Kept (execStripeZeroDone tenant i s) :=
  MemOk.ite (.zeroRegion h) h

theorem Kept.execRebuildRow {tenant i : Nat} (h : s.MemOk) : Kept (execRebuildRow tenant i s) :=
  MemOk.ite (.rebuiltRow h) h

/-! ### Faults -/

theorem MemOk.awaitRecord {t : Nat} {r : Record} {seq : Word} (h : s.MemOk) : (s.awaitRecord t r seq).MemOk := by
  unfold State.awaitRecord
  extract_lets +onlyGivenNames id i s1 w s2
  have hs2 : s2.MemOk := .modFq (.modOps h)
  exact .ite (.resolveRecord hs2) hs2

theorem MemOk.writeRecord {t : Nat} (h : s.MemOk) : (s.writeRecord t).MemOk := by
  unfold State.writeRecord
  extract_lets +onlyGivenNames q
  split
  · exact h
  · refine .ite h ?_
    extract_lets +onlyGivenNames pop
    have hpop : ∀ s, s.MemOk → (pop s).MemOk := fun _ h1 => .modFq h1
    split
    · exact hpop _ (.modFq h)
    · exact .modFq h
    · refine .ite h ?_
      extract_lets +onlyGivenNames s1 s2 s3
      have hs1 : s1.MemOk := hpop _ (.storeRecord h)
      have hs2 : s2.MemOk := .ite (.awaitRecord hs1) hs1
      have hs3 : s3.MemOk := .ite (.setServiceFlag hs2) hs2
      exact .ite (.endCohort hs3) hs3

theorem MemOk.settleCore {c : Nat} (h : s.MemOk) : (s.settleCore c).MemOk :=
  .drainFifo (.foldl (.drainWhere h) fun _ _ h1 => .writeLine h1)

theorem MemOk.endTlbinv {t : Nat} (h : s.MemOk) : (s.endTlbinv t).MemOk :=
  .modTenant (.foldl h fun _ _ h1 => .settleCore h1)

theorem MemOk.walkFor {c t va : Nat} (h : s.MemOk) : (s.walkFor c t va).MemOk := by
  unfold State.walkFor
  extract_lets +onlyGivenNames n
  refine .ite h ?_
  extract_lets +onlyGivenNames s1
  have hs1 : s1.MemOk := .chargeUnits h
  split
  · exact hs1
  · exact .tlbFill hs1

theorem MemOk.poisonPlace {p : Nat} {from_ : Option Nat} (h : s.MemOk) : (s.poisonPlace p from_).MemOk := h

theorem MemOk.spoilUnit {st : Storage} {p : Nat} (h : s.MemOk) : (s.spoilUnit st p).MemOk := by
  unfold State.spoilUnit
  split
  · exact .poisonPlace h
  · exact .ite (.poisonPlace h) (.modCore h)
  · exact .modRegs h
  · exact .tenantTrigger (.signal h)
  · exact .poisonPlace h

theorem MemOk.spoil {st : Storage} {p : Nat} (h : s.MemOk) : (s.spoil st p).MemOk := by
  unfold State.spoil
  refine .ite h ?_
  extract_lets +onlyGivenNames t
  have ht : t.MemOk := .spoilUnit h
  exact .ite (.signal ht) ht

theorem MemOk.expectHeld {g : Nat} {k : Capture} (h : s.MemOk) : (s.expectHeld g k).MemOk := .modOps h

theorem MemOk.performHeld {g : Nat} {hd : HeldStore} (h : s.MemOk) : (s.performHeld g hd).MemOk := by
  unfold State.performHeld
  extract_lets +onlyGivenNames bs
  split
  · exact .sendTagged (.expectHeld h)
  · exact .storeRun h

theorem MemOk.clearHeld {g : Nat} {hs : List HeldStore} (h : s.MemOk) : (s.clearHeld g hs).MemOk :=
  .foldl h fun _ _ h1 => .clearPlaces h1

theorem MemOk.releaseHeld {g : Nat} (h : s.MemOk) : (s.releaseHeld g).MemOk := by
  unfold State.releaseHeld
  extract_lets +onlyGivenNames x s1
  have hs1 : s1.MemOk := .modIss h
  split
  · exact hs1
  · exact .ite hs1 (.modEvent (.clearHeld (.foldl hs1 fun _ _ h1 => .performHeld h1)))

theorem MemOk.passPoint {g : Nat} (h : s.MemOk) : (s.passPoint g).MemOk := .modIss h

theorem MemOk.passAll {gs : List Nat} (h : s.MemOk) : (s.passAll gs).MemOk :=
  .foldl (.foldl h fun _ _ h1 => .releaseHeld h1) fun _ _ h2 => .passPoint h2

theorem MemOk.mismatch {g : Nat} {b : Block} (h : s.MemOk) : (s.mismatch g b).MemOk :=
  .ite (.trapNow h) (.makeReady (.modEvent (.killParts (.owe h))))

theorem MemOk.compareEnds {g : Nat} {b : Block} (h : s.MemOk) : (s.compareEnds g b).MemOk :=
  .ite (.ite (.passAll h) (.mismatch h)) h

theorem MemOk.compareTwin {g : Nat} (h : s.MemOk) : (s.compareTwin g).MemOk := by
  unfold State.compareTwin
  split
  · exact .ite h (.ite (.compareEnds h) (.ite (.passAll h) (.mismatch h)))
  · exact h

theorem Kept.execFaultRecordWrite {tenant : Nat} (h : s.MemOk) : Kept (execFaultRecordWrite tenant s) :=
  MemOk.ite (.writeRecord h) h

theorem Kept.execTlbinv {tenant : Nat} {value : DWord} (h : s.MemOk) : Kept (execTlbinv tenant value s) :=
  .onVf h fun _ h1 => .startTlbinv h1

theorem Kept.execTlbinvDone {tenant : Nat} (h : s.MemOk) : Kept (execTlbinvDone tenant s) :=
  MemOk.ite (.endTlbinv h) h

theorem Kept.execPageWalk {core tenant : Nat} {va : DWord} (h : s.MemOk) : Kept (execPageWalk core tenant va s) :=
  MemOk.ite (.walkFor h) h

theorem Kept.execFltres {tenant : Nat} {value : DWord} (h : s.MemOk) : Kept (execFltres tenant value s) :=
  .onVf h fun _ h1 => .resolveFault h1

theorem Kept.execMemoryError {st : Storage} {place : Nat} {correctable : Bool} (h : s.MemOk) :
    Kept (execMemoryError st place correctable s) :=
  MemOk.ite h (.spoil h)

theorem Kept.execTwinCompare {gid : Nat} (h : s.MemOk) : Kept (execTwinCompare gid s) := MemOk.ite (.compareTwin h) h

/-! ### Mailbox -/

theorem MemOk.refuseLc {r : BitVec 8} (h : s.MemOk) : (s.refuseLc r).1.MemOk := .modPkg h

theorem MemOk.requestLc (h : s.MemOk) : s.requestLc.1.MemOk := by
  unfold State.requestLc
  extract_lets +onlyGivenNames m target matches_ s1
  have hs1 : s1.MemOk := .modHost h
  refine .iteFst (.refuseLc hs1) ?_
  split
  · exact .refuseLc hs1
  · exact .iteFst (.modPkg hs1) (.refuseLc hs1)

theorem MemOk.commitLc (h : s.MemOk) : s.commitLc.MemOk := by
  unfold State.commitLc
  split
  · exact h
  · exact .foldl h fun _ _ h1 => .modTenant h1

theorem MemOk.stage (h : s.MemOk) : s.stage.1.MemOk := by
  unfold State.stage
  extract_lets +onlyGivenNames v target last n chunk
  refine .iteFst h ?_
  extract_lets +onlyGivenNames s1
  have hs1 : s1.MemOk := .ite (.modHost h) h
  exact .iteFst hs1 (.iteFst (.modHost hs1) (.modHost hs1))

theorem MemOk.randomNonce (h : s.MemOk) : s.randomNonce.1.MemOk := .free (.free (.free (.free h)))

theorem MemOk.secEffect {code : Nat} (h : s.MemOk) : (s.secEffect code).1.MemOk := by
  unfold State.secEffect
  extract_lets +onlyGivenNames m
  refine .iteFst h ?_
  refine .iteFst h ?_
  split
  · exact .modHost (.randomNonce h)
  · exact .iteFst h h
  · exact h
  · exact .requestLc h
  · exact .stage h
  · exact h

theorem MemOk.secTake {code : Nat} (h : s.MemOk) : (s.secTake code).MemOk :=
  .ite (.modHost h) (.modHost (.secEffect h))

theorem MemOk.writeSecCmd {v : DWord} (h : s.MemOk) : (s.writeSecCmd v).MemOk :=
  .ite h (.ite (.secTake h) (.secTake (.modHost h)))

theorem MemOk.tenantTake {t : Nat} {v : DWord} (h : s.MemOk) : (s.tenantTake t v).MemOk :=
  .ite h (.ite (.modTenant h) (.modTenant h))

theorem Kept.onSec {f : State → State} (h : s.MemOk) (hf : ∀ t, t.MemOk → (f t).MemOk) : Kept (s.onSec f) :=
  MemOk.ite (hf _ h) h

theorem Kept.execGetnonce (h : s.MemOk) : Kept (execGetnonce s) := .onSec h fun _ h1 => .secTake h1
theorem Kept.execAttest (h : s.MemOk) : Kept (execAttest s) := .onSec h fun _ h1 => .secTake h1
theorem Kept.execGetcert (h : s.MemOk) : Kept (execGetcert s) := .onSec h fun _ h1 => .secTake h1
theorem Kept.execLcreq (h : s.MemOk) : Kept (execLcreq s) := .onSec h fun _ h1 => .secTake h1
theorem Kept.execStage (h : s.MemOk) : Kept (execStage s) := .onSec h fun _ h1 => .secTake h1
theorem Kept.execSecInvalid (h : s.MemOk) : Kept (execSecInvalid s) := .onSec h fun _ h1 => .secTake h1
theorem Kept.execLcCommit (h : s.MemOk) : Kept (execLcCommit s) := .onSec h fun _ h1 => .commitLc h1

theorem Kept.execSecCommandDone {tenant : Option Nat} (h : s.MemOk) : Kept (execSecCommandDone tenant s) := by
  unfold Machine.execSecCommandDone
  split
  · exact MemOk.ite (.signal (.modHost h)) h
  · exact MemOk.ite (.signal (.modTenant h)) h

theorem Kept.execTenantAttest {tenant : Nat} {cmd : DWord} (h : s.MemOk) : Kept (execTenantAttest tenant cmd s) :=
  .onVf h fun _ h1 => .tenantTake h1

theorem Kept.execTenantGetcert {tenant : Nat} {cmd : DWord} (h : s.MemOk) : Kept (execTenantGetcert tenant cmd s) :=
  .onVf h fun _ h1 => .tenantTake h1

theorem Kept.execTenantMailboxRefused {tenant : Nat} {cmd : DWord} (h : s.MemOk) :
    Kept (execTenantMailboxRefused tenant cmd s) :=
  .onVf h fun _ h1 => .tenantTake h1

theorem Kept.execPkgMsextGo (h : s.MemOk) : Kept (execPkgMsextGo s) := .onSec h fun _ h1 => .extendSlot h1
theorem Kept.execLcerrClear (h : s.MemOk) : Kept (execLcerrClear s) := .onSec h fun _ h1 => .modPkg h1

/-! ### Registers -/

theorem MemOk.stateOf {r : Host.Outcome State Fault Refusal} (h : s.MemOk) (hr : Kept r) : (stateOf s r).MemOk := by
  cases r with
  | next t => exact hr
  | fault e => exact h
  | refused e => exact h

theorem MemOk.writeSpare {v : DWord} (h : s.MemOk) : (s.writeSpare v).MemOk := by
  unfold State.writeSpare
  refine .ite h ?_
  extract_lets +onlyGivenNames s1
  have hs1 : s1.MemOk := .modPkg h
  split
  · exact .startSpare hs1
  · exact .startSpare hs1
  · exact .startSpare hs1

theorem MemOk.writePortCtl {n : Nat} {v : DWord} (h : s.MemOk) : (s.writePortCtl n v).MemOk := by
  unfold State.writePortCtl
  extract_lets +onlyGivenNames m
  refine .ite h ?_
  extract_lets +onlyGivenNames was s1 s2
  have hs1 : s1.MemOk := .modPort h
  have hs2 : s2.MemOk := .ite (.stateOf hs1 (.execPortDisable hs1)) hs1
  refine .ite ?_ hs2
  extract_lets +onlyGivenNames r
  have hr : r.1.MemOk := .free hs2
  exact .stateOf hr (.execPortRetrain hr)

theorem MemOk.writeDeadmap {i : Nat} {v : DWord} (h : s.MemOk) : (s.writeDeadmap i v).MemOk := by
  unfold State.writeDeadmap
  extract_lets +onlyGivenNames s1
  have hs1 : s1.MemOk := .modFab h
  exact .stateOf hs1 (.ite (.execDeadmapClear hs1) (.execDeadmapSet hs1))

theorem MemOk.writeSched {t o : Nat} {v : DWord} (h : s.MemOk) : (s.writeSched t o v).MemOk := by
  unfold State.writeSched
  split
  · exact .modSched h
  · exact .modSched h
  · exact .modSched h
  · split
    · exact .stateOf h (.execDrain h)
    · exact .stateOf h (.execDrainResume h)
    · exact .stateOf h (.execDrainRestore h)
    · exact h
  · exact .modSched h
  · exact h

theorem MemOk.writeTen {t o : Nat} {v : DWord} (h : s.MemOk) : (s.writeTen t o v).MemOk := by
  unfold State.writeTen
  split
  · exact .writeTenCfg h
  · exact .writeTenPch h
  · exact .ite (.stateOf h (.execTenantResetRequest h)) (.ite (.eraseTenant h)
      (.ite (.enableTenant h) (.stateOf h (.execTenantDisable h))))
  · exact h

theorem MemOk.writeDbg {t : Nat} {resident : Bool} {o : Nat} {v : DWord} (h : s.MemOk) :
    (s.writeDbg t resident o v).MemOk := by
  unfold State.writeDbg
  split
  · exact .modDbg h
  · exact .modDbg h
  · exact .ite (.debugCommand h) h
  · exact .modDbg h
  · split
    · exact .modDbg h
    · exact h

theorem MemOk.writePfDbg {o : Nat} {v : DWord} (h : s.MemOk) : (s.writePfDbg o v).MemOk :=
  .ite h (.writeDbg (.ite (.modHost h) h))

theorem MemOk.writePf {off : Nat} {v : DWord} (h : s.MemOk) : (s.writePf off v).MemOk := by
  unfold State.writePf
  split
  · exact .ite (.stateOf h (.execLcerrClear h)) h
  · exact .ite (.resetTrigger h) h
  · exact .writeSpare h
  · exact .stateOf h (.execCoreRetire h)
  · exact .ite (.stateOf h (.execPkgMsextGo h)) h
  · exact .modFab h
  · exact .modFab h
  · exact .modFab h
  · exact .modFab h
  · exact .noteAlarm (.modPwr h)
  · exact .ite h (.modPwr h)
  · exact .noteAlarm (.modPwr h)
  · exact .writeOwner h
  · exact .writeSecCmd h
  · refine .ite (.modHost h) ?_
    refine .ite (.modHost h) ?_
    refine .ite (.writePfDbg h) ?_
    split
    · exact .writePortCtl h
    · exact .writeDeadmap h
    · exact .writeSched h
    · exact .writeTen h
    · exact h

theorem MemOk.writeFqcfg {t : Nat} {v : DWord} (h : s.MemOk) : (s.writeFqcfg t v).MemOk := .modFq h

theorem MemOk.writeEvctl {t : Nat} {v : DWord} (h : s.MemOk) : (s.writeEvctl t v).MemOk := by
  unfold State.writeEvctl
  extract_lets +onlyGivenNames name
  refine .ite h ?_
  refine .stateOf h ?_
  split
  · exact .execEvctlResub h
  · exact .execEvctlRetire h
  · exact .execEvctlDiscard h
  · exact .execEvctlRelaunch h
  · exact .execEvctlSignal h
  · exact .execEvctlInvalid h

theorem MemOk.writeSor {t o : Nat} {v : DWord} (h : s.MemOk) : (s.writeSor t o v).MemOk := by
  unfold State.writeSor
  split
  · exact .modSor h
  · exact .modSor h
  · exact .modSor h
  · exact .ite (.commitSlot h) h
  · exact .modSor h
  · exact .modSor h
  · exact .modSor h
  · exact .modSor h
  · exact .modSor h
  · exact h

theorem MemOk.writeQueue {t q o : Nat} {v : DWord} (h : s.MemOk) : (s.writeQueue t q o v).MemOk := by
  unfold State.writeQueue
  split
  · exact .ite (.modQueue h) h
  · exact .writeQcfg h
  · exact .writeQtail h
  · exact h

theorem MemOk.writeStripe {t i o : Nat} {v : DWord} (h : s.MemOk) : (s.writeStripe t i o v).MemOk := by
  unfold State.writeStripe
  split
  · exact .writeSldCfg h
  · exact .writeSldLen h
  · split
    · exact .writeSldMem h
    · exact .ite (.sldErr h) h

theorem MemOk.writeVf {t off : Nat} {v : DWord} (h : s.MemOk) : (s.writeVf t off v).MemOk := by
  unfold State.writeVf
  split
  · exact .ite (.modFq h) h
  · exact .writeFqcfg h
  · exact .writeFqhead h
  · exact .writeEvctl h
  · exact .ite (.modTenant h) h
  · exact .startTlbinv h
  · exact .resolveFault h
  · exact .tenantTake h
  · refine .ite (.modTenant h) ?_
    refine .ite (.writeDbg h) ?_
    refine .ite (.writeSor h) ?_
    split
    · exact .writeQueue h
    · exact .writeStripe h
    · exact h

theorem MemOk.writeWhole {fn off : Nat} {v : DWord} (h : s.MemOk) : (s.writeWhole fn off v).MemOk :=
  .ite (.writePf h) (.writeVf h)

theorem MemOk.writeBar {fn off size : Nat} {v : DWord} (h : s.MemOk) : (s.writeBar fn off size v).MemOk :=
  .ite (.writeWhole h) (.ite (.writeWhole h) h)

theorem MemOk.writeBase {v : DWord} (h : s.MemOk) : (s.writeBase v).MemOk := .ite (.modHost h) h
theorem MemOk.writeVfBase {v : DWord} (h : s.MemOk) : (s.writeVfBase v).MemOk := .ite (.modHost h) h

theorem Kept.execRegisterWrite {fn off size : Nat} {value : DWord} (h : s.MemOk) :
    Kept (execRegisterWrite fn off size value s) :=
  MemOk.ite (.writeBar h) h

/-! ### Issue -/

theorem MemOk.wakeSector {sec : Nat} (h : s.MemOk) : (s.wakeSector sec).MemOk :=
  .foldl h fun _ _ h1 => .holdWaits (.endStep (.tryResume h1))

theorem MemOk.tickSector {sec : Nat} {who : Option Nat} (h : s.MemOk) : (s.tickSector sec who).MemOk :=
  .foldl h fun _ _ h1 => .tickGroup h1

theorem MemOk.stepWithin {g : Nat} (h : s.MemOk) : (s.stepWithin g).MemOk := by
  unfold State.stepWithin
  split
  · exact h
  · exact .ite h (.modIss h)

theorem MemOk.present {g : Nat} (h : s.MemOk) : (s.present g).MemOk := by
  unfold State.present
  extract_lets +onlyGivenNames x
  refine .ite h ?_
  split
  · exact h
  · exact h

theorem MemOk.prepare {sec : Nat} (h : s.MemOk) : (s.prepare sec).MemOk := by
  unfold State.prepare
  extract_lets +onlyGivenNames s1
  have hs1 : s1.MemOk := .wakeSector h
  split
  · exact .tickSector hs1
  · extract_lets +onlyGivenNames s2
    have hs2 : s2.MemOk := .tickSector hs1
    exact .ite (.beginReplay hs2) (.present (.startNext (.stepWithin hs2)))

theorem WorkOk.launch (h : s.MemOk) : WorkOk (s.launch) := by
  unfold State.launch
  split
  · exact h
  · split
    · exact h
    · exact h

theorem MemOk.dropPacket (h : s.MemOk) : s.dropPacket.MemOk := .modFab h

theorem MemOk.packageTurn (h : s.MemOk) : s.packageTurn.MemOk := by
  unfold State.packageTurn
  extract_lets +onlyGivenNames s1 s2
  have hs2 : s2.MemOk := .commitLc (.finishSpare h)
  exact .ite (.signal (.modHost hs2)) hs2

theorem MemOk.tenantTurn {t : Nat} (h : s.MemOk) : (s.tenantTurn t).MemOk := by
  unfold State.tenantTurn
  extract_lets +onlyGivenNames k s1 s2 s3
  have hs2 : s2.MemOk := .endRotation (.ite (.restartWorkers (.modTenant (.setTenState h))) h)
  have hs3 : s3.MemOk := .ite (.signal (.modTenant hs2)) hs2
  exact .writeRecord (.ite (.endTlbinv hs3) hs3)

theorem MemOk.stripeTurn {t i : Nat} (h : s.MemOk) : (s.stripeTurn t i).MemOk :=
  .ite h (.ite (.zeroRegion h) (.ite (.rebuiltRow h) h))

theorem MemOk.schedTurn {t : Nat} (h : s.MemOk) : (s.schedTurn t).MemOk := by
  unfold State.schedTurn
  extract_lets +onlyGivenNames s1 d s2 s3
  have hs1 : s1.MemOk := .ite (.boundaryEnd h) h
  have hs2 : s2.MemOk := .ite (.stopWatchdogs (.setDstate hs1)) (.ite (.writeSave hs1) (.ite (.restore hs1) hs1))
  have hs3 : s3.MemOk := .decodeTurn (.rereadRecord (.debugTurn (.evctlTurn hs2)))
  clear_value s3
  exact SomeOk.getD (.deliverTurn hs3) hs3

theorem MemOk.groupTurn {g : Nat} (h : s.MemOk) : (s.groupTurn g).MemOk := by
  unfold State.groupTurn
  refine .ite h ?_
  extract_lets +onlyGivenNames s1 s2
  have hs1 : s1.MemOk := .onGroup (.flushPend h)
  have hs2 : s2.MemOk := .ite (.compareTwin hs1) hs1
  refine .ite ?_ hs2
  extract_lets +onlyGivenNames s3
  have hs3 : s3.MemOk := .reportCopies (.reportErrs hs2)
  exact .ite (.endDrain hs3) hs3

theorem MemOk.coreTurn {c : Nat} (h : s.MemOk) : (s.coreTurn c).MemOk := by
  unfold State.coreTurn
  extract_lets +onlyGivenNames s1 s2
  have hs1 : s1.MemOk := .ite h (.drainNth h)
  have hs2 : s2.MemOk := by
    unfold s2
    split
    · exact hs1
    · exact .writeLines hs1
  exact .ite (.applyRoles hs2) hs2

theorem MemOk.background (h : s.MemOk) : s.background.MemOk := by
  unfold State.background
  extract_lets s1 ts s2 s3 s4 s5 s6 s7 s8 s9
  have h1 : s1.MemOk := .packageTurn h
  have h2 : s2.MemOk := .foldl h1 fun _ _ ht => .tenantTurn ht
  have h3 : s3.MemOk := .foldl h2 fun _ _ ht => .foldl ht fun _ _ hu => .stripeTurn hu
  have h4 : s4.MemOk := .foldl h3 fun _ _ ht => .schedTurn ht
  have h5 : s5.MemOk := .foldl h4 fun _ _ ht => .retireJob ht
  have h6 : s6.MemOk := .foldl h5 fun _ _ ht => .coreTurn ht
  have h7 : s7.MemOk := .foldl h6 fun _ _ ht => .powerCoreDown ht
  have h8 : s8.MemOk := .foldl h7 fun _ _ ht => .groupTurn ht
  have h9 : s9.MemOk := .foldl h8 fun _ _ ht => .repack ht
  clear_value s9
  exact h9

theorem WorkOk.moveWork {m : Move} (h : s.MemOk) : WorkOk (s.moveWork m) := by
  unfold State.moveWork
  split
  · exact h
  · exact .launch (.prepare h)
  · exact .drainNth h
  · exact .dropLine (.writeBack h)
  · exact MemOk.ite (.setBytes h) h
  · exact .writeRepair h
  · exact .readRepair h
  · exact .writeBase h
  · exact .writeVfBase h
  · exact .failCopy h
  · exact .modFab h

theorem WorkOk.turnWork (h : s.MemOk) : WorkOk (s.turnWork) :=
  .ite (.launch (.prepare h)) (.ite (.background h) (.background h))

theorem WorkOk.work (h : s.MemOk) : WorkOk (s.work) := by
  unfold State.work
  split
  · exact .launch h
  · split
    · exact .moveWork h
    · refine .ite (.ite trivial (.free h)) ?_
      split
      · exact h
      · split
        · exact h
        · exact .dropPacket h
      · exact .turnWork h

theorem MemOk.goOn {i : Instr} {c : Issue} (h : s.MemOk) : (s.goOn i c).MemOk := by
  unfold State.goOn
  extract_lets +onlyGivenNames s1
  have hs1 : s1.MemOk := .ite (.advancePart h) h
  exact .endForced (.ite (.parkSwitch hs1) hs1)

theorem MemOk.issued {c : Issue} (h : s.MemOk) : (s.issued c).MemOk := .modIss h

theorem MemOk.complete {i : Instr} {c : Issue} (h : s.MemOk) : (s.complete i c).MemOk := by
  unfold State.complete
  extract_lets +onlyGivenNames s1
  have hs1 : s1.MemOk := .modOps (.modRegs h)
  exact .noteStep (.issued (.ite hs1 (.goOn hs1)))

theorem MemOk.endReplay {i : Instr} {c : Issue} {k : Capture} (h : s.MemOk) : (s.endReplay i c k).MemOk := by
  unfold State.endReplay
  extract_lets +onlyGivenNames s1
  have hs1 : s1.MemOk := .modOps (.dropCapture h)
  exact .issued (.ite (.goOn hs1) hs1)

theorem MemOk.finish {s0 : State} {i : Instr} (h : s.MemOk) : (s0.finish i s).MemOk := by
  refine .startColls (.aftermath ?_)
  split
  · exact h
  · exact h
  · split
    · exact h
    · exact .issued (.modOps h)
    · exact .endReplay h
    · exact .complete h

/-! ### Every instruction and event -/

theorem Kept.exec {i : Instr} (h : s.MemOk) : Kept (exec i s) := by
  cases i with
  | inputVoltageChange => exact .execInputVoltageChange h
  | powerOnReset => exact .execPowerOnReset h
  | thermSample => exact .execThermSample h
  | powerWindow => exact .execPowerWindow h
  | sbDynamicAddress => exact .execSbDynamicAddress h
  | sbIndexWrite => exact .execSbIndexWrite h
  | sbRead => exact .execSbRead h
  | spareDone => exact .execSpareDone h
  | coreRetire => exact .execCoreRetire h
  | corePowerDown => exact .execCorePowerDown h
  | portRetrain => exact .execPortRetrain h
  | portDisable => exact .execPortDisable h
  | eyeMeasurement => exact .execEyeMeasurement h
  | laneFailure => exact .execLaneFailure h
  | portResume => exact .execPortResume h
  | portTrained => exact .execPortTrained h
  | matrixIdleGap => exact .execMatrixIdleGap h
  | packetForward => exact .execPacketForward h
  | custodyAck => exact .execCustodyAck h
  | custodyTimeout => exact .execCustodyTimeout h
  | localtmo => exact .execLocaltmo h
  | tagReuseTimeout => exact .execTagReuseTimeout h
  | gapSkipTimeout => exact .execGapSkipTimeout h
  | reductionTimeout => exact .execReductionTimeout h
  | reductionForget => exact .execReductionForget h
  | evsigResendStop => exact .execEvsigResendStop h
  | numvfsWrite => exact .execNumvfsWrite h
  | functionLevelReset => exact .execFunctionLevelReset h
  | tenCfgWrite => exact .execTenCfgWrite h
  | tenantResetRequest => exact .execTenantResetRequest h
  | pewerase => exact .execPewerase h
  | tenantEnable => exact .execTenantEnable h
  | tenantDisable => exact .execTenantDisable h
  | tenantResetEnd => exact .execTenantResetEnd h
  | keyRotationDone => exact .execKeyRotationDone h
  | queueEnable => exact .execQueueEnable h
  | queueDisable => exact .execQueueDisable h
  | qtailWrite => exact .execQtailWrite h
  | grid => exact .execGrid h
  | arm => exact .execArm h
  | signal => exact .execSignal h
  | nopOperator => exact .execNopOperator h
  | fqheadWrite => exact .execFqheadWrite h
  | faultRecordWrite => exact .execFaultRecordWrite h
  | jobDelivery => exact .execJobDelivery h
  | jobRetire => exact .execJobRetire h
  | evctlResub => exact .execEvctlResub h
  | evctlRetire => exact .execEvctlRetire h
  | evctlDiscard => exact .execEvctlDiscard h
  | evctlRelaunch => exact .execEvctlRelaunch h
  | evctlSignal => exact .execEvctlSignal h
  | evctlInvalid => exact .execEvctlInvalid h
  | sorOwnerWrite => exact .execSorOwnerWrite h
  | sorWcmt => exact .execSorWcmt h
  | sorrelBoundary => exact .execSorrelBoundary h
  | drain => exact .execDrain h
  | drainResume => exact .execDrainResume h
  | drainRestore => exact .execDrainRestore h
  | drainWatchdog => exact .execDrainWatchdog h
  | drainSave => exact .execDrainSave h
  | restoreDone => exact .execRestoreDone h
  | secCommandDone => exact .execSecCommandDone h
  | tenantAttest => exact .execTenantAttest h
  | tenantGetcert => exact .execTenantGetcert h
  | hostsigRead => exact .execHostsigRead h
  | registerWrite => exact .execRegisterWrite h
  | stripeEnable => exact .execStripeEnable h
  | stripeDisable => exact .execStripeDisable h
  | stripeMarkLost => exact .execStripeMarkLost h
  | stripeRebuildEnd => exact .execStripeRebuildEnd h
  | stripeZeroDone => exact .execStripeZeroDone h
  | rebuildRow => exact .execRebuildRow h
  | tlbinv => exact .execTlbinv h
  | tlbinvDone => exact .execTlbinvDone h
  | pageWalk => exact .execPageWalk h
  | fltres => exact .execFltres h
  | groupReplay => exact .execGroupReplay h
  | memoryError => exact .execMemoryError h
  | twinCompare => exact .execTwinCompare h
  | dbgStop => exact .execDbgStop h
  | dbgStep => exact .execDbgStep h
  | dbgResume => exact .execDbgResume h
  | dbgReadimg => exact .execDbgReadimg h
  | dbgWriteimg => exact .execDbgWriteimg h
  | dbgInvalid => exact .execDbgInvalid h
  | clauseStart => exact .execClauseStart h
  | groupPromotion => exact .execGroupPromotion h
  | resultWriteback => exact .execResultWriteback h
  | yieldExpiry => exact .execYieldExpiry h
  | sleepTimeout => exact .execSleepTimeout h
  | regroupRepack => exact .execRegroupRepack h
  | groupDrainEnd => exact .execGroupDrainEnd h
  | accessEngineRead => exact .execAccessEngineRead h
  | asyncCopyWrite => exact .execAsyncCopyWrite h
  | bankroleApply => exact .execBankroleApply h
  | collChunkTimeout => exact .execCollChunkTimeout h
  | nop => exact .execNop h
  | bra => exact .execBra h
  | brd => exact .execBrd h
  | bri => exact .execBri h
  | call => exact .execCall h
  | ret => exact .execRet h
  | loop => exact .execLoop h
  | lbrk => exact .execLbrk h
  | enrol => exact .execEnrol h
  | park => exact .execPark h
  | strike => exact .execStrike h
  | regang => exact .execRegang h
  | yield => exact .execYield h
  | exit => exact .execExit h
  | jobend => exact .execJobend h
  | trap => exact .execTrap h
  | bkpt => exact .execBkpt h
  | sleep => exact .execSleep h
  | gets => exact .execGets h
  | setsSrseed => exact .execSetsSrseed h
  | setsSorbnd => exact .execSetsSorbnd h
  | setsHostsig => exact .execSetsHostsig h
  | setsBankrole => exact .execSetsBankrole h
  | setsTlbinv => exact .execSetsTlbinv h
  | setsFltres => exact .execSetsFltres h
  | mbxpop => exact .execMbxpop h
  | enqop => exact .execEnqop h
  | evsig => exact .execEvsig h
  | acq => exact .execAcq h
  | tryacq => exact .execTryacq h
  | rel => exact .execRel h
  | claimq => exact .execClaimq h
  | iadd => exact .execIadd h
  | isub => exact .execIsub h
  | imul => exact .execImul h
  | imulh => exact .execImulh h
  | imad => exact .execImad h
  | iabs => exact .execIabs h
  | imin => exact .execImin h
  | imax => exact .execImax h
  | and => exact .execAnd h
  | or => exact .execOr h
  | xor => exact .execXor h
  | andn => exact .execAndn h
  | shl => exact .execShl h
  | shr => exact .execShr h
  | sar => exact .execSar h
  | rot => exact .execRot h
  | popc => exact .execPopc h
  | clz => exact .execClz h
  | brev => exact .execBrev h
  | bfx => exact .execBfx h
  | bfi => exact .execBfi h
  | icmp => exact .execIcmp h
  | isel => exact .execIsel h
  | mov => exact .execMov h
  | movi => exact .execMovi h
  | lea => exact .execLea h
  | cvti => exact .execCvti h
  | pand => exact .execPand h
  | por => exact .execPor h
  | pxor => exact .execPxor h
  | pnot => exact .execPnot h
  | fadd => exact .execFadd h
  | fsub => exact .execFsub h
  | fmul => exact .execFmul h
  | ffma => exact .execFfma h
  | ffma2 => exact .execFfma2 h
  | hfma2 => exact .execHfma2 h
  | fmin => exact .execFmin h
  | fmax => exact .execFmax h
  | fcmp => exact .execFcmp h
  | fsel => exact .execFsel h
  | frnd => exact .execFrnd h
  | fcvt => exact .execFcvt h
  | frcp => exact .execFrcp h
  | frsq => exact .execFrsq h
  | fsqrt => exact .execFsqrt h
  | fexp2 => exact .execFexp2 h
  | flog2 => exact .execFlog2 h
  | fsin => exact .execFsin h
  | fcos => exact .execFcos h
  | ftanh => exact .execFtanh h
  | fscl => exact .execFscl h
  | ffrx => exact .execFfrx h
  | fcls => exact .execFcls h
  | fdot2 => exact .execFdot2 h
  | shfl => exact .execShfl h
  | qxch => exact .execQxch h
  | ballot => exact .execBallot h
  | vote => exact .execVote h
  | match_ => exact .execMatch h
  | redux => exact .execRedux h
  | scan => exact .execScan h
  | firstl => exact .execFirstl h
  | trdrow => exact .execTrdrow h
  | twrrow => exact .execTwrrow h
  | trdcol => exact .execTrdcol h
  | twrcol => exact .execTwrcol h
  | ld => exact .execLd h
  | st => exact .execSt h
  | lds => exact .execLds h
  | sts => exact .execSts h
  | ldv => exact .execLdv h
  | stv => exact .execStv h
  | atom => exact .execAtom h
  | red => exact .execRed h
  | fence => exact .execFence h
  | sfence => exact .execSfence h
  | pbar => exact .execPbar h
  | cflush => exact .execCflush h
  | cinv => exact .execCinv h
  | pref => exact .execPref h
  | mcast => exact .execMcast h
  | acpy => exact .execAcpy h
  | abatch => exact .execAbatch h
  | await => exact .execAwait h
  | tcpy => exact .execTcpy h
  | rcpy => exact .execRcpy h
  | coll => exact .execColl h
  | bari => exact .execBari h
  | barx => exact .execBarx h
  | bara => exact .execBara h
  | barw => exact .execBarw h
  | bsync => exact .execBsync h
  | csync => exact .execCsync h
  | qinit => exact .execQinit h
  | qpush => exact .execQpush h
  | qpop => exact .execQpop h
  | qtry => exact .execQtry h
  | mclaim => exact .execMclaim h
  | mrel => exact .execMrel h
  | mma => exact .execMma h
  | mmas => exact .execMmas h
  | azero => exact .execAzero h
  | ast => exact .execAst h
  | acvt => exact .execAcvt h
  | mburst => exact .execMburst h
  | cvtn => exact .execCvtn h
  | cvtw => exact .execCvtw h
  | sclx => exact .execSclx h
  | packn => exact .execPackn h
  | unpkn => exact .execUnpkn h
  | recordRefused => exact .execRecordRefused h
  | ringReadFault => exact .execRingReadFault h
  | vectorUnmask => exact .execVectorUnmask h
  | linkTraining => exact .execLinkTraining h
  | portDown => exact .execPortDown h
  | tenantMailboxRefused => exact .execTenantMailboxRefused h
  | powerInputLost => exact .execPowerInputLost h
  | perstNAssert => exact .execPerstNAssert h
  | perstNRelease => exact .execPerstNRelease h
  | pcieHotReset => exact .execPcieHotReset h
  | devrst => exact .execDevrst h
  | persistDrain => exact .execPersistDrain h
  | wipe => exact .execWipe h
  | measuredBoot => exact .execMeasuredBoot h
  | modReady => exact .execModReady h
  | thermalTrip => exact .execThermalTrip h
  | pwrAlertChange => exact .execPwrAlertChange h
  | spareNop => exact .execSpareNop h
  | softSpare => exact .execSoftSpare h
  | hardSpare => exact .execHardSpare h
  | spareReserved => exact .execSpareReserved h
  | capRefill => exact .execCapRefill h
  | deadmapSet => exact .execDeadmapSet h
  | deadmapClear => exact .execDeadmapClear h
  | vfEnable => exact .execVfEnable h
  | vfEnableClear => exact .execVfEnableClear h
  | getnonce => exact .execGetnonce h
  | attest => exact .execAttest h
  | getcert => exact .execGetcert h
  | lcreq => exact .execLcreq h
  | lcCommit => exact .execLcCommit h
  | stage => exact .execStage h
  | secInvalid => exact .execSecInvalid h
  | pkgMsextGo => exact .execPkgMsextGo h
  | lcerrClear => exact .execLcerrClear h
  | rd => exact .execRd h
  | rdrsp => exact .execRdrsp h
  | wr => exact .execWr h
  | wrack => exact .execWrack h
  | atReq => exact .execAtReq h
  | atrsp => exact .execAtrsp h
  | mc => exact .execMc h
  | mcack => exact .execMcack h
  | rcp => exact .execRcp h
  | rcpack => exact .execRcpack h
  | redPkt => exact .execRedPkt h
  | redres => exact .execRedres h
  | evsub => exact .execEvsub h
  | evsigPkt => exact .execEvsigPkt h
  | sdelta => exact .execSdelta h
  | sdack => exact .execSdack h
  | srbld => exact .execSrbld h
  | srbldrsp => exact .execSrbldrsp h
  | errNotice => exact .execErrNotice h
  | gap => exact .execGap h
  | restart => exact .execRestart h
  | restartAck => exact .execRestartAck h
  | mgmt => exact .execMgmt h

theorem Kept.step (h : s.MemOk) : Kept (step s) := by
  have hw := WorkOk.work h
  unfold Machine.step
  split
  · trivial
  next e => rw [e] at hw; exact hw
  next i t e =>
    rw [e] at hw
    have hx := Kept.exec (i := i) hw
    split
    next e => rw [e] at hx; exact MemOk.finish hx
    · trivial
    · trivial

end State

/-- Settles O60: by the rule of `step`, which the rules of all the operations that a step is made of give. -/
theorem memoryInvariant : Obligations.MemoryInvariant := by
  intro s t e h
  have ht := State.Kept.step h
  rw [e] at ht
  exact ht

end Sys2Proof.Machine

/-! SUPPORT. Every meaning answers a next state: the operations that meanings are made of do, and so does a choice between two
that do. -/

namespace Sys2Proof.Machine

/-- An outcome that is a next state. -/
def Answers (r : Host.Outcome State Fault Refusal) : Prop := ∃ t, r = .next t

namespace Answers

variable {s : State}

theorem next (t : State) : Answers (.next t) := ⟨t, rfl⟩

theorem ite {p : Prop} {_ : Decidable p} {q r : Host.Outcome State Fault Refusal} (hq : Answers q) (hr : Answers r) :
    Answers (if p then q else r) := by
  split
  · exact hq
  · exact hr

/-- An instruction answers whether or not its start lets it issue. -/
theorem run {a : Ask} {body : State → Issue → Ctx → State} : Answers (run s a body) := by
  unfold Machine.run
  split
  · exact .next _
  · exact .next _

/-- A packet's meaning answers whether or not such a packet is at the head of the arrivals. -/
theorem onHead {typ : Nat} {f : State → Packet → State} : Answers (s.onHead typ f) := by
  unfold State.onHead
  split
  · exact .next _
  · exact .next _

theorem onMgmt {ok : Nat → Bool} {f : State → Packet → State} : Answers (s.onMgmt ok f) := by
  unfold State.onMgmt
  split
  · exact .next _
  · exact .ite (.next _) (.next _)

theorem execCustodyTimeout {n : Nat} : Answers (execCustodyTimeout n s) := by
  unfold Machine.execCustodyTimeout
  split
  · exact .next _
  · dsimp only
    split
    · exact .next _
    · split
      · exact .next _
      · exact .next _

theorem execLocaltmo {tag : BitVec 16} : Answers (execLocaltmo tag s) := by
  unfold Machine.execLocaltmo
  split
  · exact .next _
  · exact .next _

theorem execCollChunkTimeout {core chunk : Nat} {collid : Word} : Answers (execCollChunkTimeout core collid chunk s) := by
  unfold Machine.execCollChunkTimeout
  split
  · exact .next _
  · exact .next _

/-- Every instruction and event answers: those that issue do by `run`, packets by the head of the arrivals, and the other events
by their own branches. -/
theorem exec (i : Instr) : Answers (exec i s) := by
  cases i with
  | nop | bra | brd | bri | call | ret | loop | lbrk | enrol | park | strike | regang | yield | exit | jobend | trap
    | bkpt | sleep | gets | setsSrseed | setsSorbnd | setsHostsig | setsBankrole | setsTlbinv | setsFltres | mbxpop
    | enqop | evsig | acq | tryacq | rel | claimq | iadd | isub | imul | imulh | imad | iabs | imin | imax | and | or
    | xor | andn | shl | shr | sar | rot | popc | clz | brev | bfx | bfi | icmp | isel | mov | movi | lea | cvti
    | pand | por | pxor | pnot | fadd | fsub | fmul | ffma | ffma2 | hfma2 | fmin | fmax | fcmp | fsel | frnd | fcvt
    | frcp | frsq | fsqrt | fexp2 | flog2 | fsin | fcos | ftanh | fscl | ffrx | fcls | fdot2 | shfl | qxch | ballot
    | vote | match_ | redux | scan | firstl | trdrow | twrrow | trdcol | twrcol | ld | st | lds | sts | ldv | stv
    | atom | red | fence | sfence | pbar | cflush | cinv | pref | mcast | acpy | abatch | await | tcpy | rcpy | coll
    | bari | barx | bara | barw | bsync | csync | qinit | qpush | qpop | mclaim | mrel | mma | mmas | azero
    | ast | acvt | mburst | cvtn | cvtw | sclx | packn | unpkn => exact .run
  | rd | rdrsp | wr | wrack | atReq | atrsp | mc | mcack | rcp | rcpack | redPkt | redres | evsub | evsigPkt | sdelta
    | sdack | srbld | srbldrsp | errNotice | gap => exact .onHead
  | qtry => exact .ite .run .run
  | restart => exact show Answers (execRestart s) from .onMgmt
  | restartAck => exact show Answers (execRestartAck s) from .onMgmt
  | mgmt => exact show Answers (execMgmt s) from .onMgmt
  | powerOnReset | powerWindow | portDisable | eyeMeasurement | portTrained | numvfsWrite | vectorUnmask =>
    exact .ite (.next _) (.next _)
  | thermSample => exact .ite (.next _) (.ite (.next _) (.next _))
  | custodyTimeout => exact .execCustodyTimeout
  | localtmo => exact .execLocaltmo
  | secCommandDone tenant => cases tenant <;> exact .next _
  | collChunkTimeout => exact .execCollChunkTimeout
  | inputVoltageChange | sbDynamicAddress | sbIndexWrite | sbRead | spareDone | coreRetire | corePowerDown
    | portRetrain | laneFailure | portResume | matrixIdleGap | packetForward | custodyAck | tagReuseTimeout
    | gapSkipTimeout | reductionTimeout | reductionForget | evsigResendStop | functionLevelReset | tenCfgWrite
    | tenantResetRequest | pewerase | tenantEnable | tenantDisable | tenantResetEnd | keyRotationDone | queueEnable
    | queueDisable | qtailWrite | grid | arm | signal | nopOperator | fqheadWrite | faultRecordWrite | jobDelivery
    | jobRetire | evctlResub | evctlRetire | evctlDiscard | evctlRelaunch | evctlSignal | evctlInvalid | sorOwnerWrite
    | sorWcmt | sorrelBoundary | drain | drainResume | drainRestore | drainWatchdog | drainSave | restoreDone
    | tenantAttest | tenantGetcert | hostsigRead | registerWrite | stripeEnable | stripeDisable | stripeMarkLost
    | stripeRebuildEnd | stripeZeroDone | rebuildRow | tlbinv | tlbinvDone | pageWalk | fltres | groupReplay
    | memoryError | twinCompare | dbgStop | dbgStep | dbgResume | dbgReadimg | dbgWriteimg | dbgInvalid | clauseStart
    | groupPromotion | resultWriteback | yieldExpiry | sleepTimeout | regroupRepack | groupDrainEnd | accessEngineRead
    | asyncCopyWrite | bankroleApply | recordRefused | ringReadFault | linkTraining | portDown | tenantMailboxRefused
    | powerInputLost | perstNAssert | perstNRelease | pcieHotReset | devrst | persistDrain | wipe | measuredBoot
    | modReady | thermalTrip | pwrAlertChange | spareNop | softSpare | hardSpare | spareReserved | capRefill
    | deadmapSet | deadmapClear | vfEnable | vfEnableClear | getnonce | attest | getcert | lcreq | lcCommit | stage
    | secInvalid | pkgMsextGo | lcerrClear => exact .next _

end Answers

/-! Where a step halts. -/

namespace State

theorem launch_ne_halt (s : State) : s.launch ≠ .halt := by
  unfold launch
  split
  · nofun
  · split
    · nofun
    · nofun

theorem moveWork_ne_halt (s : State) (m : Move) : s.moveWork m ≠ .halt := by
  cases m
  case issue sec => exact launch_ne_halt _
  all_goals nofun

theorem turnWork_ne_halt (s : State) : s.turnWork ≠ .halt := by
  unfold turnWork
  dsimp only
  split
  · exact launch_ne_halt _
  · split
    · nofun
    · nofun

/-- Work halts only where nothing is at hand and no clock runs: the input is lost, or the module has cut it off (R20, R50). -/
theorem work_halt {s : State} (h : s.work = .halt) :
    s.cur = none ∧ s.agenda = [] ∧ s.pwr.on = false ∧ (s.pwr.lost = true ∨ s.pwr.tripped = true) := by
  unfold work at h
  split at h
  next => exact absurd h (launch_ne_halt _)
  next hcur =>
    split at h
    next => exact absurd h (moveWork_ne_halt _ _)
    next hagenda =>
      split at h
      next hoff =>
        split at h
        next hlost => exact ⟨hcur, hagenda, by simpa using hoff, hlost⟩
        next => nomatch h
      next =>
        split at h
        next => nomatch h
        next => split at h <;> nomatch h
        next => exact absurd h (turnWork_ne_halt _)

end State

/-- Settles O24: every meaning answers, so a step stops only where its work halts. -/
theorem everyStepAnswers : Obligations.EveryStepAnswers := by
  refine ⟨fun i _ => Answers.exec i, fun s => ?_⟩
  unfold step
  split
  next h =>
    obtain ⟨hcur, hagenda, hoff, hlost⟩ := State.work_halt h
    exact .inr ⟨rfl, hcur, hagenda, hoff, hlost⟩
  next t _ => exact .inl ⟨t, rfl⟩
  next i t _ =>
    obtain ⟨u, hu⟩ := Answers.exec (s := t) i
    exact .inl ⟨t.finish i u, by rw [hu]⟩

end Sys2Proof.Machine

/-! SUPPORT. Which record a register of the physical function shows: the register map (R88) opened once for each block of
registers, at an offset that stands for any of the block. -/

namespace Sys2Proof.Machine

namespace State

/-- An offset that begins a register of a bank. -/
theorem bankIndex_of_mem {off base n size k o : Nat} (e : off = base + size * k + o) (ho : o < size) (hk : k < n) :
    bankIndex off base n size = some k := by
  have hmul : size * k + size ≤ n * size := by
    rw [Nat.mul_comm n, ← Nat.mul_succ]
    exact Nat.mul_le_mul_left size hk
  have hdiv : (size * k + o) / size = k := by
    rw [Nat.mul_add_div (by omega), Nat.div_eq_of_lt ho, Nat.add_zero]
  rw [bankIndex, if_pos ⟨by omega, by omega⟩, e, Nat.add_assoc, Nat.add_sub_cancel_left, hdiv]

theorem bankIndex_of_not_mem {off base n size : Nat} (h : off < base ∨ base + n * size ≤ off) :
    bankIndex off base n size = none := by
  rw [bankIndex, if_neg (by omega)]

/-- FAB_PORTCTL of a port (R39). -/
theorem pfReg_portCtl (s : State) {n : Nat} (h : n < 62) : s.pfReg (0x1000 + 8 * n) = portCtl (s.port n) := by
  have hn : bankIndex (0x1000 + 8 * n) 0x1000 62 8 = some n := bankIndex_of_mem (o := 0) rfl (by omega) h
  unfold pfReg
  split
  case h_22 =>
    rw [if_neg (by omega), if_neg (by omega), if_neg (by omega), if_neg (by omega), if_neg (by omega), hn]
  all_goals omega

/-- Tarragon's registers of a tenant (R125). -/
theorem pfReg_sched (s : State) {off t o : Nat} (h : t < 8) (ho : o < 0x40) (e : off = 0x3000 + 0x40 * t + o) :
    s.pfReg off = schedReg (s.tenant t).sched (s.reserveOf t) o := by
  subst e
  have ht : bankIndex (0x3000 + 0x40 * t + o) 0x3000 8 0x40 = some t := bankIndex_of_mem rfl ho h
  have ho' : (0x3000 + 0x40 * t + o) % 0x40 = o := by omega
  unfold pfReg
  split
  case h_22 =>
    rw [if_neg (by omega), if_neg (by omega), if_neg (by omega), if_neg (by omega), if_neg (by omega),
      bankIndex_of_not_mem (by omega), bankIndex_of_not_mem (by omega), bankIndex_of_not_mem (by omega), ht]
    dsimp only
    rw [ho']
  all_goals omega

/-- The boundary registers of every index (R102). -/
theorem pfReg_boundary (s : State) {off o : Nat} (h : o < 0x1000) (e : off = 0x6000 + o) : s.pfReg off = s.boundReg o := by
  subst e
  unfold pfReg
  split
  case h_22 =>
    rw [if_neg (by omega), if_neg (by omega), if_neg (by omega), if_pos (by omega), Nat.add_sub_cancel_left]
  all_goals omega

/-! What the records read as after a reset. -/

theorem reset_portCtl (n : Nat) : portCtl (State.reset.port n) = 0x30 := rfl

/-- AGESTEP and the watchdog limit (R125). -/
theorem reset_schedReg (t : Nat) :
    schedReg (State.reset.tenant t).sched (State.reset.reserveOf t) 8 = 64 ∧
      schedReg (State.reset.tenant t).sched (State.reset.reserveOf t) 0x10 = 0 :=
  ⟨rfl, rfl⟩

/-- Egress and budget registers: each index reaches no device and has no budget (R102). -/
theorem reset_boundReg_limits : ∀ t < 9,
    State.reset.boundReg (0x400 + 8 * t) = 31 + 31 * 2 ^ 10 ∧ State.reset.boundReg (0x800 + 8 * t) = 0 := by
  decide +kernel

/-- Windows and ranges: each has its base above its limit, and so is empty (R102). -/
theorem reset_boundReg_ranges : ∀ t < 9, ∀ i < 4,
    State.reset.boundReg (0x40 * t + 0x10 * i) = 0xFFFFFFFFFFFFF000 ∧
      State.reset.boundReg (0x40 * t + 0x10 * i + 8) = 0 ∧
      State.reset.boundReg (0x500 + 0x40 * t + 0x10 * i) = 0x1FFFFFFFF000 ∧
      State.reset.boundReg (0x500 + 0x40 * t + 0x10 * i + 8) = 0 := by
  decide +kernel

end State

/-- Settles O28: the register map leads to the records, which a reset leaves at their first values. -/
theorem resetRegisters : Obligations.ResetRegisters := by
  unfold Obligations.ResetRegisters
  intro s
  refine ⟨State.memOk_reset, rfl, fun _ => rfl, rfl, rfl, rfl, rfl, fun n hn => ?_, fun t ht => ?_, fun t ht => ?_⟩
  · rw [s.pfReg_portCtl hn, State.reset_portCtl]
  · obtain ⟨hage, hwdog⟩ := State.reset_schedReg t
    exact ⟨(s.pfReg_sched ht (by omega) (by omega)).trans hage, (s.pfReg_sched ht (by omega) (by omega)).trans hwdog⟩
  · obtain ⟨hout, hcap⟩ := State.reset_boundReg_limits t ht
    refine ⟨(s.pfReg_boundary (by omega) (by omega)).trans hout, (s.pfReg_boundary (by omega) (by omega)).trans hcap,
      fun i hi => ?_⟩
    obtain ⟨hbase, hlim, ibase, ilim⟩ := State.reset_boundReg_ranges t ht i hi
    exact ⟨(s.pfReg_boundary (by omega) (by omega)).trans hbase, (s.pfReg_boundary (by omega) (by omega)).trans hlim,
      (s.pfReg_boundary (by omega) (by omega)).trans ibase, (s.pfReg_boundary (by omega) (by omega)).trans ilim⟩

end Sys2Proof.Machine

/-! SUPPORT. What the router's own operations change (R59 to R71): nothing outside the router, and of the router not the
ports. One rule for each operation, shaped like the operation. -/

namespace Sys2Proof.Machine

namespace State

/-- `t` is `s` but for what the router holds; its ports stand as they did. -/
structure RouterOnly (s t : State) : Prop where
  rest : t = { s with fab := t.fab }
  ports : t.fab.ports = s.fab.ports

namespace RouterOnly

variable {s t u : State}

theorem refl (s : State) : RouterOnly s s := ⟨rfl, rfl⟩

theorem modFab {f : Fabric → Fabric} (h : RouterOnly s t) (hf : (f t.fab).ports = t.fab.ports) :
    RouterOnly s (t.modFab f) :=
  ⟨by rw [h.rest]; rfl, hf.trans h.ports⟩

theorem ite {p : Prop} {_ : Decidable p} (ht : RouterOnly s t) (hu : RouterOnly s u) :
    RouterOnly s (if p then t else u) := by
  split
  · exact ht
  · exact hu

theorem foldl {α : Type} {f : State → α → State} {xs : List α} (h : RouterOnly s t)
    (hf : ∀ t x, RouterOnly s t → RouterOnly s (f t x)) : RouterOnly s (xs.foldl f t) :=
  List.foldlRecOn xs f h fun t ht x _ => hf t x ht

theorem exists_fab (h : RouterOnly s t) : ∃ f : Fabric, t = { s with fab := f } := ⟨t.fab, h.rest⟩

theorem mem (h : RouterOnly s t) : t.mem = s.mem := by rw [h.rest]

theorem port (h : RouterOnly s t) (n : Nat) : t.port n = s.port n := by rw [State.port, h.ports]; rfl

theorem toInbox {p : Packet} (h : RouterOnly s t) : RouterOnly s (t.toInbox p) := .modFab h rfl
theorem setRx {k : StreamKey} {r : RxStream} (h : RouterOnly s t) : RouterOnly s (t.setRx k r) := .modFab h rfl

theorem advanceRx {k : StreamKey} {fuel : Nat} (h : RouterOnly s t) : RouterOnly s (t.advanceRx k fuel) := by
  induction fuel generalizing t with
  | zero => exact h
  | succ fuel ih =>
    rw [State.advanceRx]
    split
    · exact ih (.toInbox (.setRx h))
    · exact .ite (ih (.setRx h)) h

theorem skipSeq {k : StreamKey} {seq : Nat} (h : RouterOnly s t) : RouterOnly s (t.skipSeq k seq) :=
  .ite h (.advanceRx (.setRx h))

theorem sendOn {port : Nat} {p : Packet} {hop : Bool} (h : RouterOnly s t) : RouterOnly s (t.sendOn port p hop) :=
  .modFab h rfl

theorem charge {vcn units : Nat} (h : RouterOnly s t) : RouterOnly s (t.charge vcn units) := .modFab h rfl

theorem sendNoticeBy {cleared : Bool} {p : Packet} (h : RouterOnly s t) : RouterOnly s (sendNoticeBy cleared t p) := by
  unfold State.sendNoticeBy
  split
  · exact h
  · dsimp only
    split
    · exact .toInbox h
    · exact h
    · exact .ite (.modFab h rfl) (.sendOn (.charge h))

theorem abandonSeq {cleared : Bool} {p : Packet} (h : RouterOnly s t) : RouterOnly s (abandonSeq cleared t p) :=
  .ite h (.ite (.skipSeq h) (.sendNoticeBy h))

theorem endPacketBy {cleared : Bool} {p : Packet} {code : BitVec 4} (h : RouterOnly s t) :
    RouterOnly s (endPacketBy cleared t p code) := by
  unfold State.endPacketBy
  extract_lets +onlyGivenNames copies t1
  have h1 : RouterOnly s t1 := .foldl h fun _ _ h2 => .ite (.sendNoticeBy h2) (.abandonSeq (.sendNoticeBy h2))
  exact .abandonSeq (.ite (.sendNoticeBy h1) h1)

theorem place {p : Packet} (h : RouterOnly s t) : ∀ u ∈ t.place p, RouterOnly s u := by
  unfold State.place
  intro u hu
  split at hu
  · cases hu; exact .toInbox h
  · cases hu; exact .endPacketBy h
  · split at hu
    · cases hu; exact .sendOn h
    · nomatch hu

theorem leave {p : Packet} (h : RouterOnly s t) : RouterOnly s (t.leave p) := by
  unfold State.leave
  extract_lets +onlyGivenNames k first r c p1 sent t1 t2
  have h2 : RouterOnly s t2 := .charge (.modFab h rfl)
  cases e : t2.place p1 with
  | none => exact h2
  | some u => exact h2.place u e

theorem inject {p : Packet} (h : RouterOnly s t) : RouterOnly s (t.inject p) :=
  .ite (.toInbox h) (.ite (.modFab h rfl) (.leave h))

end RouterOnly

end State

end Sys2Proof.Machine

/-! SUPPORT. What a signalled vector, a device reset, and the loss of internal power leave (R20 to R25, R90). -/

namespace Sys2Proof.Machine

namespace Map

/-- The map with the value at every listed key changed. -/
theorem find_map {α β : Type} (f : α → β) (m : Map α) (x : Nat) :
    Map.find (m.map fun e => (e.1, f e.2)) x = (Map.find m x).map f := by
  induction m with
  | nil => rfl
  | cons e m ih =>
    obtain ⟨k, v⟩ := e
    rw [List.map_cons, find_cons, find_cons, ih]
    split
    · rfl
    · rfl

end Map

namespace State

/-! ### Vectors -/

/-- A vector that is signalled concerns the host's side alone. -/
theorem signal_eq (s : State) (fn vec : Nat) : s.signal fn vec = { s with host := (s.signal fn vec).host } := by
  unfold signal
  split
  · rfl
  · split
    · rfl
    · rfl

theorem level_eq (s : State) (cause fn vec : Nat) (now : Bool) :
    s.level cause fn vec now = { s with host := (s.level cause fn vec now).host } := by
  unfold level
  dsimp only
  split
  · rw [signal_eq]; rfl
  · rfl

theorem noteAlarm_eq (s : State) : s.noteAlarm = { s with host := s.noteAlarm.host } := by
  unfold noteAlarm
  rw [level_eq, level_eq s]

/-- A vector of the physical function that is not masked is sent. -/
theorem signal_unmasked {s : State} {vec : Nat} (h : Map.get true s.host.masked vec = false) :
    (s.signal 0 vec).host.vectors = (0, vec) :: s.host.vectors := by
  simp [signal, fnEnabled, h]

theorem level_low (s : State) (cause fn vec : Nat) :
    s.level cause fn vec false = s.modHost fun h => { h with cause := Map.put cause false h.cause } := rfl

theorem level_rising {s : State} {cause : Nat} (fn vec : Nat) (h : Map.get false s.host.cause cause = false) :
    s.level cause fn vec true =
      (s.modHost fun h => { h with cause := Map.put cause true h.cause }).signal fn vec := by
  simp [level, h]

/-- The alarm's rising edge alone sends vector 2 (R90). -/
theorem noteAlarm_rising {s : State} (ha : s.alarm = true) (hh : s.hot = false)
    (hc : Map.get false s.host.cause 1 = false) (hm : Map.get true s.host.masked 2 = false) :
    s.noteAlarm.host.vectors = (0, 2) :: s.host.vectors := by
  rw [noteAlarm, ha, hh, level_low, level_rising (cause := alarmCause) 0 2 hc]
  exact signal_unmasked (s := s.modHost fun h => { h with cause := Map.put 1 true h.cause }) hm

/-! ### A device reset (R22 to R25) -/

/-- What phase 1 of a reset leaves of a state: it is held or under way, every group, part and packet is gone, memory and the
tenants' key epochs stand. -/
def ResetFrom (s t : State) : Prop :=
  t.pkg.phase = (if s.pwr.perstLow = true then .held else .stop) ∧ t.pkg.modReady = false ∧
    t.groups = [] ∧ t.cores = [] ∧ t.blocks = [] ∧ t.events = [] ∧ t.fab.custody = [] ∧ t.mem = s.mem ∧
    ∀ k, (t.tenant k).epoch = (s.tenant k).epoch

/-- Phase 1 is the volatile reset of a state that its packets have left, held where PERST_N is low. -/
theorem phaseOne_eq (s : State) : ∃ f : Fabric, s.phaseOne =
    ({ s with fab := f } : State).volatileReset.modPkg fun p =>
      { p with phase := if s.pwr.perstLow = true then .held else .stop } := by
  unfold phaseOne
  extract_lets +onlyGivenNames held t
  have hr : RouterOnly s (held.foldl (fun s p => endPacketBy true s p 7) (s.modFab fun f => { f with custody := [] })) :=
    .foldl (.modFab (.refl s) rfl) fun _ _ h => .endPacketBy h
  obtain ⟨f, hf⟩ := hr.exists_fab
  have ht : t = ({ s with fab := f } : State).volatileReset := congrArg volatileReset hf
  refine ⟨f, ?_⟩
  rw [ht]
  split
  · rfl
  · rfl

/-- A tenant's key epoch outlasts a reset (R108). -/
theorem volatileReset_epoch (s : State) (k : Nat) : (s.volatileReset.tenant k).epoch = (s.tenant k).epoch := by
  have h : Map.find s.volatileReset.tenants k = (Map.find s.tenants k).map Tenant.kept := Map.find_map _ _ _
  rw [tenant, tenant, Map.get, Map.get, h]
  cases Map.find s.tenants k
  · rfl
  · rfl

theorem phaseOne_reset (s : State) : ResetFrom s s.phaseOne := by
  obtain ⟨f, h⟩ := phaseOne_eq s
  rw [h]
  exact ⟨rfl, rfl, rfl, rfl, rfl, rfl, rfl, rfl, fun k => volatileReset_epoch { s with fab := f } k⟩

/-- A reset changes neither the pins nor whether power is on. -/
theorem phaseOne_pwr (s : State) : s.phaseOne.pwr.on = s.pwr.on ∧ s.phaseOne.pwr.lost = s.pwr.lost ∧
    s.phaseOne.pwr.perstLow = s.pwr.perstLow ∧ s.phaseOne.pkg.holdup = s.pkg.holdup := by
  obtain ⟨f, h⟩ := phaseOne_eq s
  rw [h]
  exact ⟨rfl, rfl, rfl, rfl⟩

/-- The phases in which a trigger begins a reset; in the others it is absorbed (R24). -/
theorem resetTrigger_of_mem {s : State} (h : s.pkg.phase ∈ [Phase.boot, .ready, .scrapped]) :
    s.resetTrigger = s.phaseOne := by
  simp only [List.mem_cons, List.not_mem_nil, or_false] at h
  rw [resetTrigger]
  obtain h | h | h := h
  · rw [h]
  · rw [h]
  · rw [h]

theorem resetTrigger_of_not_mem {s : State} (h : s.pkg.phase ∉ [Phase.boot, .ready, .scrapped]) :
    s.resetTrigger = s := by
  unfold resetTrigger
  split
  · next e => simp [e] at h
  · next e => simp [e] at h
  · next e => simp [e] at h
  · rfl

/-! ### No internal power (R20, R25) -/

/-- What the loss of internal power leaves of a state: nothing but the bytes that last. -/
def DarkFrom (s t : State) : Prop :=
  t.pwr.on = false ∧ t.pkg.phase = .off ∧ t.groups = [] ∧ (s.MemOk → t.MemOk) ∧
    ∀ p, t.byteAt p = if State.lasting p = true then s.byteAt p else 0

theorem byteAt_wipeAll (s : State) (p : Nat) :
    s.wipeAll.byteAt p = if lasting p = true then s.byteAt p else 0 := by
  have h : Map.find s.wipeAll.mem p = if lasting p then Map.find s.mem p else none := Map.find_keep lasting s.mem p
  rw [byteAt, Map.get, h]
  split
  · rfl
  · rfl

theorem powerDown_dark (s : State) : DarkFrom s s.powerDown :=
  ⟨rfl, rfl, rfl, .powerDown, byteAt_wipeAll s⟩

theorem trip_dark (s : State) : s.trip.pwr.tripped = true ∧ DarkFrom s s.trip := ⟨rfl, powerDown_dark _⟩

end State

end Sys2Proof.Machine

/-! SUPPORT. What measured boot and the start of the workers leave (R23, R29, R30, R100, R149). -/

namespace Sys2Proof.Machine

namespace State

/-! ### The repair record and the keys -/

theorem foldl_modPort_pkg (ms : List (Nat × BitVec 2)) (s : State) :
    (ms.foldl (fun s m => s.modPort m.1 fun k => { k with minstep := m.2 }) s).pkg = s.pkg :=
  List.foldlRecOn (motive := fun t : State => t.pkg = s.pkg) ms _ rfl fun _ h _ _ => h

/-- The newest repair copy that verifies gives the retired cores and the soft-spared rows; without one both are empty (R30). -/
theorem applyRepair_pkg (s : State) : s.applyRepair.pkg =
    { s.pkg with
      frrbad := s.repairRecord.isNone
      retire := (s.repairRecord.map (·.retire)).getD 0, soft := (s.repairRecord.map (·.soft)).getD [] } := by
  unfold applyRepair
  split
  · next e => rw [e]; rfl
  · next r e => rw [foldl_modPort_pkg, e]; rfl

theorem foldl_rotateKey_pkg (ts : List Nat) (s : State) : (ts.foldl (fun s t => s.rotateKey t) s).pkg = s.pkg :=
  List.foldlRecOn (motive := fun t : State => t.pkg = s.pkg) ts _ rfl fun _ h _ _ => h

theorem finishRotation_pkg (s : State) : s.finishRotation.pkg = { s.pkg with rotate := false } := by
  rw [finishRotation, modPkg_pkg, foldl_rotateKey_pkg]

theorem foldl_rotateKey_erasing (ts : List Nat) (s : State) (k : Nat) :
    ((ts.foldl (fun s t => s.rotateKey t) s).tenant k).erasing = ((s.tenant k).erasing && !ts.contains k) := by
  induction ts generalizing s with
  | nil => simp
  | cons t ts ih =>
    rw [List.foldl_cons, ih, rotateKey, modTenant_tenant, List.contains_cons]
    obtain rfl | h := Decidable.em (k = t)
    · simp
    · rw [if_neg h, beq_eq_false_iff_ne.2 h, Bool.false_or]

/-- Every key rotation that was under way has ended (R29). -/
theorem finishRotation_erasing (s : State) {k : Nat} (hk : k < 8) : (s.finishRotation.tenant k).erasing = false := by
  rw [finishRotation, modPkg_tenant, foldl_rotateKey_erasing]
  cases h : (s.tenant k).erasing
  · rfl
  · simp [h, hk]

/-! ### The boot's other steps -/

/-- The package and the tenants stand as they did. -/
structure SamePackage (s t : State) : Prop where
  pkg : t.pkg = s.pkg
  tenants : t.tenants = s.tenants

namespace SamePackage

variable {s t u : State}

theorem ite {p : Prop} {_ : Decidable p} (ht : SamePackage s t) (hu : SamePackage s u) :
    SamePackage s (if p then t else u) := by
  split
  · exact ht
  · exact hu

theorem modHost {f : HostSide → HostSide} (h : SamePackage s t) : SamePackage s (t.modHost f) := ⟨h.pkg, h.tenants⟩
theorem modFab {f : Fabric → Fabric} (h : SamePackage s t) : SamePackage s (t.modFab f) := ⟨h.pkg, h.tenants⟩
theorem extendSlot {i : Nat} {d : BitVec 256} (h : SamePackage s t) : SamePackage s (t.extendSlot i d) := .modHost h

theorem setBytes {a : Nat} {bs : List Byte} (h : SamePackage s t) : SamePackage s (t.setBytes a bs) :=
  ⟨(setBytes_pkg t a bs).trans h.pkg, (setBytes_tenants t a bs).trans h.tenants⟩

theorem policyWrite {w : Nat × DWord} (h : SamePackage s t) : SamePackage s (t.policyWrite w) :=
  .ite (.modFab h) (.ite (.modHost h) (.ite (.modHost h) (.ite (.modHost h) (.ite (.modHost h)
    (.ite (.ite h (.modFab h)) (.ite (.modFab h) h))))))

end SamePackage

/-- Phase 4 after the repair record and the keys: measurements, the policy and the image concern neither the package nor the
tenants, until the boot's outcome is noted. -/
theorem boot_eq (s : State) : ∃ (t : State) (used : Map Nat) (recovery rhamar : Bool),
    SamePackage s.applyRepair.finishRotation t ∧
    s.boot = ((t.modHost fun h => { h with used, staging := [] }).modFab fun f =>
        { f with restartWait := t.otherPeers }).modPkg fun p =>
      { p with phase := .boot, bndlock := true, recovery := recovery, rhamarOk := rhamar } := by
  unfold boot
  extract_lets +onlyGivenNames s1 s2 s3 lc fw s4 rh s5 po s6 s7 s8 s9 s10 used s11 s12
  have h3 : SamePackage s1 s3 := .extendSlot (.modHost ⟨rfl, rfl⟩)
  have h4 : SamePackage s1 s4 := .ite (.extendSlot h3) h3
  have h5 : SamePackage s1 s5 := .ite (.extendSlot h4) h4
  have h6 : SamePackage s1 s6 := by
    unfold s6
    clear_value po
    split
    · exact h5
    · exact List.foldlRecOn _ _ h5 fun _ h _ _ => .policyWrite h
  have h9 : SamePackage s1 s9 := .extendSlot (.extendSlot (.extendSlot h6))
  have h10 : SamePackage s1 s10 := by
    unfold s10
    clear_value rh
    split
    · exact h9
    · exact .setBytes h9
  clear_value s10 used fw rh
  exact ⟨s10, used, fw.isNone, rh.isSome, h10, rfl⟩

/-! ### Workers -/

/-- A worker that starts takes a group and a serial number. -/
theorem startWorker_eq (s : State) (c : Nat) :
    s.startWorker c = { s with groups := (s.startWorker c).groups, serial := (s.startWorker c).serial } := by
  unfold startWorker
  split
  · split
    · rfl
    · rfl
  · rfl

theorem startWorkers_frame (s : State) (c : Nat) : (s.startWorkers c).pkg = s.pkg ∧ (s.startWorkers c).mem = s.mem :=
  List.foldlRecOn (motive := fun t : State => t.pkg = s.pkg ∧ t.mem = s.mem) _ _ ⟨rfl, rfl⟩ fun t h _ _ => by
    rw [startWorker_eq]; exact h

end State

end Sys2Proof.Machine

/-! SUPPORT. The package's events of input power and resets (R16 to R24, R100), one statement for each. -/

namespace Sys2Proof.Machine

/-- An event answers a state that has a property. -/
def Gives (s : State) (e : Instr) (q : State → Prop) : Prop := ∃ t, exec e s = .next t ∧ q t

namespace State

/-! ### Input power and resets -/

theorem inputLost_eq (mv : Nat) : inputLost mv = decide (mv < 38000 ∨ 64000 < mv) := (Bool.decide_or _ _).symm

/-- The voltage flags that a change of the input leaves (R16). -/
def VoltageNoted (mv : Nat) (p : Power) : Prop :=
  p.inputMv = mv ∧ p.lost = decide (mv < 38000 ∨ 64000 < mv) ∧ p.cutoff = decide (64000 < mv) ∧
    p.lowv = decide (38000 ≤ mv ∧ mv < 40000) ∧ p.highv = decide (60000 < mv ∧ mv ≤ 64000)

theorem inputVoltageChange_gives (s : State) (mv : Nat) : Gives s (.inputVoltageChange mv) fun t =>
    VoltageNoted mv t.pwr ∧
      (38000 ≤ mv → mv ≤ 64000 → t.pwr.on = s.pwr.on ∧ t.mem = s.mem ∧ t.groups = s.groups) ∧
      (mv < 38000 ∨ 64000 < mv → s.pwr.on = true → DarkFrom s t) := by
  let u := s.modPwr fun p =>
    { p with inputMv := mv, lost := inputLost mv, cutoff := decide (64000 < mv), tripped := p.tripped && !inputLost mv
             lowv := decide (38000 ≤ mv) && decide (mv < 40000), highv := decide (60000 < mv) && decide (mv ≤ 64000) }
  have hu : VoltageNoted mv u.pwr :=
    ⟨rfl, inputLost_eq mv, rfl, (Bool.decide_and _ _).symm, (Bool.decide_and _ _).symm⟩
  by_cases hlost : mv < 38000 ∨ 64000 < mv
  · refine ⟨if s.pwr.on then u.powerDown else u, ?_, ?_, fun _ _ => by omega, fun _ hon => ?_⟩
    · have hgone : inputLost mv = true := by rw [inputLost_eq, decide_eq_true hlost]
      exact congrArg Host.Outcome.next (if_pos hgone)
    · split
      · exact hu
      · exact hu
    · rw [if_pos hon]
      exact powerDown_dark u
  · have hstay : inputLost mv = false := by rw [inputLost_eq, decide_eq_false hlost]
    refine ⟨if u.pwr.on then u.noteAlarm else u, ?_, ?_, fun _ _ => ?_, fun h => absurd h hlost⟩
    · exact congrArg Host.Outcome.next (if_neg (Bool.eq_false_iff.1 hstay))
    · split
      · rw [noteAlarm_eq]; exact hu
      · exact hu
    · split
      · rw [noteAlarm_eq]; exact ⟨rfl, rfl, rfl⟩
      · exact ⟨rfl, rfl, rfl⟩

theorem powerInputLost_gives (s : State) : Gives s .powerInputLost fun t =>
    t.pwr.lost = true ∧ t.pwr.on = false ∧ (s.pwr.on = true → DarkFrom s t) := by
  let u := if s.pwr.on then s.powerDown else s
  refine ⟨u.modPwr fun p => { p with inputMv := 0, lost := true, lowv := false, highv := false, tripped := false },
    rfl, rfl, ?_, fun hon => ?_⟩
  · by_cases hon : s.pwr.on = true
    · exact congrArg (fun v : State => v.pwr.on) (if_pos hon : u = s.powerDown)
    · exact (congrArg (fun v : State => v.pwr.on) (if_neg hon : u = s)).trans (Bool.eq_false_iff.2 hon)
  · rw [show u = s.powerDown from if_pos hon]
    exact powerDown_dark s

theorem powerOnReset_gives {s : State} (ok : Bool) (hon : ¬ s.pwr.on = true) (ht : s.pwr.tripped = false)
    (hl : s.pwr.lost = false) : Gives s (.powerOnReset ok) fun t =>
      t.pwr.on = true ∧ t.pwr.lost = false ∧ t.pkg.holdup = ok ∧ ResetFrom s t := by
  let u := (s.modPwr fun p => { p with on := true }).modPkg fun p => { p with holdup := ok }
  obtain ⟨hpower, hlost, -, hholdup⟩ := phaseOne_pwr u
  refine ⟨u.phaseOne, ?_, hpower, hlost.trans hl, hholdup, phaseOne_reset u⟩
  exact if_neg (by simp [hon, ht, hl])

theorem powerOnReset_absorbed {s : State} (ok : Bool) (h : s.pwr.on = true ∨ s.pwr.tripped = true ∨ s.pwr.lost = true) :
    exec (.powerOnReset ok) s = .next s :=
  if_pos h

theorem perstNAssert_gives (s : State) : Gives s .perstNAssert fun t => t.pwr.perstLow = true ∧
    (s.pkg.phase ∈ [Phase.boot, .ready, .scrapped] → t.pkg.phase = .held ∧ t.groups = [] ∧ t.mem = s.mem) ∧
    (s.pkg.phase ∉ [Phase.boot, .ready, .scrapped] → t.pkg = s.pkg ∧ t.groups = s.groups ∧ t.mem = s.mem) := by
  let u := s.modPwr fun p => { p with perstLow := true }
  refine ⟨u.resetTrigger, rfl, ?_⟩
  by_cases h : s.pkg.phase ∈ [Phase.boot, .ready, .scrapped]
  · rw [resetTrigger_of_mem (s := u) h]
    obtain ⟨hphase, -, hgroups, -, -, -, -, hmem, -⟩ := phaseOne_reset u
    obtain ⟨-, -, hlow, -⟩ := phaseOne_pwr u
    exact ⟨hlow, fun _ => ⟨hphase, hgroups, hmem⟩, fun hn => absurd h hn⟩
  · rw [resetTrigger_of_not_mem (s := u) h]
    exact ⟨rfl, fun hm => absurd hm h, fun _ => ⟨rfl, rfl, rfl⟩⟩

theorem perstNRelease_gives (s : State) : Gives s .perstNRelease fun t =>
    t.pwr = { s.pwr with perstLow := false } ∧
      t.pkg = if s.pkg.phase = .held then { s.pkg with phase := .stop } else s.pkg := by
  by_cases h : s.pkg.phase = .held
  · exact ⟨_, congrArg Host.Outcome.next (if_pos h), rfl, (if_pos h).symm⟩
  · exact ⟨_, congrArg Host.Outcome.next (if_neg h), rfl, (if_neg h).symm⟩

/-- A hot reset and DEVRST are the same trigger (R22). -/
theorem exec_trigger {s : State} {e : Instr} (he : e ∈ [Instr.pcieHotReset, .devrst]) :
    exec e s = .next s.resetTrigger := by
  simp only [List.mem_cons, List.not_mem_nil, or_false] at he
  obtain rfl | rfl := he
  · rfl
  · rfl

theorem trigger_gives {s : State} {e : Instr} (he : e ∈ [Instr.pcieHotReset, .devrst])
    (h : s.pkg.phase ∈ [Phase.boot, .ready, .scrapped]) : Gives s e (ResetFrom s) :=
  ⟨s.phaseOne, by rw [exec_trigger he, resetTrigger_of_mem h], phaseOne_reset s⟩

theorem trigger_absorbed {s : State} {e : Instr} (he : e ∈ [Instr.pcieHotReset, .devrst])
    (h : s.pkg.phase ∉ [Phase.boot, .ready, .scrapped]) : exec e s = .next s := by
  rw [exec_trigger he, resetTrigger_of_not_mem h]

theorem persistDrain_eq {s : State} (h : s.pkg.phase = .stop) :
    exec .persistDrain s = .next (s.modPkg fun p => { p with phase := .drain }) :=
  congrArg Host.Outcome.next (if_pos h)

theorem wipe_gives {s : State} (h : s.pkg.phase = .drain) : Gives s .wipe fun t =>
    t.pkg = { s.pkg with phase := .wipe } ∧ (s.MemOk → t.MemOk) ∧
      ∀ p, t.byteAt p = if lasting p = true then s.byteAt p else 0 :=
  ⟨_, congrArg Host.Outcome.next (if_pos h), rfl, .wipeAll, byteAt_wipeAll s⟩

theorem measuredBoot_scrapped {s : State} (h : s.pkg.phase = .wipe) (hs : s.pkg.lcstate = 4) :
    exec .measuredBoot s = .next (s.modPkg fun p => { p with phase := .scrapped }) := by
  refine congrArg Host.Outcome.next ?_
  rw [if_neg (not_not_intro h), if_pos hs]

/-- The devices whose RESTART-ACK is due do not move the module in its pod. -/
theorem otherPeers_of_fab {s t : State} {l : List Nat} (h : t.fab = { s.fab with restartWait := l }) :
    s.otherPeers = (List.range 1024).filter fun p => t.inPod p && p != t.peer := by
  unfold otherPeers inPod peer
  rw [h]

theorem measuredBoot_gives {s : State} (h : s.pkg.phase = .wipe) (hs : s.pkg.lcstate ≠ 4) :
    Gives s .measuredBoot fun t => t.pkg.phase = .boot ∧ t.pkg.bndlock = true ∧
      t.pkg.frrbad = s.repairRecord.isNone ∧
      (∀ r, s.repairRecord = some r → t.pkg.retire = r.retire ∧ t.pkg.soft = r.soft) ∧
      (∀ k < 8, (t.tenant k).erasing = false) ∧ t.host.staging = [] ∧
      t.fab.restartWait.length = ((List.range 1024).filter fun p => t.inPod p && p != t.peer).length := by
  obtain ⟨u, used, recovery, rhamar, ⟨hpkg, hten⟩, hboot⟩ := boot_eq s
  have hrec : u.pkg = { s.applyRepair.pkg with rotate := false } := hpkg.trans (finishRotation_pkg _)
  refine ⟨s.boot, ?_, ?_⟩
  · refine congrArg Host.Outcome.next ?_
    rw [if_neg (not_not_intro h), if_neg hs]
  · generalize hothers : u.otherPeers = others at hboot
    rw [hboot]
    refine ⟨rfl, rfl, ?_, fun r hr => ?_, fun k hk => ?_, rfl, ?_⟩
    · exact (congrArg Package.frrbad hrec).trans (congrArg Package.frrbad (applyRepair_pkg s))
    · have hretire := congrArg Package.retire (applyRepair_pkg s)
      have hsoft := congrArg Package.soft (applyRepair_pkg s)
      rw [hr] at hretire hsoft
      exact ⟨(congrArg Package.retire hrec).trans hretire, (congrArg Package.soft hrec).trans hsoft⟩
    · have htenant : u.tenant k = s.applyRepair.finishRotation.tenant k := congrArg (Map.get _ · k) hten
      exact (congrArg Tenant.erasing htenant).trans (finishRotation_erasing _ hk)
    · exact congrArg List.length (hothers.symm.trans (otherPeers_of_fab rfl))

theorem modReady_gives {s : State} (h : s.pkg.phase = .boot) : Gives s .modReady fun t =>
    t.pkg.phase = .ready ∧ t.pkg.modReady = true ∧ t.mem = s.mem := by
  let u := s.modPkg fun p => { p with phase := .ready, modReady := true }
  have hall : ∀ cs : List Nat, (cs.foldl (fun t c => t.startWorkers c) u).pkg = u.pkg ∧
      (cs.foldl (fun t c => t.startWorkers c) u).mem = u.mem := fun cs =>
    List.foldlRecOn (motive := fun t : State => t.pkg = u.pkg ∧ t.mem = u.mem) cs _ ⟨rfl, rfl⟩ fun t ht c _ =>
      ⟨(startWorkers_frame t c).1.trans ht.1, (startWorkers_frame t c).2.trans ht.2⟩
  obtain ⟨hpkg, hmem⟩ := hall ((List.range 64).filter fun c => !u.retired c)
  refine ⟨_, congrArg Host.Outcome.next (if_neg (not_not_intro h)), ?_, ?_, hmem⟩
  · exact congrArg Package.phase hpkg
  · exact congrArg Package.modReady hpkg

end State

end Sys2Proof.Machine

/-! SUPPORT. The package's other events (R31 to R50, R73, R85, R86), one statement for each. -/

namespace Sys2Proof.Machine

namespace State

/-! ### Temperature and power -/

/-- What the alarm's vectors leave as it was. -/
theorem noteAlarm_frame (s : State) : s.noteAlarm.pwr = s.pwr ∧ s.noteAlarm.mem = s.mem := by
  rw [noteAlarm_eq]
  exact ⟨rfl, rfl⟩

theorem thermalTrip_gives {s : State} (hon : s.pwr.on = true) : Gives s .thermalTrip fun t =>
    t.pwr.tripped = true ∧ DarkFrom s t :=
  ⟨s.trip, congrArg Host.Outcome.next (if_pos hon), trip_dark s⟩

theorem thermSample_gives {s : State} (c : BitVec 7) (hon : s.pwr.on = true) : Gives s (.thermSample c) fun t =>
    if 115 ≤ c.toNat then t.pwr.tripped = true ∧ DarkFrom s t
    else t.pwr = { s.pwr with therm := c } ∧ t.hot = decide (s.pwr.throttle.toNat < c.toNat) ∧ t.mem = s.mem := by
  have hrun : exec (.thermSample c) s = if 115 ≤ c.toNat then .next s.trip
      else .next (s.modPwr fun p => { p with therm := c }).noteAlarm := if_neg (by simp [hon])
  by_cases h : 115 ≤ c.toNat
  · exact ⟨s.trip, hrun.trans (if_pos h), (if_pos h).mpr (trip_dark s)⟩
  · refine ⟨_, hrun.trans (if_neg h), (if_neg h).mpr ?_⟩
    rw [noteAlarm_eq]
    exact ⟨rfl, rfl, rfl⟩

theorem powerWindow_gives {s : State} (w : BitVec 12) (hon : s.pwr.on = true) : Gives s (.powerWindow w) fun t =>
    t.mem = s.mem ∧
      let exceeds := decide (s.pwr.cap.toNat < w.toNat)
      let n := if exceeds then s.pwr.overWindows + 1 else 0
      t.overCap = exceeds ∧
      t.pwr = { s.pwr with avg := w, overWindows := n, isslim := exceeds && (s.pwr.isslim || decide (10 ≤ n)) } := by
  refine ⟨_, if_neg (by simp [hon]), ?_⟩
  rw [noteAlarm_eq]
  exact ⟨rfl, rfl, rfl⟩

theorem pwrAlertChange_gives (s : State) : Gives s .pwrAlertChange fun t =>
    t.pwr = { s.pwr with alertLow := !s.pwr.alertLow } ∧
      (s.alarm = false → Map.get false s.host.cause 1 = false → Map.get true s.host.masked 2 = false →
        s.pwr.therm.toNat ≤ s.pwr.throttle.toNat → t.host.vectors = (0, 2) :: s.host.vectors) := by
  let u := s.modPwr fun p => { p with alertLow := !p.alertLow }
  refine ⟨u.noteAlarm, rfl, (noteAlarm_frame u).1, fun ha hc hm hcool => ?_⟩
  have hlow : s.pwr.alertLow = false := by
    simp only [alarm, Bool.or_eq_false_iff] at ha
    exact ha.1.1.1
  have hrise : u.alarm = true := by simp [u, alarm, hlow]
  exact noteAlarm_rising (s := u) hrise (decide_eq_false (Nat.not_lt.2 hcool)) hc hm

/-! ### The sideband target -/

theorem onSideband_own {s : State} (f : Power → Power) (hon : s.pwr.on = true) :
    s.onSideband s.sbAddress f = s.modPwr f := by
  rw [onSideband, if_neg (by simp [hon])]
  exact congrArg s.modPwr (funext fun p => if_pos rfl)

theorem onSideband_other {s : State} {a : BitVec 7} (f : Power → Power) (hon : s.pwr.on = true) (ha : a ≠ s.sbAddress) :
    s.onSideband a f = s.modPwr fun p => { p with sbNack := p.sbNack + 1 } := by
  rw [onSideband, if_neg (by simp [hon])]
  exact congrArg s.modPwr (funext fun p => if_neg ha)

theorem sbDynamicAddress_eq {s : State} (a : BitVec 7) (hon : s.pwr.on = true) :
    exec (.sbDynamicAddress a) s = .next (s.modPwr fun p => { p with sbDynamic := some a }) :=
  congrArg Host.Outcome.next (if_pos hon)

theorem sbIndexWrite_byte {s : State} (b : Byte) (hon : s.pwr.on = true) :
    exec (.sbIndexWrite ⟨s.sbAddress, [b]⟩) s = .next (s.modPwr fun p =>
      if b.toNat < 16 then { p with sbIndex := b.setWidth 4 } else { p with sbNack := p.sbNack + 1 }) :=
  congrArg Host.Outcome.next (onSideband_own _ hon)

theorem sbIndexWrite_other {s : State} {d : List Byte} (hon : s.pwr.on = true) (hd : d.length ≠ 1) :
    exec (.sbIndexWrite ⟨s.sbAddress, d⟩) s = .next (s.modPwr fun p => { p with sbNack := p.sbNack + 1 }) := by
  refine congrArg Host.Outcome.next ((onSideband_own _ hon).trans ?_)
  match d, hd with
  | [], _ => rfl
  | [_], hd => exact absurd rfl hd
  | _ :: _ :: _, _ => rfl

theorem sbRead_eq {s : State} (n : Nat) (hon : s.pwr.on = true) :
    exec (.sbRead ⟨s.sbAddress, n⟩) s = .next (s.modPwr fun p =>
      { p with sbOut := ((List.range (min n (16 - p.sbIndex.toNat))).map fun k =>
          s.sbByte (p.sbIndex.toNat + k)).reverse ++ p.sbOut }) :=
  congrArg Host.Outcome.next (onSideband_own _ hon)

theorem sideband_other_address {s : State} {a : BitVec 7} (hon : s.pwr.on = true) (ha : a ≠ s.sbAddress) {e : Instr}
    (he : e ∈ [Instr.sbIndexWrite ⟨a, []⟩, .sbIndexWrite ⟨a, [0]⟩, .sbRead ⟨a, 1⟩]) :
    exec e s = .next (s.modPwr fun p => { p with sbNack := p.sbNack + 1 }) := by
  simp only [List.mem_cons, List.not_mem_nil, or_false] at he
  obtain rfl | rfl | rfl := he
  · exact congrArg Host.Outcome.next (onSideband_other _ hon ha)
  · exact congrArg Host.Outcome.next (onSideband_other _ hon ha)
  · exact congrArg Host.Outcome.next (onSideband_other _ hon ha)

/-! ### Row sparing -/

/-- A sparing command that ends at once with a result (R31 to R33). -/
def spareEnded (s : State) (r : BitVec 3) : State :=
  (s.modPkg fun p =>
    { p with spareLast := spareOf s.pkg.spareCmd, spareRun := none, spareResult := if p.spareRejected then 3 else r
             spareRejected := false }).signal 0 4

/-- A command that is written while another runs is rejected (R33). -/
theorem startSpare_running {s : State} (instant : Option (BitVec 3)) (h : s.pkg.spareRun.isSome = true) :
    s.startSpare instant = s.modPkg fun p => { p with spareRejected := true } :=
  if_pos h

theorem startSpare_bad {s : State} (instant : Option (BitVec 3)) (h : s.pkg.spareRun = none)
    (hb : spareBad s.pkg.spareCmd = true) : s.startSpare instant = s.spareEnded 2 := by
  unfold startSpare
  dsimp only
  rw [if_neg (by simp [h]), if_pos hb]
  rfl

theorem startSpare_instant {s : State} (r : BitVec 3) (h : s.pkg.spareRun = none)
    (hb : spareBad s.pkg.spareCmd = false) : s.startSpare (some r) = s.spareEnded r := by
  unfold startSpare
  dsimp only
  rw [if_neg (by simp [h]), if_neg (by simp [hb])]
  rfl

theorem startSpare_run {s : State} (h : s.pkg.spareRun = none) (hb : spareBad s.pkg.spareCmd = false) :
    s.startSpare none = s.modPkg fun p =>
      { p with spareLast := spareOf s.pkg.spareCmd, spareRun := some (spareOf s.pkg.spareCmd) } := by
  unfold startSpare
  dsimp only
  rw [if_neg (by simp [h]), if_neg (by simp [hb])]
  rfl

/-- The four operations of a command begin alike (R31). -/
theorem exec_spare {s : State} {e : Instr} (he : e ∈ [Instr.spareNop, .softSpare, .hardSpare, .spareReserved]) :
    ∃ instant, exec e s = .next (s.startSpare instant) := by
  simp only [List.mem_cons, List.not_mem_nil, or_false] at he
  obtain rfl | rfl | rfl | rfl := he
  · exact ⟨some 0, rfl⟩
  · exact ⟨none, rfl⟩
  · exact ⟨none, rfl⟩
  · exact ⟨some 2, rfl⟩

theorem exec_spare_run {s : State} {e : Instr} (he : e ∈ [Instr.softSpare, .hardSpare]) :
    exec e s = .next (s.startSpare none) := by
  simp only [List.mem_cons, List.not_mem_nil, or_false] at he
  obtain rfl | rfl := he
  · rfl
  · rfl

theorem spare_rejected {s : State} {e : Instr} (he : e ∈ [Instr.spareNop, .softSpare, .hardSpare, .spareReserved])
    (h : s.pkg.spareRun.isSome = true) : exec e s = .next (s.modPkg fun p => { p with spareRejected := true }) := by
  obtain ⟨instant, hx⟩ := exec_spare (s := s) he
  rw [hx, startSpare_running instant h]

theorem spare_bad {s : State} {e : Instr} (he : e ∈ [Instr.spareNop, .softSpare, .hardSpare, .spareReserved])
    (h : s.pkg.spareRun = none) (hb : spareBad s.pkg.spareCmd = true) : exec e s = .next (s.spareEnded 2) := by
  obtain ⟨instant, hx⟩ := exec_spare (s := s) he
  rw [hx, startSpare_bad instant h hb]

/-- A command that names a row is done at once where it asks for nothing, and else runs (R31). -/
theorem spare_accepted {s : State} (h : s.pkg.spareRun = none) (hb : spareBad s.pkg.spareCmd = false) :
    exec .spareNop s = .next (s.spareEnded 0) ∧ exec .spareReserved s = .next (s.spareEnded 2) ∧
      ∀ e ∈ [Instr.softSpare, .hardSpare], exec e s = .next (s.modPkg fun p =>
        { p with spareLast := spareOf s.pkg.spareCmd, spareRun := some (spareOf s.pkg.spareCmd) }) :=
  ⟨congrArg Host.Outcome.next (startSpare_instant 0 h hb), congrArg Host.Outcome.next (startSpare_instant 2 h hb),
    fun _ he => (exec_spare_run he).trans (congrArg Host.Outcome.next (startSpare_run h hb))⟩

/-- The running command ends by what the stack reports, which is a free value, and by what is left to replace the row
(R32 to R34). -/
theorem spareDone_eq {s : State} {k : Spare} (h : s.pkg.spareRun = some k) :
    exec .spareDone s = .next (
      if s.free.2.getLsbD 0 = true then s.free.1.endSpare 4
      else if k.op = 1 then
        (if Spare.key k ∈ s.pkg.soft then s.free.1.endSpare 0
         else if 1024 ≤ s.softUsed k.stack.toNat then s.free.1.endSpare 1
         else (s.free.1.modPkg fun p => { p with soft := p.soft ++ [Spare.key k] }).endSpare 0)
      else if s.hardLeft k = 0 then s.free.1.endSpare 1
      else (s.free.1.modPkg fun p =>
        { p with hard := p.hard ++ [Spare.key k], soft := p.soft.erase (Spare.key k) }).endSpare 0) := by
  refine congrArg Host.Outcome.next ?_
  unfold finishSpare
  rw [h]
  simp only [List.contains_iff_mem]
  rfl

/-! ### Core retirement -/

/-- No group comes or goes, and no job that was not MAILED changes its state. -/
def KeepsJobs (s t : State) : Prop :=
  t.groups = s.groups ∧ ∀ e, (s.event e).st ≠ .mailed → (t.event e).st = (s.event e).st

theorem KeepsJobs.refl (s : State) : KeepsJobs s s := ⟨rfl, fun _ _ => rfl⟩

theorem KeepsJobs.trans {s t u : State} (h : KeepsJobs s t) (k : KeepsJobs t u) : KeepsJobs s u :=
  ⟨k.1.trans h.1, fun e he => (k.2 e ((h.2 e he).symm ▸ he)).trans (h.2 e he)⟩

theorem enterPool_frame (s : State) (e : Nat) :
    (s.enterPool e).pkg = s.pkg ∧ (s.enterPool e).groups = s.groups ∧ (s.enterPool e).events = s.events := by
  unfold enterPool
  split
  · exact ⟨rfl, rfl, rfl⟩
  · exact ⟨rfl, rfl, rfl⟩

theorem unmail_event {s : State} {e x : Nat} (h : x ≠ e) : (s.unmail e).event x = s.event x := by
  unfold unmail
  rw [event, (enterPool_frame _ e).2.2]
  exact (modEvent_event _ e x _).trans (if_neg h)

/-- A MAILED job that leaves the mailboxes is the only one that changes its state (R36). -/
theorem unmail_keeps {s : State} {e : Nat} (h : (s.event e).st = .mailed) :
    (s.unmail e).pkg = s.pkg ∧ KeepsJobs s (s.unmail e) := by
  obtain ⟨hpkg, hgroups, -⟩ := enterPool_frame _ e
  exact ⟨hpkg, hgroups, fun x hx => congrArg EvEntry.st (unmail_event fun hxe => hx (hxe ▸ h))⟩

theorem retireCore_keeps (s : State) (c : Nat) :
    (s.retireCore c).pkg.retire = s.pkg.retire ||| laneBit c ∧ KeepsJobs s (s.retireCore c) := by
  unfold retireCore
  split
  next h =>
    refine ⟨BitVec.eq_of_getLsbD_eq fun l _ => ?_, .refl s⟩
    rw [BitVec.getLsbD_or, laneBit_getLsbD]
    obtain rfl | hl := Decidable.em (l = c)
    · rw [show s.pkg.retire.getLsbD l = true from h, Bool.true_or]
    · simp [hl]
  next =>
    extract_lets +onlyGivenNames u
    have hall : ∀ es : List Nat, let v := es.foldl (fun s e => if (s.event e).st = .mailed then s.unmail e else s) u
        v.pkg = u.pkg ∧ KeepsJobs u v := fun es =>
      List.foldlRecOn (motive := fun v : State => v.pkg = u.pkg ∧ KeepsJobs u v) es _ ⟨rfl, .refl u⟩ fun v hv e _ => by
        split
        next h => exact ⟨(unmail_keeps h).1.trans hv.1, hv.2.trans (unmail_keeps h).2⟩
        next => exact hv
    obtain ⟨hpkg, hkeeps⟩ := hall (s.mailedOn c)
    exact ⟨congrArg Package.retire hpkg, hkeeps⟩

theorem foldl_retireCore_keeps (cs : List Nat) (s : State) :
    (cs.foldl (fun s c => s.retireCore c) s).pkg.retire = cs.foldl (fun m c => m ||| laneBit c) s.pkg.retire ∧
      KeepsJobs s (cs.foldl (fun s c => s.retireCore c) s) := by
  induction cs generalizing s with
  | nil => exact ⟨rfl, .refl s⟩
  | cons c cs ih =>
    obtain ⟨hretire, hkeeps⟩ := retireCore_keeps s c
    obtain ⟨ihretire, ihkeeps⟩ := ih (s.retireCore c)
    exact ⟨by rw [List.foldl_cons, ihretire, hretire, List.foldl_cons], hkeeps.trans ihkeeps⟩

/-- Cores named by a mask are added to a mask. -/
theorem foldl_laneBit (m r : DWord) : (laneList m).foldl (fun m c => m ||| laneBit c) r = r ||| m := by
  refine BitVec.eq_of_getLsbD_eq fun l hl => ?_
  rw [foldl_mask, BitVec.getLsbD_or]
  by_cases h : m.getLsbD l = true
  · simp [h, hl, mem_laneList]
  · simp [h, mem_laneList]

theorem noteRoles_eq (s : State) (t : Nat) : s.noteRoles t = { s with cores := (s.noteRoles t).cores } :=
  List.foldlRecOn (motive := fun u : State => u = { s with cores := u.cores }) _ _ rfl fun u hu c _ => by
    rw [hu]; rfl

theorem foldl_noteRoles_eq (ks : List Nat) (s : State) : ks.foldl (fun s k => s.noteRoles k) s =
    { s with cores := (ks.foldl (fun s k => s.noteRoles k) s).cores } :=
  List.foldlRecOn (motive := fun u : State => u = { s with cores := u.cores }) _ _ rfl fun u hu c _ => by
    rw [noteRoles_eq, hu]

theorem coreRetire_gives (s : State) (m : DWord) : Gives s (.coreRetire m) fun t =>
    t.pkg.retire = s.pkg.retire ||| m ∧
      (∀ e, (s.event e).st ≠ .mailed → (t.event e).st = (s.event e).st) ∧ t.groups = s.groups := by
  obtain ⟨hretire, hgroups, hevents⟩ := foldl_retireCore_keeps (laneList m) s
  refine ⟨_, rfl, ?_⟩
  rw [foldl_noteRoles_eq]
  exact ⟨hretire.trans (foldl_laneBit m _), hevents, hgroups⟩

theorem corePowerDown_gives {s : State} {c : Nat} (hr : s.retired c = true) (hd : (s.core c).down = false)
    (hb : s.blocksOn c = []) (hm : (s.core c).mailbox = []) : Gives s (.corePowerDown c) fun t =>
      (t.core c).down = true ∧ t.pkg = { s.pkg with retstat := s.pkg.retstat ||| laneBit c } ∧
        ∀ e ∈ t.groups, coreOf e.1 ≠ c := by
  refine ⟨_, congrArg Host.Outcome.next (if_neg (by simp [hr, hd, hb, hm])), ?_, rfl, fun e he => ?_⟩
  · rw [modPkg_core, modCore_core, if_pos rfl]
  · simpa using (List.mem_filter.1 he).2

/-! ### Ports -/

@[simp] theorem modPort_port (s : State) (n m : Nat) (f : Port → Port) :
    (s.modPort n f).port m = if m = n then f (s.port n) else s.port m :=
  Map.get_put _ _ _ _ _

@[simp] theorem portEvent_port (s : State) (m : Nat) : s.portEvent.port m = s.port m := by
  rw [portEvent, signal_eq]; rfl

/-- A port with no lane left goes down, and no other port changes (R41). -/
theorem checkPort_port (s : State) (n m : Nat) : (s.checkPort n).port m =
    if m = n then { s.port n with up := (s.port n).up && lanesUp (s.port n) != 0 } else s.port m := by
  unfold checkPort
  split
  next h =>
    simp only [Bool.and_eq_true, beq_iff_eq] at h
    simp [h]
  next h =>
    split
    next hm =>
      subst hm
      cases hu : (s.port m).up
      · rw [Bool.false_and, ← hu]
      · simp only [hu, Bool.true_and, beq_iff_eq] at h
        rw [Bool.true_and, bne_iff_ne.2 h, ← hu]
    next => rfl

theorem portRetrain_eq {s : State} {n : Nat} (m : BitVec 2) (hn : n < 62) (hu : (s.port n).up = true) :
    exec (.portRetrain n m) s = .next (s.modPort n fun k =>
      { k with step := if k.minstep.toNat < m.toNat then BitVec.ofNat 2 (min m.toNat 2) else k.minstep }) :=
  congrArg Host.Outcome.next (if_pos ⟨hn, hu⟩)

theorem portDisable_eq (s : State) {n : Nat} (hn : n < 62) : exec (.portDisable n) s = .next (
    let t := s.modPort n fun k => { k with disable := true, up := false }
    if (s.port n).up = true then t.signal 0 3 else t) :=
  if_neg (Nat.not_le.2 hn)

theorem portDown_eq {s : State} {n : Nat} (hu : (s.port n).up = true) :
    exec (.portDown n) s = .next ((s.modPort n fun k => { k with up := false }).signal 0 3) :=
  congrArg Host.Outcome.next (if_pos hu)

theorem laneFailure_gives {s : State} {n lane : Nat} (hn : n < 62) (hl : lane < 2)
    (hf : (s.port n).failed.getLsbD lane = false) : Gives s (.laneFailure n lane) fun t =>
      (t.port n).failed = (s.port n).failed ||| BitVec.ofNat 2 (2 ^ lane) ∧
      (t.port n).sparefor = (if (s.port n).spareen = true ∧ (s.port n).sparefor = 0 ∧ (s.port n).spareFailed = false
        then BitVec.ofNat 2 (lane + 1) else (s.port n).sparefor) ∧
      ∀ m, m ≠ n → t.port m = s.port m := by
  let free := (s.port n).spareen && (s.port n).sparefor == 0 && !(s.port n).spareFailed
  let u := s.modPort n fun k =>
    { k with failed := k.failed ||| BitVec.ofNat 2 (2 ^ lane)
             sparefor := if free then BitVec.ofNat 2 (lane + 1) else k.sparefor }
  have hrun : exec (.laneFailure n lane) s = .next ((if free then u.portEvent else u).checkPort n) := by
    refine congrArg Host.Outcome.next ((if_neg (by omega)).trans ?_)
    exact (if_neg (by omega)).trans (if_neg (by simp [hf]))
  have hport : ∀ m, (if free then u.portEvent else u).port m = u.port m := fun m => by
    split
    · exact portEvent_port u m
    · rfl
  have hfree : free = true ↔ (s.port n).spareen = true ∧ (s.port n).sparefor = 0 ∧ (s.port n).spareFailed = false := by
    simp [free, and_assoc]
  refine ⟨_, hrun, ?_, ?_, fun m hm => ?_⟩
  · rw [checkPort_port, if_pos rfl, hport, modPort_port, if_pos rfl]
  · rw [checkPort_port, if_pos rfl, hport, modPort_port, if_pos rfl]
    exact ite_congr (propext hfree) (fun _ => rfl) fun _ => rfl
  · rw [checkPort_port, if_neg hm, hport, modPort_port, if_neg hm]

theorem eyeMeasurement_good {s : State} {n lane : Nat} {mg : BitVec 8} {fec : BitVec 16} (hn : n < 62) (hl : lane < 3)
    (hm : slice s.fab.eyecfg 7 0 ≤ mg.toNat)
    (hf : slice s.fab.eyecfg 31 16 = 0 ∨ fec.toNat < slice s.fab.eyecfg 31 16) :
    exec (.eyeMeasurement n lane mg ⟨fec, false⟩) s =
      .next (s.modPort n fun k => { k with poor := Map.put lane 0 k.poor }) := by
  have hgood : (decide (mg.toNat < slice s.fab.eyecfg 7 0) ||
      (slice s.fab.eyecfg 31 16 != 0 && decide (slice s.fab.eyecfg 31 16 ≤ fec.toNat)) || false) = false := by
    simp only [Bool.or_false, Bool.or_eq_false_iff, decide_eq_false_iff_not, Bool.and_eq_false_iff, bne_eq_false_iff_eq]
    omega
  show execEyeMeasurement n lane mg ⟨fec, false⟩ s = _
  unfold execEyeMeasurement
  rw [if_neg (by omega)]
  dsimp only
  rw [hgood]
  simp

/-- A poor measurement that completes a run predicts a failure; without AUTO that is reported alone (R41, R85). -/
theorem eyeMeasurement_predicts {s : State} {n lane : Nat} {mg : BitVec 8} (fec : BitVec 16) {lost : Bool} (hn : n < 62)
    (hl : lane < 2) (hp : mg.toNat < slice s.fab.eyecfg 7 0 ∨ lost = true) (hf : (s.port n).failed.getLsbD lane = false)
    (hc : slice s.fab.eyecfg 15 8 ≤ Map.get 0 (s.port n).poor lane + 1) (ha : (s.port n).auto = false) :
    exec (.eyeMeasurement n lane mg ⟨fec, lost⟩) s =
      .next ((s.modPort n fun k => { k with poor := Map.put lane 0 k.poor }).signal 0 3) := by
  have hpoor : (decide (mg.toNat < slice s.fab.eyecfg 7 0) ||
      (slice s.fab.eyecfg 31 16 != 0 && decide (slice s.fab.eyecfg 31 16 ≤ fec.toNat)) || lost) = true := by
    obtain h | h := hp
    · simp [h]
    · simp [h]
  have hhit : decide (max 1 (slice s.fab.eyecfg 15 8) ≤ Map.get 0 (s.port n).poor lane + 1) = true := by
    simp only [decide_eq_true_eq]
    omega
  show execEyeMeasurement n lane mg ⟨fec, lost⟩ s = _
  unfold execEyeMeasurement
  rw [if_neg (by omega)]
  dsimp only
  rw [hpoor]
  simp only [if_true, hhit, if_neg (show ¬ lane = 2 by omega), hf, Bool.not_false, Bool.and_self]
  simp [predict, ha, portEvent]

/-- Packets in custody on a port that is up are sent again in their order (R73). -/
theorem foldl_resend {ks : List Custody} {s : State} (h : ∀ k ∈ ks, s.portUp k.port = true) :
    ks.foldl (fun s k => s.resend k) s = s.modFab fun f =>
      { f with custody := f.custody ++ ks, outbox := (ks.map fun k => (some k.port, k.pkt)).reverse ++ f.outbox } := by
  induction ks generalizing s with
  | nil => simp [modFab]
  | cons k ks ih =>
    have hrest := ih (s := s.modFab fun f =>
      { f with custody := f.custody ++ [k], outbox := (some k.port, k.pkt) :: f.outbox })
      fun j hj => h j (List.mem_cons_of_mem _ hj)
    rw [List.foldl_cons, resend, if_pos (h k List.mem_cons_self)]
    refine hrest.trans ?_
    simp [modFab]

theorem portResume_gives {s : State} {n : Nat} (h : ∀ k ∈ s.fab.custody, k.port = n → s.portUp n = true) :
    Gives s (.portResume n) fun t =>
      t.fab.custody = (s.fab.custody.filter fun k => k.port != n) ++ (s.fab.custody.filter fun k => k.port == n) ∧
      t.fab.outbox = ((s.fab.custody.filter fun k => k.port == n).map fun k => (some k.port, k.pkt)).reverse ++
        s.fab.outbox := by
  have hup : ∀ k ∈ s.fab.custody.filter fun k => k.port == n,
      (s.modFab fun f => { f with custody := f.custody.filter fun k => k.port != n }).portUp k.port = true := fun k hk => by
    obtain ⟨hmem, hport⟩ := List.mem_filter.1 hk
    rw [beq_iff_eq.1 hport]
    exact h k hmem (beq_iff_eq.1 hport)
  exact ⟨_, congrArg Host.Outcome.next (foldl_resend hup), rfl, rfl⟩

theorem portTrained_gives {s : State} {n : Nat} (hn : n < 62) (hd : (s.port n).disable = false)
    (hl : lanesUp (s.port n) ≠ 0) (hh : s.heldDown n = false) (hb : s.beforeBoot = false) :
    Gives s (.portTrained n) fun t =>
      (t.port n).up = true ∧ (t.port n).step.toNat = max (s.port n).step.toNat (s.port n).minstep.toNat ∧
        t.mem = s.mem := by
  let u := s.modPort n fun k =>
    { k with up := true, step := if k.step.toNat < k.minstep.toNat then k.minstep else k.step }
  have hsent : ∀ ds : List Nat,
      RouterOnly u (ds.foldl (fun s d => s.inject (s.mkPacket 20 2 8 d 0 0 (bytesOf 8 1) none)) u) :=
    fun ds => .foldl (.refl u) fun _ _ h => .inject h
  have hport : u.port n = _ := (modPort_port s n n _).trans (if_pos rfl)
  refine ⟨_, if_neg (by simp [hd, hl, hh, hb]; omega), ?_, ?_, (hsent _).mem⟩
  · rw [(hsent _).port, hport]
  · rw [(hsent _).port, hport]
    dsimp only
    split
    · omega
    · omega

end State

/-- Settles O53: each event of the package by its own statement. -/
theorem packageEvents : Obligations.PackageEvents := by
  intro s gives reset dark on
  refine ⟨fun mv => ?_,
    -- the rest of input power, and resets
    s.powerInputLost_gives, State.powerOnReset_gives, State.powerOnReset_absorbed, s.perstNAssert_gives,
    s.perstNRelease_gives, fun e he => ⟨State.trigger_gives he, State.trigger_absorbed he⟩, State.persistDrain_eq,
    State.wipe_gives, State.measuredBoot_scrapped, State.measuredBoot_gives, State.modReady_gives,
    -- temperature and power
    State.thermalTrip_gives, State.thermSample_gives, State.powerWindow_gives, s.pwrAlertChange_gives,
    -- the sideband target
    State.sbDynamicAddress_eq, State.sbIndexWrite_byte, fun d => State.sbIndexWrite_other, State.sbRead_eq,
    fun a hon ha e he => State.sideband_other_address hon ha he,
    -- row sparing
    fun e he => State.spare_rejected he,
    fun h => ⟨fun hb e he => State.spare_bad he h hb, State.spare_accepted h⟩, fun k => State.spareDone_eq,
    -- core retirement
    s.coreRetire_gives, fun c => State.corePowerDown_gives,
    -- ports
    fun n => State.portRetrain_eq, fun n => s.portDisable_eq, fun n => State.portDown_eq,
    fun n lane => State.laneFailure_gives, fun n lane mg fec => State.eyeMeasurement_good,
    fun n lane mg fec lost => State.eyeMeasurement_predicts fec, fun n => State.portResume_gives,
    fun n => State.portTrained_gives,
    -- the array and the link
    fun c => rfl, fun flit => rfl⟩
  obtain ⟨t, hrun, ⟨hmv, hlost, hcutoff, hlowv, hhighv⟩, hstay, hdark⟩ := s.inputVoltageChange_gives mv
  exact ⟨t, hrun, hmv, hlost, hcutoff, hlowv, hhighv, hstay, hdark⟩

end Sys2Proof.Machine

/-! SUPPORT. Which of R252's conditions 4 to 8 an instruction meets, each condition under a name of its own. -/

namespace Sys2Proof.Machine

theorem opndUnheld_iff {granules : Nat} {o : Opnd} {n : Nat} :
    opndUnheld granules o n = true ↔ ∃ k, o = .v k ∧ 8 * granules < k.toNat + n := by
  cases o with
  | v k => simp [opndUnheld]
  | g | p | special | const | latch | q | sq => simp [opndUnheld]

theorem latchBad_iff {r : Regs} {o : Opnd} :
    latchBad r o = true ↔ ∃ k, o = .latch k ∧ Map.get 0 r.latchAge k.val < 2 := by
  cases o with
  | latch k => simp [latchBad]
  | v | g | p | special | const | q | sq => simp [latchBad]

/-- The key of a vector register in one lane, among those that an operand names in some lanes. -/
theorem mem_destKeys_v {k : BitVec 7} {n low r l : Nat} {lanes : List Nat} (hl : l ∈ lanes) (hk : k.toNat ≤ r)
    (hr : r < k.toNat + n) : (64 * r + l, l, r - k.toNat) ∈ destKeys (.v k) n lanes low := by
  simp only [destKeys, List.mem_flatMap, List.mem_map, List.mem_range]
  exact ⟨l, hl, r - k.toNat, by omega, by rw [Nat.add_sub_cancel' hk]⟩

theorem mem_queuesIn {srcs : List Src} {q : Src} {k : BitVec 2} (hq : q ∈ srcs) (hk : q.opnd = .q k) :
    k.toNat ∈ queuesIn srcs := by
  simp only [queuesIn, List.mem_eraseDups, List.mem_filterMap]
  exact ⟨q, hq, by rw [hk]⟩

/-- The operands that an instruction's entry looks at, its destinations among them. -/
def Ask.opnds (a : Ask) : List (Opnd × Nat) := (a.srcs.map fun q => (q.opnd, q.n)) ++ a.dsts

namespace State

variable {s : State} {c : Issue} {a : Ask}

/-- UNHELD of R252. -/
def meetsUnheld (s : State) (c : Issue) (a : Ask) : Bool :=
  a.unheld || a.opnds.any fun o => opndUnheld (s.group c.gid).granules o.1 o.2

/-- LATCHINV of R252. -/
def meetsLatchinv (s : State) (c : Issue) (a : Ask) : Bool := a.opnds.any fun o => latchBad (s.group c.gid).regs o.1

/-- HAZARD of R252: in hazard-check mode, a register that is read has a result outstanding. -/
def meetsHazard (s : State) (c : Issue) (a : Ask) : Bool :=
  let lanes := laneList (quadLanes c.quads)
  let reads := (a.srcs.flatMap fun q => readKeys lanes q.opnd q.n) ++ readKeys lanes (.p a.ctl.pred) 1
  ((s.blockOf c.gid).map (·.hazchk)).getD false &&
    (s.group c.gid).ops.pend.any fun p => p.keys.any fun k => reads.contains k.1 && k.1 / 64 != 207

/-- ACCMISM of R252: a queue operand in a group of several parts, or one that has no element to give or take. -/
def meetsAccmism (s : State) (c : Issue) (a : Ask) : Bool :=
  let x := s.group c.gid
  ((queuesIn a.srcs != [] || pushesIn a.dsts != []) && !x.flow.whole) || !((queuesIn a.srcs).all fun q => canPop x q) ||
    !((pushesIn a.dsts).all fun q => canPush x q)

theorem entryFault_eq (s : State) (c : Issue) (a : Ask) : s.entryFault c a =
    if a.priv then some 0x21
    else if s.meetsUnheld c a then some 0x22
    else if s.meetsLatchinv c a then some 0x23
    else if s.meetsHazard c a then some 0x24
    else if s.meetsAccmism c a then some 0x25
    else none := rfl

theorem meetsUnheld_iff : s.meetsUnheld c a = true ↔
    a.unheld = true ∨ ∃ o ∈ a.opnds, ∃ k, o.1 = .v k ∧ 8 * (s.group c.gid).granules < k.toNat + o.2 := by
  simp only [meetsUnheld, Bool.or_eq_true, List.any_eq_true, opndUnheld_iff]

theorem meetsLatchinv_iff : s.meetsLatchinv c a = true ↔
    ∃ o ∈ a.opnds, ∃ k, o.1 = .latch k ∧ Map.get 0 (s.group c.gid).regs.latchAge k.val < 2 := by
  simp only [meetsLatchinv, List.any_eq_true, latchBad_iff]

/-- A vector register that is read in a lane in which an outstanding result writes it. -/
theorem meetsHazard_of_v {b : Block} (hb : s.blockOf c.gid = some b) (hm : b.hazchk = true) {p : Pend}
    (hp : p ∈ (s.group c.gid).ops.pend) {q : Src} (hq : q ∈ a.srcs) {d k : BitVec 7} (hd : p.dst = .v d)
    (hk : q.opnd = .v k) {r l : Nat} (hl : l ∈ Map.keys p.vals) (hquad : (quadLanes c.quads).getLsbD l = true)
    (hwritten : d.toNat ≤ r ∧ r < d.toNat + p.nregs) (hread : k.toNat ≤ r ∧ r < k.toNat + q.n) (hr : r < 128) :
    s.meetsHazard c a = true := by
  have hl64 : l < 64 := BitVec.lt_of_getLsbD hquad
  have hkey : (64 * r + l, l, r - d.toNat) ∈ p.keys := by
    rw [Pend.keys, hd]
    exact mem_destKeys_v hl hwritten.1 hwritten.2
  have hreads : 64 * r + l ∈ a.srcs.flatMap fun q => readKeys (laneList (quadLanes c.quads)) q.opnd q.n := by
    refine List.mem_flatMap.2 ⟨q, hq, ?_⟩
    rw [hk]
    exact List.mem_map_of_mem (mem_destKeys_v (mem_laneList.2 ⟨hl64, hquad⟩) hread.1 hread.2)
  simp only [meetsHazard, hb, Option.map_some, Option.getD_some, hm, Bool.true_and, List.any_eq_true]
  refine ⟨p, hp, _, hkey, ?_⟩
  rw [Bool.and_eq_true, List.contains_iff_mem]
  exact ⟨List.mem_append_left _ hreads, bne_iff_ne.2 (by omega)⟩

theorem meetsHazard_of_pend_nil (h : (s.group c.gid).ops.pend = []) : s.meetsHazard c a = false := by
  simp [meetsHazard, h]

theorem meetsAccmism_of_q {q : Src} (hq : q ∈ a.srcs) {k : BitVec 2} (hk : q.opnd = .q k)
    (h : (s.group c.gid).flow.whole = false ∨ patternOf (s.group c.gid) k.toNat = none) :
    s.meetsAccmism c a = true := by
  have hmem := mem_queuesIn hq hk
  simp only [meetsAccmism, Bool.or_eq_true]
  refine .inl (h.imp (fun hw => ?_) fun hn => ?_)
  · simp [hw, List.ne_nil_of_mem hmem]
  · simp only [Bool.not_eq_true', List.all_eq_false]
    exact ⟨k.toNat, hmem, by simp [canPop, hn]⟩

end State

/-- What every meaning of the seven classes does where the instruction meets one of the conditions 4 to 8 of R252. -/
theorem run_fault {s : State} {c : Issue} {a : Ask} {body : State → Issue → Ctx → State} {cause : BitVec 8}
    (hc : s.cur = some c) (hf : c.replay = none) (hw : a.instr.wf = true) (h : s.entryFault c a = some cause) :
    run s a body = .next (s.trapNow c.gid cause (s.takers c a) c.clause c.idx) := by
  rw [run, State.enter_fault hc hf hw h]

/-- Settles O22: the entry takes the first condition that is met, in the order in which it looks at them. -/
theorem entryConditions : Obligations.EntryConditions := by
  intro s c a body hc hf hw x opnds trap unheld latch hazard mismatch
  have hunheld : unheld ↔ s.meetsUnheld c a = true := State.meetsUnheld_iff.symm
  have hlatch : latch ↔ s.meetsLatchinv c a = true := State.meetsLatchinv_iff.symm
  have hhazard : hazard → s.meetsHazard c a = true := by
    rintro ⟨b, hb, hm, p, hp, q, hq, d, k, r, l, hd, hk, hl, hquad, hd1, hd2, hk1, hk2, hr⟩
    exact State.meetsHazard_of_v hb hm hp hq hd hk hl hquad ⟨hd1, hd2⟩ ⟨hk1, hk2⟩ hr
  have hmismatch : mismatch → s.meetsAccmism c a = true := by
    rintro ⟨q, hq, k, hk, h⟩
    exact State.meetsAccmism_of_q hq hk h
  rw [hunheld, hlatch]
  refine ⟨fun hp => ?_, fun hp hu => ?_, fun hp hu hl => ?_, fun hp hu hl hz => ?_, fun hp hu hl hn hm => ?_⟩
  · exact run_fault hc hf hw (by simp [State.entryFault_eq, hp])
  · exact run_fault hc hf hw (by simp [State.entryFault_eq, hp, hu])
  · exact run_fault hc hf hw (by simp [State.entryFault_eq, hp, hu, hl])
  · exact run_fault hc hf hw (by simp [State.entryFault_eq, hp, hu, hl, hhazard hz])
  · exact run_fault hc hf hw (by simp [State.entryFault_eq, hp, hu, hl, State.meetsHazard_of_pend_nil hn, hmismatch hm])

end Sys2Proof.Machine

/-! SUPPORT. What the writing of a fault record leaves (R98, R254). -/

namespace Sys2Proof.Machine

@[simp] theorem length_recordBytes (r : Record) (seq : Word) : (recordBytes r seq).length = 64 := by
  simp [recordBytes]

namespace State

theorem chargeUnits_eq (s : State) (t n : Nat) : s.chargeUnits t n = { s with fab := (s.chargeUnits t n).fab } := by
  unfold chargeUnits
  split
  · rfl
  · rfl

theorem byteAt_congr {s t : State} (h : t.mem = s.mem) (a : Nat) : t.byteAt a = s.byteAt a := by rw [byteAt, byteAt, h]

/-- The block part of a group depends on the groups and the block parts alone. -/
theorem blockOf_congr {s t : State} {g : Nat} (hrole : (t.group g).role = (s.group g).role)
    (hblock : (t.group g).block = (s.group g).block) (hblocks : t.blocks = s.blocks) : t.blockOf g = s.blockOf g := by
  rw [blockOf, blockOf, block?, block?, hrole, hblock, hblocks]

theorem jobidOf_congr {s t : State} {g : Nat} (hblock : t.blockOf g = s.blockOf g) (hevents : t.events = s.events) :
    t.jobidOf g = s.jobidOf g := by
  rw [jobidOf, jobidOf, hblock]
  simp only [event, hevents]

@[simp] theorem chargeUnits_mem (s : State) (t n : Nat) : (s.chargeUnits t n).mem = s.mem := by rw [chargeUnits_eq]
@[simp] theorem chargeUnits_groups (s : State) (t n : Nat) : (s.chargeUnits t n).groups = s.groups := by
  rw [chargeUnits_eq]
@[simp] theorem chargeUnits_blocks (s : State) (t n : Nat) : (s.chargeUnits t n).blocks = s.blocks := by
  rw [chargeUnits_eq]
@[simp] theorem chargeUnits_events (s : State) (t n : Nat) : (s.chargeUnits t n).events = s.events := by
  rw [chargeUnits_eq]
@[simp] theorem chargeUnits_tenants (s : State) (t n : Nat) : (s.chargeUnits t n).tenants = s.tenants := by
  rw [chargeUnits_eq]

@[simp] theorem signal_mem (s : State) (fn vec : Nat) : (s.signal fn vec).mem = s.mem := by rw [signal_eq]
@[simp] theorem signal_groups (s : State) (fn vec : Nat) : (s.signal fn vec).groups = s.groups := by rw [signal_eq]
@[simp] theorem signal_blocks (s : State) (fn vec : Nat) : (s.signal fn vec).blocks = s.blocks := by rw [signal_eq]
@[simp] theorem signal_events (s : State) (fn vec : Nat) : (s.signal fn vec).events = s.events := by rw [signal_eq]
@[simp] theorem signal_tenants (s : State) (fn vec : Nat) : (s.signal fn vec).tenants = s.tenants := by rw [signal_eq]

/-- A record is written to memory, and neither groups, block parts nor the event table change. -/
@[simp] theorem storeRecord_groups (s : State) (t p : Nat) (r : Record) : (s.storeRecord t p r).groups = s.groups := by
  simp [storeRecord]
@[simp] theorem storeRecord_blocks (s : State) (t p : Nat) (r : Record) : (s.storeRecord t p r).blocks = s.blocks := by
  simp [storeRecord]
@[simp] theorem storeRecord_events (s : State) (t p : Nat) (r : Record) : (s.storeRecord t p r).events = s.events := by
  simp [storeRecord]

theorem storeRecord_blockOf (s : State) (t p : Nat) (r : Record) (g : Nat) :
    (s.storeRecord t p r).blockOf g = s.blockOf g := by
  have h : (s.storeRecord t p r).group g = s.group g := by rw [group, group, storeRecord_groups]
  exact blockOf_congr (by rw [h]) (by rw [h]) (storeRecord_blocks s t p r)

/-- The record's 64 bytes, and every other byte as before. -/
theorem storeRecord_byteAt (s : State) (t p : Nat) (r : Record) (a : Nat) : (s.storeRecord t p r).byteAt a =
    if p ≤ a ∧ a < p + 64 then (recordBytes r (s.tenant t).fq.tail).getD (a - p) 0 else s.byteAt a := by
  have hmem : (s.storeRecord t p r).mem =
      ((s.chargeUnits t (s.recordUnits t)).setBytes p (recordBytes r (s.tenant t).fq.tail)).mem := by
    simp [storeRecord]
  rw [byteAt_congr hmem, byteAt_setBytes, length_recordBytes, byteAt_congr (chargeUnits_mem s t _)]

theorem storeRecord_tail (s : State) (t p : Nat) (r : Record) :
    ((s.storeRecord t p r).tenant t).fq.tail = (s.tenant t).fq.tail + 1 := by
  simp [storeRecord, tenant, modFq_eq]

end State

end Sys2Proof.Machine

/-! SUPPORT. What the end of a cohort leaves (R120, R262, R263). -/

namespace Sys2Proof.Machine

namespace State

/-- A group that drains, every quad of which has exited. -/
def Drained (s : State) (g : Nat) : Prop := (s.group g).park = .draining ∧ (s.group g).flow.parts = []

/-- What groups that are killed leave: memory, the event table, the tail of every record queue, which groups are resident,
and that those drain which drained. -/
structure Kills (s t : State) : Prop where
  mem : t.mem = s.mem
  events : t.events = s.events
  tail : ∀ k, (t.tenant k).fq.tail = (s.tenant k).fq.tail
  resident : ∀ h, t.hasGroup h = s.hasGroup h
  drained : ∀ h, s.Drained h → t.Drained h

namespace Kills

variable {s t u : State}

theorem refl (s : State) : Kills s s := ⟨rfl, rfl, fun _ => rfl, fun _ => rfl, fun _ h => h⟩

theorem trans (h : Kills s t) (k : Kills t u) : Kills s u :=
  ⟨k.mem.trans h.mem, k.events.trans h.events, fun i => (k.tail i).trans (h.tail i),
    fun i => (k.resident i).trans (h.resident i), fun i hi => k.drained i (h.drained i hi)⟩

/-- A change that concerns neither memory, events, tenants nor groups. -/
theorem of_eq (hmem : t.mem = s.mem) (hevents : t.events = s.events) (htenants : t.tenants = s.tenants)
    (hgroups : t.groups = s.groups) : Kills s t := by
  refine ⟨hmem, hevents, fun k => ?_, fun h => ?_, fun h hd => ?_⟩
  · rw [tenant, tenant, htenants]
  · rw [hasGroup, hasGroup, hgroups]
  · rwa [Drained, group, hgroups]

theorem foldl {α : Type} {f : State → α → State} (hf : ∀ t x, Kills t (f t x)) (xs : List α) (s : State) :
    Kills s (xs.foldl f s) :=
  List.foldlRecOn (motive := Kills s) xs f (.refl s) fun t h x _ => h.trans (hf t x)

/-- What one of several kills drains, the others leave draining. -/
theorem foldl_drained {α : Type} {f : State → α → State} (hf : ∀ t x, Kills t (f t x)) {xs : List α} {x : α} {h : Nat}
    (hx : x ∈ xs) (hd : ∀ t, t.hasGroup h = true → (f t x).Drained h) (hh : s.hasGroup h = true) :
    (xs.foldl f s).Drained h := by
  obtain ⟨before, after, rfl⟩ := List.append_of_mem hx
  rw [List.foldl_append, List.foldl_cons]
  exact (foldl hf after _).drained h (hd _ (((foldl hf before s).resident h).trans hh))

end Kills

theorem forgetRecords_tail (s : State) (g k : Nat) : ((s.forgetRecords g).tenant k).fq.tail = (s.tenant k).fq.tail := by
  unfold forgetRecords modFq
  rw [modTenant_tenant]
  split
  · next h => rw [h]
  · rfl

/-- A killed group and every other. -/
theorem killGroup_group (s : State) (g h : Nat) : (s.killGroup g).group h =
    if h = g ∧ s.hasGroup g = true then
      { s.group g with
        park := .draining, flow := allExited (s.group g).flow, ops := { (s.group g).ops with pend := [], captures := [] }
        iss := { (s.group g).iss with held := [], stopped := none, passed := (s.group g).iss.compares } }
    else s.group h :=
  onGroup_group s g h _

theorem killGroup_drained {s : State} {g : Nat} (h : s.hasGroup g = true) : (s.killGroup g).Drained g := by
  rw [Drained, killGroup_group, if_pos ⟨rfl, h⟩]
  exact ⟨rfl, rfl⟩

theorem killGroup_kills (s : State) (g : Nat) : Kills s (s.killGroup g) where
  mem := onGroup_mem s g _
  events := onGroup_events s g _
  tail k := (forgetRecords_tail _ g k).trans (congrArg (fun t : Tenant => t.fq.tail) (onGroup_tenant s g k _))
  resident h := onGroup_hasGroup s g h _
  drained h hd := by
    by_cases hg : h = g ∧ s.hasGroup g = true
    · rw [hg.1]
      exact killGroup_drained hg.2
    · rwa [Drained, killGroup_group, if_neg hg]

theorem modBlock_kills (s : State) (b : Nat) (f : Block → Block) : Kills s (s.modBlock b f) := by
  unfold modBlock
  split
  · exact .refl s
  · exact .of_eq rfl rfl rfl rfl

theorem foldl_killGroup_kills (s : State) (gs : List Nat) : Kills s (gs.foldl (fun s g => s.killGroup g) s) :=
  .foldl (fun t g => t.killGroup_kills g) gs s

/-- The kill of a job's parts is the kill of their groups, after which only block parts, cores and services change. -/
theorem killParts_kills_groups (s : State) (job : Nat) :
    Kills ((s.blocks.filter fun b => b.2.job == job && !b.2.dead).foldl
      (fun s b => b.2.groups.foldl (fun s g => s.killGroup g) s) s) (s.killParts job) := by
  unfold killParts
  extract_lets mine t u
  have h : Kills t u := .foldl (fun v b => v.modBlock_kills b.1 _) mine t
  exact h.trans (.of_eq rfl rfl rfl rfl)

theorem killParts_kills (s : State) (job : Nat) : Kills s (s.killParts job) :=
  (Kills.foldl (fun t (b : Nat × Block) => t.foldl_killGroup_kills b.2.groups) _ s).trans (s.killParts_kills_groups job)

theorem killParts_drained {s : State} {job h : Nat} {x : Nat × Block} (hx : x ∈ s.blocks) (hjob : x.2.job = job)
    (hlive : x.2.dead = false) (hmem : h ∈ x.2.groups) (hh : s.hasGroup h = true) : (s.killParts job).Drained h := by
  refine (s.killParts_kills_groups job).drained h (Kills.foldl_drained (x := x)
    (fun t (b : Nat × Block) => t.foldl_killGroup_kills b.2.groups) ?_ (fun t ht => ?_) hh)
  · simp [hx, hjob, hlive]
  · exact Kills.foldl_drained (fun u g => u.killGroup_kills g) hmem (fun u hu => killGroup_drained hu) ht

/-- A job whose program has trapped fails with ATTEMPT 7, idempotent or not (R262). -/
theorem killJob_program {s : State} {e : Nat} (h : (s.event e).st = .running ∨ (s.event e).st = .mailed) :
    s.killJob e true = s.setEvent e { s.event e with st := .failed, attempt := 7, runs := [], left := 0 } := by
  simp [killJob, h]

/-- What the kill of a cohort for a program trap leaves: memory, the tail of every record queue, the job FAILED with
ATTEMPT 7, and every group of its parts draining. -/
structure Fails (job : Nat) (s t : State) : Prop where
  mem : t.mem = s.mem
  tail : ∀ k, (t.tenant k).fq.tail = (s.tenant k).fq.tail
  failed : (t.event job).st = .failed
  attempt : (t.event job).attempt = 7
  drained : ∀ x ∈ s.blocks, x.2.job = job → x.2.dead = false → ∀ h ∈ x.2.groups, s.hasGroup h = true → t.Drained h

theorem killCohort_fails {s : State} {job : Nat} (h : (s.event job).st = .running ∨ (s.event job).st = .mailed) :
    Fails job s (s.killCohort job true) := by
  have hkills := s.killParts_kills job
  have hevent : (s.killParts job).event job = s.event job := by rw [event, event, hkills.events]
  rw [killCohort, killJob_program (hevent ▸ h)]
  exact {
    mem := hkills.mem
    tail := hkills.tail
    failed := by rw [setEvent_event, if_pos rfl]
    attempt := by rw [setEvent_event, if_pos rfl]
    drained := fun x hx hjob hlive g hg hh => killParts_drained hx hjob hlive hg hh }

end State

end Sys2Proof.Machine

/-! SUPPORT. Taking a program trap: what is taken back, and the two ways on (R98, R251 to R255). -/

namespace Sys2Proof.Machine

namespace State

/-! ### What the issuing instruction owed before -/

theorem disown_owed {s : State} {g k : Nat} (hk : (s.group g).tenant = k) (h8 : k < 8) (n : Nat) :
    ((s.disown g n).tenant k).fq.owed = (s.tenant k).fq.owed.take ((s.tenant k).fq.owed.length - n) := by
  subst hk
  rw [disown, if_pos h8, modFq, modTenant_tenant, if_pos rfl]

/-- Records that are taken back concern the tenant's queue. -/
theorem disown_frame (s : State) (g n : Nat) : s.disown g n = { s with tenants := (s.disown g n).tenants } := by
  unfold disown
  split
  · rfl
  · rfl

@[simp] theorem disown_groups (s : State) (g n : Nat) : (s.disown g n).groups = s.groups := by rw [disown_frame]

/-- Nothing is taken back where the issuing instruction of the group has no capture. -/
theorem retract_of_none {s : State} {g : Nat} (h : ∀ c, s.cur = some c → c.gid = g → c.cap = none) : s.retract g = s := by
  unfold retract
  split
  · rfl
  · next id hid =>
    obtain ⟨c, hc, hcap⟩ := Option.bind_eq_some_iff.1 hid
    obtain ⟨hcur, hg⟩ := Option.filter_eq_some_iff.1 hc
    rw [h c hcur (beq_iff_eq.1 hg)] at hcap
    nomatch hcap

/-- The capture of the issuing instruction is given up, with the records that are owed for it. -/
theorem retract_of_capture {s : State} {g id : Nat} {c : Issue} {cap : Capture} (hcur : s.cur = some c) (hg : c.gid = g)
    (hcap : c.cap = some id) (hfind : ((s.group g).ops.captures.find? fun y => y.id == id) = some cap) :
    s.retract g = (s.disown g cap.unwritten).modOps g fun o =>
      { o with captures := o.captures.filter fun x => x.id != id } := by
  have hid : (s.cur.filter fun c => c.gid == g).bind (·.cap) = some id := by simp [hcur, hg, hcap, Option.filter]
  simp only [retract, hid, hfind]

section Capture

variable {s : State} {g k id : Nat} {c : Issue} {cap : Capture} (hcur : s.cur = some c) (hg : c.gid = g)
  (hcap : c.cap = some id) (hfind : ((s.group g).ops.captures.find? fun y => y.id == id) = some cap)

include hcur hg hcap hfind

theorem retract_owed (hk : (s.group g).tenant = k) (h8 : k < 8) : ((s.retract g).tenant k).fq.owed =
    (s.tenant k).fq.owed.take ((s.tenant k).fq.owed.length - cap.unwritten) := by
  rw [retract_of_capture hcur hg hcap hfind, modOps, onGroup_tenant, disown_owed hk h8]

theorem retract_captures (hres : s.hasGroup g = true) : ∀ y ∈ ((s.retract g).group g).ops.captures, y.id ≠ id := by
  have hdis : (s.disown g cap.unwritten).hasGroup g = true := by rwa [hasGroup, disown_groups]
  rw [retract_of_capture hcur hg hcap hfind, modOps, onGroup_group, if_pos ⟨rfl, hdis⟩]
  exact fun y hy => bne_iff_ne.1 (List.mem_filter.1 hy).2

end Capture

/-- What is taken back concerns the tenant's queue and the operations of the group. -/
structure Retracts (g : Nat) (s u : State) : Prop where
  frame : u = { s with tenants := u.tenants, groups := u.groups }
  own : ∀ h, u.group h = { s.group h with ops := (u.group h).ops }
  others : ∀ h, h ≠ g → u.group h = s.group h
  resident : ∀ h, u.hasGroup h = s.hasGroup h

theorem retract_retracts (s : State) (g : Nat) : Retracts g s (s.retract g) := by
  have hrefl : Retracts g s s := ⟨rfl, fun _ => rfl, fun _ _ => rfl, fun _ => rfl⟩
  unfold retract
  split
  · exact hrefl
  · split
    · exact hrefl
    · next k _ =>
      rw [disown_frame, modOps]
      refine ⟨?_, fun h => ?_, fun h hne => ?_, fun h => onGroup_hasGroup _ _ _ _⟩
      · unfold onGroup
        split
        · rfl
        · rfl
      · rw [onGroup_group]
        split
        · next e => rw [e.1]; rfl
        · rfl
      · rw [onGroup_group, if_neg fun e => hne e.1]
        rfl

variable {s : State} {g : Nat}

theorem retract_blockOf (s : State) (g : Nat) : (s.retract g).blockOf g = s.blockOf g := by
  have h := s.retract_retracts g
  exact blockOf_congr (by rw [h.own]) (by rw [h.own]) (by rw [h.frame])

/-! ### The trap -/

theorem helpersOnly_iff {lanes : Lanes} :
    s.helpersOnly g lanes = true ↔ lanes ≠ 0 ∧ lanes &&& ~~~(s.group g).flow.helper = 0 := by
  simp only [helpersOnly, Bool.and_eq_true, bne_iff_ne, beq_iff_eq]

/-- A trap whose record is written now (R98, R262). -/
theorem raise_of_ready {t : Trap} {k p : Nat} (hk : ((s.retract g).group g).tenant = k) (h8 : k < 8)
    (howed : ((s.retract g).tenant k).fq.owed = []) (hready : (s.retract g).recordReady k = some p) :
    s.raise g t = ((s.retract g).storeRecord k p ((s.retract g).recordOf g t false false)).endCohort g t.cause := by
  simp [raise, raiseFrom, hk, Nat.not_le.2 h8, howed, hready]

/-- The cohort of a job's group ends by the kill of its job (R262). -/
theorem endCohort_of_job {b : Block} (h : s.blockOf g = some b) (cause : BitVec 8) :
    s.endCohort g cause = s.killCohort b.job (programCause cause) := by
  simp only [endCohort, h]

/-- A program trap of a job's group whose record is written now: the job fails. -/
theorem raise_fails {t : Trap} {b : Block} {k p : Nat} (hb : s.blockOf g = some b) (hc : programCause t.cause = true)
    (hst : (s.event b.job).st = .running ∨ (s.event b.job).st = .mailed) (hk : ((s.retract g).group g).tenant = k)
    (h8 : k < 8) (howed : ((s.retract g).tenant k).fq.owed = []) (hready : (s.retract g).recordReady k = some p) :
    Fails b.job ((s.retract g).storeRecord k p ((s.retract g).recordOf g t false false)) (s.raise g t) := by
  rw [raise_of_ready hk h8 howed hready]
  generalize (s.retract g).recordOf g t false false = r
  have hblock : ((s.retract g).storeRecord k p r).blockOf g = some b := by rw [storeRecord_blockOf, retract_blockOf, hb]
  have hevent : ((s.retract g).storeRecord k p r).event b.job = s.event b.job := by
    rw [event, event, storeRecord_events, (s.retract_retracts g).frame]
  rw [endCohort_of_job hblock, hc]
  exact killCohort_fails (by rwa [hevent])

/-- What a trap whose record has to wait leaves: the record owed, the group parked, and neither memory, the event table nor
another group changed. -/
structure ParksFor (r : Record) (k g : Nat) (s t : State) : Prop where
  owed : (t.tenant k).fq.owed = (s.tenant k).fq.owed ++ [r]
  park : (t.group g).park = .wait .record
  mem : t.mem = s.mem
  events : t.events = s.events
  others : ∀ h, h ≠ g → t.group h = s.group h

theorem owe_parksFor {k : Nat} (h : s.hasGroup g = true) (r : Record) :
    ParksFor r k g s (((s.owe k r).onGroup g fun x => { x with park := .wait .record }).unissue g) where
  owed := by
    refine (congrArg (fun t : Tenant => t.fq.owed) (onGroup_tenant (s.owe k r) g k _)).trans ?_
    rw [owe, modFq, modTenant_tenant, if_pos rfl]
  park := congrArg Group.park ((onGroup_group (s.owe k r) g g _).trans (if_pos ⟨rfl, h⟩))
  mem := onGroup_mem (s.owe k r) g _
  events := onGroup_events (s.owe k r) g _
  others x hx := (onGroup_group (s.owe k r) g x _).trans (if_neg fun e => hx e.1)

/-- A trap whose record has to wait (R98). -/
theorem raise_parksFor {t : Trap} {k : Nat} (hg : s.hasGroup g = true) (hk : ((s.retract g).group g).tenant = k)
    (h8 : k < 8) (h : ((s.retract g).tenant k).fq.owed ≠ [] ∨ (s.retract g).recordReady k = none) :
    ParksFor { (s.retract g).recordOf g t false false with ends := true } k g (s.retract g) (s.raise g t) := by
  have hnone : (if ((s.retract g).tenant k).fq.owed = [] then (s.retract g).recordReady k else none) = none := by
    split
    · next he => exact h.resolve_left fun hne => hne he
    · rfl
  simp only [raise, raiseFrom, hk, hnone, if_neg (Nat.not_le.2 h8)]
  exact owe_parksFor (((s.retract_retracts g).resident g).trans hg) _

/-- A trap is raised unless it concerns helper lanes alone (R152). -/
theorem trapNow_raised {cause : BitVec 8} {lanes : Lanes} {clause idx : Nat}
    (h : ¬ (lanes ≠ 0 ∧ lanes &&& ~~~(s.group g).flow.helper = 0)) :
    s.trapNow g cause lanes clause idx = s.raise g (s.plainTrap g cause lanes clause idx 0) :=
  if_neg fun hh => h (helpersOnly_iff.1 hh)

theorem trapNow_helpers {cause : BitVec 8} {lanes : Lanes} {clause idx : Nat}
    (h : lanes ≠ 0 ∧ lanes &&& ~~~(s.group g).flow.helper = 0) : s.trapNow g cause lanes clause idx = s :=
  if_pos (helpersOnly_iff.2 h)

end State

/-- Settles O23: what the instruction owed is taken back, and the trap's record is written, with which the job fails, or
waits. -/
theorem trapTaken : Obligations.TrapTaken := by
  intro s g cause lanes clause idx b hb h8 hg hc hst k u fq t
  have hu : State.Retracts g s u := s.retract_retracts g
  have hk : (u.group g).tenant = k := by rw [hu.own]
  have hevents : u.events = s.events := by rw [hu.frame]
  have hblocks : u.blocks = s.blocks := by rw [hu.frame]
  have hmem : u.mem = s.mem := by rw [hu.frame]
  refine ⟨State.retract_of_none, fun c id cap hcur hcg hcap hfind =>
    ⟨State.retract_owed hcur hcg hcap hfind rfl h8, State.retract_captures hcur hcg hcap hfind hg⟩,
    State.trapNow_helpers, fun hh => ?_⟩
  have ht : t = s.raise g (s.plainTrap g cause lanes clause idx 0) := State.trapNow_raised hh
  clear_value t
  let r := u.recordOf g (s.plainTrap g cause lanes clause idx 0) false false
  refine ⟨r, rfl, rfl, rfl, rfl, rfl, rfl, State.jobidOf_congr (s.retract_blockOf g) hevents, rfl, rfl,
    fun p howed hready => ?_, fun hwait => ?_⟩
  · have hfails : State.Fails b.job (u.storeRecord k p r) t := ht ▸ State.raise_fails hb hc hst hk h8 howed hready
    refine ⟨fun a => ?_, ?_, hfails.failed, hfails.attempt, fun x hx hjob hlive h hin hres => ?_⟩
    · rw [State.byteAt_congr hfails.mem, State.storeRecord_byteAt, State.byteAt_congr hmem]
    · rw [hfails.tail, State.storeRecord_tail]
    · refine hfails.drained x ?_ hjob hlive h hin ?_
      · rwa [State.storeRecord_blocks, hblocks]
      · rwa [State.hasGroup, State.storeRecord_groups, ← State.hasGroup, hu.resident]
  · have hparks : State.ParksFor { r with ends := true } k g u t := ht ▸ State.raise_parksFor hg hk h8 hwait
    exact ⟨hparks.owed, hparks.park, hparks.mem.trans hmem, hparks.events.trans hevents,
      fun h hne => (hparks.others h hne).trans (hu.others h hne)⟩

end Sys2Proof.Machine
